-- ==== Sys2Proof/Word.lean ====
section
/-! DEFINITION. The word types of the part (R5: little-endian) and their plainest arithmetic. -/

namespace Sys2Proof

/-- One byte of memory. -/
abbrev Byte := BitVec 8
/-- A 32-bit register, memory word or instruction word. -/
abbrev Word := BitVec 32
/-- An 8-byte memory word, the unit of the memory code (R384). -/
abbrev DWord := BitVec 64
/-- A 48-bit physical address (R242). -/
abbrev Addr := BitVec 48

/-- Bits [hi:lo] of a word as a number (R4). -/
def bits {w : Nat} (x : BitVec w) (hi lo : Nat) : Nat := (x.toNat >>> lo) % 2 ^ (hi + 1 - lo)

/-- Bit n of a word. -/
def bit {w : Nat} (x : BitVec w) (n : Nat) : Bool := x.getLsbD n

/-- The word with ones in bits [hi:lo]. -/
def fieldMask (w hi lo : Nat) : BitVec w := BitVec.ofNat w (2 ^ (hi + 1 - lo) - 1) <<< lo

/-- A word with bits [hi:lo] replaced by the low bits of a number. -/
def setBits {w : Nat} (x : BitVec w) (hi lo v : Nat) : BitVec w :=
  (x &&& ~~~(fieldMask w hi lo)) ||| ((BitVec.ofNat w v <<< lo) &&& fieldMask w hi lo)

/-- A word with one bit replaced. -/
def setBit {w : Nat} (x : BitVec w) (n : Nat) (b : Bool) : BitVec w :=
  if b then x ||| (1#w <<< n) else x &&& ~~~(1#w <<< n)

/-- A number increased by one unless it stands at its field's greatest value. -/
def satInc (v hi : Nat) : Nat := if v < hi then v + 1 else hi

end Sys2Proof
end

