-- ==== Sys2Proof/Config.lean ====
section
/-! DEFINITION. The values the manual leaves to the outside or to one part: constants without a body, so that no proof can know
them (log 8, log 9). -/

namespace Sys2Proof

/-- The n-th free value: a value the manual does not fix (log 8). -/
opaque Config.freeValue (n : Nat) : BitVec 256
/-- SHA-256 (log 9). -/
opaque Config.sha256 (data : List Byte) : BitVec 256
/-- HMAC-SHA-256 of data under a key (log 9). -/
opaque Config.hmac (key : BitVec 256) (data : List Byte) : BitVec 256
/-- The 64 bytes of HKDF-SHA-256 output for an input key, salt and context (log 9). -/
opaque Config.hkdf (key : BitVec 256) (salt info : List Byte) : BitVec 512
/-- Verification of an Ed25519 signature over data under a public key (log 9). -/
opaque Config.ed25519 (key : BitVec 256) (sig : List Byte) (data : List Byte) : Bool
/-- Ordering code of the part in its fuses (R27): 0 SL7160-IA, 1 SL7160-IX. -/
opaque Config.order : BitVec 1
/-- Die id of the part in its fuses (R533). -/
opaque Config.dieId : BitVec 64
/-- Version of the stage manager's ROM (R501). -/
opaque Config.romVersion : BitVec 32
/-- Image key 0, the service-image key (R533). -/
opaque Config.imageKey0 : BitVec 256
/-- The overlay key (R533). -/
opaque Config.overlayKey : BitVec 256

end Sys2Proof
end

