-- ==== Sys2Proof/Syntax.lean ====
section
/-! DEFINITION. The commands of the part: one constructor of `Instr` for each row of spec/opcode_table.json, and the types of
their operands. An instruction row names the role that issues (R19) and the instruction word the role holds (R137); an event row
names what the event is about. A management command names the mailbox set and slot that holds its block (R471). -/

namespace Sys2Proof

/-- Role number (R19): 0 to 511 player roles, 512 to 527 lead roles. -/
abbrev RoleId := Fin 528
/-- Core number: 0 to 127 the logical players (R17), 128 + c lead c.L (R20). -/
abbrev CoreId := Fin 136
/-- Queue number (R303): 256 troupe, 64 company, 16 house. -/
abbrev QueueId := Fin 336
/-- Physical core: 5 slots of each of 32 troupes (R18), 160 + p lead p of R377. -/
abbrev PhysId := Fin 170
/-- Number of a 64-byte line of a CXL window: address bits [47:6]. -/
abbrev Line := BitVec 42

/-- Who makes a register write: a role, with or without DBT authority (R607), the debug link, or the stage manager. -/
inductive Agent where
  | role (r : RoleId) (dbt : Bool)
  | link
  | sm
deriving DecidableEq, Repr

/-- What a core fault detector found (R347): an illegal dual-rail code, in a stage of one role or in issue control, the fetch unit or
the multiplier; a register-file parity error of one of three kinds; or differing signatures of a cast pair. -/
inductive CoreFault where
  | dualRail (wide : Bool) | parityG | paritySpecial | parityTicket | castMismatch
deriving DecidableEq, Repr

/-- Where the stall detector found an unfinished handshake (R34, R347). -/
inductive StallStage where
  | roleStage | issueControl | leadUnit
deriving DecidableEq, Repr

/-- What a CXL device answers when a port is brought up (R404): serial, capacity in 256 MiB units, persistence. -/
structure CxlDevice where
  serial : BitVec 64
  cap : BitVec 16
  persistent : Bool
deriving DecidableEq, Repr

/-- How a CXL completion ends a request (R410, R412). -/
inductive CxlStatus where
  | ok | poison | error
deriving DecidableEq, Repr

/-- Why the stage manager restarts (R466). -/
inductive WarmCause where
  | mismatch | sramError | stall
deriving DecidableEq, Repr

/-- A frame that a serial channel receives (R595): its bytes after transparency and FCS removal, its error, abort and RTR
flags, and for CAN its identifier word as CAN_TXID lays it out. -/
structure RxFrame where
  data : List Byte
  err : Bool
  abort : Bool
  rtr : Bool
  canId : Word
deriving DecidableEq, Repr

/-- CAN error states (ISO 11898-1), as R601 raises events for them. -/
inductive CanState where
  | active | passive | busOff
deriving DecidableEq, Repr

/-- The commands, in the order of the opcode table. -/
inductive Instr where
  /-- ADD (R108). -/
  | add (r : RoleId) (w : Word)
  /-- ADDC (R108). -/
  | addc (r : RoleId) (w : Word)
  /-- SUB (R108). -/
  | sub (r : RoleId) (w : Word)
  /-- SUBC (R108). -/
  | subc (r : RoleId) (w : Word)
  /-- AND (R108). -/
  | and (r : RoleId) (w : Word)
  /-- OR (R108). -/
  | or (r : RoleId) (w : Word)
  /-- XOR (R108). -/
  | xor (r : RoleId) (w : Word)
  /-- ANDN (R108). -/
  | andn (r : RoleId) (w : Word)
  /-- MOV (R108). -/
  | mov (r : RoleId) (w : Word)
  /-- NOT (R108). -/
  | not (r : RoleId) (w : Word)
  /-- LSL (R110). -/
  | lsl (r : RoleId) (w : Word)
  /-- LSR (R110). -/
  | lsr (r : RoleId) (w : Word)
  /-- ASR (R110). -/
  | asr (r : RoleId) (w : Word)
  /-- ROR (R110). -/
  | ror (r : RoleId) (w : Word)
  /-- CMP (R109). -/
  | cmp (r : RoleId) (w : Word)
  /-- CMPA (R109). -/
  | cmpa (r : RoleId) (w : Word)
  /-- TST (R108). -/
  | tst (r : RoleId) (w : Word)
  /-- TSTX (R108). -/
  | tstx (r : RoleId) (w : Word)
  /-- MINS (R108). -/
  | mins (r : RoleId) (w : Word)
  /-- MAXS (R108). -/
  | maxs (r : RoleId) (w : Word)
  /-- MINU (R108). -/
  | minu (r : RoleId) (w : Word)
  /-- MAXU (R108). -/
  | maxu (r : RoleId) (w : Word)
  /-- CLZ (R108). -/
  | clz (r : RoleId) (w : Word)
  /-- SXB (R108). -/
  | sxb (r : RoleId) (w : Word)
  /-- SXH (R108). -/
  | sxh (r : RoleId) (w : Word)
  /-- ZXH (R108). -/
  | zxh (r : RoleId) (w : Word)
  /-- ADDI (R111). -/
  | addi (r : RoleId) (w : Word)
  /-- ADDIF (R111). -/
  | addif (r : RoleId) (w : Word)
  /-- CMPI (R111). -/
  | cmpi (r : RoleId) (w : Word)
  /-- ANDI (R111). -/
  | andi (r : RoleId) (w : Word)
  /-- ORI (R111). -/
  | ori (r : RoleId) (w : Word)
  /-- XORI (R111). -/
  | xori (r : RoleId) (w : Word)
  /-- TSTI (R111). -/
  | tsti (r : RoleId) (w : Word)
  /-- LSLI (R111). -/
  | lsli (r : RoleId) (w : Word)
  /-- LSRI (R111). -/
  | lsri (r : RoleId) (w : Word)
  /-- ASRI (R111). -/
  | asri (r : RoleId) (w : Word)
  /-- RORI (R111). -/
  | rori (r : RoleId) (w : Word)
  /-- SHIN (R111). -/
  | shin (r : RoleId) (w : Word)
  /-- DADD (R114). -/
  | dadd (r : RoleId) (w : Word)
  /-- DADD_C (R114). -/
  | daddC (r : RoleId) (w : Word)
  /-- DSUB (R114). -/
  | dsub (r : RoleId) (w : Word)
  /-- DSUB_C (R114). -/
  | dsubC (r : RoleId) (w : Word)
  /-- DADJ (R116). -/
  | dadj (r : RoleId) (w : Word)
  /-- DSHL (R117). -/
  | dshl (r : RoleId) (w : Word)
  /-- DSHR (R117). -/
  | dshr (r : RoleId) (w : Word)
  /-- BIN2D (R118). -/
  | bin2d (r : RoleId) (w : Word)
  /-- D2BIN (R118). -/
  | d2bin (r : RoleId) (w : Word)
  /-- MUL (R120). -/
  | mul (r : RoleId) (w : Word)
  /-- MULU (R120). -/
  | mulu (r : RoleId) (w : Word)
  /-- PRODUCT_LANDING (R78). -/
  | productLanding (r : RoleId)
  /-- DIV (R125). -/
  | div (r : RoleId) (w : Word)
  /-- DIVU (R125). -/
  | divu (r : RoleId) (w : Word)
  /-- MULTI_BEAT_RETIRE (R105). -/
  | multiBeatRetire (r : RoleId)
  /-- LOAD (R131). -/
  | load (r : RoleId) (w : Word)
  /-- LOAD_RESPONSE (R194). -/
  | loadResponse (r : RoleId)
  /-- STORE (R131). -/
  | store (r : RoleId) (w : Word)
  /-- STORE_ACCEPTED (R187). -/
  | storeAccepted (r : RoleId) (k : Fin 8)
  /-- STORE_ERROR_RESPONSE (R134). -/
  | storeErrorResponse (r : RoleId) (k : Fin 8)
  /-- QPUSH (R140). -/
  | qpush (r : RoleId) (w : Word)
  /-- QPOP (R140). -/
  | qpop (r : RoleId) (w : Word)
  /-- QPOPT (R143). -/
  | qpopt (r : RoleId) (w : Word)
  /-- QOPEN (R312). -/
  | qopen (r : RoleId) (w : Word)
  /-- QCLOSE (R312). -/
  | qclose (r : RoleId) (w : Word)
  /-- QUEUE_PUSH_ACCEPTED (R310). -/
  | queuePushAccepted (r : RoleId)
  /-- QUEUE_POP_DELIVERED (R309). -/
  | queuePopDelivered (r : RoleId)
  /-- CUE (R147). -/
  | cue (r : RoleId) (w : Word)
  /-- LDX (R148). -/
  | ldx (r : RoleId) (w : Word)
  /-- LDXP (R148). -/
  | ldxp (r : RoleId) (w : Word)
  /-- STX (R148). -/
  | stx (r : RoleId) (w : Word)
  /-- STXP (R148). -/
  | stxp (r : RoleId) (w : Word)
  /-- TMOVE (R151). -/
  | tmove (r : RoleId) (w : Word)
  /-- TCLR (R151). -/
  | tclr (r : RoleId) (w : Word)
  /-- TNARROW (R153). -/
  | tnarrow (r : RoleId) (w : Word)
  /-- TPERM (R154). -/
  | tperm (r : RoleId) (w : Word)
  /-- TSEAL (R155). -/
  | tseal (r : RoleId) (w : Word)
  /-- TUNSEAL (R155). -/
  | tunseal (r : RoleId) (w : Word)
  /-- TLOAD (R156). -/
  | tload (r : RoleId) (w : Word)
  /-- TSTORE (R156). -/
  | tstore (r : RoleId) (w : Word)
  /-- TGET (R157). -/
  | tget (r : RoleId) (w : Word)
  /-- TRDS (R158). -/
  | trds (r : RoleId) (w : Word)
  /-- TWRS (R158). -/
  | twrs (r : RoleId) (w : Word)
  /-- BRANCH (R163). -/
  | branch (r : RoleId) (w : Word)
  /-- BL (R163). -/
  | bl (r : RoleId) (w : Word)
  /-- CALLT (R159). -/
  | callt (r : RoleId) (w : Word)
  /-- RETT (R160). -/
  | rett (r : RoleId) (w : Word)
  /-- JR (R164). -/
  | jr (r : RoleId) (w : Word)
  /-- JRL (R164). -/
  | jrl (r : RoleId) (w : Word)
  /-- MFS (R76). -/
  | mfs (r : RoleId) (w : Word)
  /-- MTS (R76). -/
  | mts (r : RoleId) (w : Word)
  /-- SYNC_I (R139). -/
  | syncI (r : RoleId) (w : Word)
  /-- WAIT (R166). -/
  | wait (r : RoleId) (w : Word)
  /-- WAITCUE (R167). -/
  | waitcue (r : RoleId) (w : Word)
  /-- WAITCUE_WAKE (R167). -/
  | waitcueWake (r : RoleId)
  /-- MASK (R168). -/
  | mask (r : RoleId) (w : Word)
  /-- RFE (R264). -/
  | rfe (r : RoleId) (w : Word)
  /-- REP (R171). -/
  | rep (r : RoleId) (w : Word)
  /-- REP_ITERATION (R171). -/
  | repIteration (r : RoleId)
  /-- SCENE_BEGIN (R327). -/
  | sceneBegin (r : RoleId) (w : Word)
  /-- SCENE_END (R338). -/
  | sceneEnd (r : RoleId) (w : Word)
  /-- DMUL16 (R218). -/
  | dmul16 (r : RoleId) (w : Word)
  /-- DDIV16 (R218). -/
  | ddiv16 (r : RoleId) (w : Word)
  /-- MUL64 (R218). -/
  | mul64 (r : RoleId) (w : Word)
  /-- MUL64U (R218). -/
  | mul64u (r : RoleId) (w : Word)
  /-- DIV64 (R218). -/
  | div64 (r : RoleId) (w : Word)
  /-- DIV64U (R218). -/
  | div64u (r : RoleId) (w : Word)
  /-- CRC32C (R219). -/
  | crc32c (r : RoleId) (w : Word)
  /-- HPINT (R220). -/
  | hpint (r : RoleId) (w : Word)
  /-- HPRICE (R220). -/
  | hprice (r : RoleId) (w : Word)
  /-- LBAR (R222). -/
  | lbar (r : RoleId) (w : Word)
  /-- LMODER (R217). -/
  | lmoder (r : RoleId) (w : Word)
  /-- LMODEW (R217). -/
  | lmodew (r : RoleId) (w : Word)
  /-- LCLEAN (R213). -/
  | lclean (r : RoleId) (w : Word)
  /-- LONG_OP_RETIRE (R215). -/
  | longOpRetire (r : RoleId) (unit : Fin 3)
  /-- DCACHE_FILL (R207). -/
  | dcacheFill (lead : Fin 10) (line : Line)
  /-- INTERRUPT_RECOGNITION (R192). -/
  | interruptRecognition (r : RoleId)
  /-- PFAIL_ASSERT (R420). -/
  | pfailAssert
  /-- PFAIL_DEASSERT (R422). -/
  | pfailDeassert
  /-- GPF_PHASE_COMPLETE (R420). -/
  | gpfPhaseComplete (port : Fin 2) (timeout : Bool)
  /-- BEATPER_WINDOW (R55). -/
  | beatperWindow (core : CoreId) (beats : BitVec 16)
  /-- METRONOME_BOUNDARY (R59). -/
  | metronomeBoundary (ticks : BitVec 32)
  /-- XTAL_LOST (R63). -/
  | xtalLost
  /-- OSCILLATOR_FAILOVER (R381). -/
  | oscillatorFailover
  /-- METRO_LO_READ (R62). -/
  | metroLoRead
  /-- FIRE_TAKEN (R278). -/
  | fireTaken (latch : Fin 1192)
  /-- HARDWARE_EVENT_FIRE (R275). -/
  | hardwareEventFire (event : BitVec 12)
  /-- CONSTANT_WORD_PUSH (R280). -/
  | constantWordPush (q : QueueId)
  /-- PAD_CUE_ACTION (R279). -/
  | padCueAction (p : Fin 192)
  /-- TIMER_CUE_ACTION (R279). -/
  | timerCueAction (n : Fin 64)
  /-- UIB_CUE_ACTION (R38). -/
  | uibCueAction (u : Fin 256)
  /-- CALL_SHEET_RECORD_WRITE (R296). -/
  | callSheetRecordWrite (c : Fin 8)
  /-- CS_CONS_WRITE (R294). -/
  | csConsWrite (r : RoleId) (level : Fin 12) (v : Word)
  /-- CS_DESCRIPTOR_WRITE (R299). -/
  | csDescriptorWrite (a : Agent) (r : RoleId) (level : Fin 12) (cfg : Bool) (v : Word)
  /-- CROSSBAR_ROUTE_WRITE (R285). -/
  | crossbarRouteWrite (a : Agent) (ch : Fin 1024) (reg : Fin 6) (v : Word)
  /-- TIMER_START (R301). -/
  | timerStart (n : Fin 64)
  /-- TIMER_STOP (R302). -/
  | timerStop (n : Fin 64)
  /-- TIMER_EXPIRY (R301). -/
  | timerExpiry (n : Fin 64)
  /-- UIB_PWRREQ_WRITE (R31). -/
  | uibPwrreqWrite (u : Fin 256) (v : Word)
  /-- UIB_HOLD_WRITE (R36). -/
  | uibHoldWrite (a : Agent) (u : Fin 256) (v : Word)
  /-- HOLD_ENTRY (R609). -/
  | holdEntry (r : RoleId)
  /-- HOLD_RELEASE (R612). -/
  | holdRelease (r : RoleId)
  /-- UIB_FAULT_CLEAR (R42). -/
  | uibFaultClear (u : Fin 256) (v : Word)
  /-- UIB_FAULT_CLRCNT (R32). -/
  | uibFaultClrcnt (u : Fin 256)
  /-- UIB_CUEIN_WRITE (R38). -/
  | uibCueinWrite (a : Agent) (u : Fin 256) (v : Word)
  /-- QUEUE_FLUSH (R319). -/
  | queueFlush (q : QueueId)
  /-- CURTAIN_LOCK_GRANT (R338). -/
  | curtainLockGrant (r : RoleId)
  /-- CURTAIN_FLIP (R338). -/
  | curtainFlip (r : RoleId)
  /-- STAGING_DRAIN (R339). -/
  | stagingDrain (area : Fin 10)
  /-- EFFECT_RELEASE (R345). -/
  | effectRelease (r : RoleId)
  /-- CORE_FAULT_DETECTED (R350). -/
  | coreFaultDetected (r : RoleId) (kind : CoreFault)
  /-- STALL_DETECTOR_EXPIRY (R347). -/
  | stallDetectorExpiry (r : RoleId) (stage : StallStage)
  /-- SCN_CTL_ABANDON (R611). -/
  | scnCtlAbandon (a : Agent) (r : RoleId)
  /-- SCN_CTL_REPLAY (R611). -/
  | scnCtlReplay (a : Agent) (r : RoleId)
  /-- SCN_CTL_CLRCNT (R359). -/
  | scnCtlClrcnt (r : RoleId)
  /-- CORE_MIGRATION (R368). -/
  | coreMigration (core : Fin 128) (cause : Byte)
  /-- LEAD_MIGRATION (R372). -/
  | leadMigration (c : Fin 8) (spare : Fin 2) (cause : Byte)
  /-- SLACK_READING (R364). -/
  | slackReading (slot : PhysId) (ps : BitVec 16)
  /-- RETIREMENT_NOTICE_REPEAT (R366). -/
  | retirementNoticeRepeat (slot : PhysId)
  /-- SCRUB_WORD (R392). -/
  | scrubWord
  /-- SRAM_REPAIR_COMPLETE (R379). -/
  | sramRepairComplete (n : Fin 32) (fused : Bool)
  /-- CORRECTION_REWRITE (R389). -/
  | correctionRewrite
  /-- SHADOW_FORMAT_DONE (R398). -/
  | shadowFormatDone (w : Fin 3)
  /-- CXL_PORT_BRINGUP (R404). -/
  | cxlPortBringup (p : Fin 2) (dev : Option CxlDevice)
  /-- CXL_LINK_TRAINED (R405). -/
  | cxlLinkTrained (p : Fin 2) (speed : Fin 4) (width : Fin 5)
  /-- CXL_LINK_ERROR (R412). -/
  | cxlLinkError (p : Fin 2) (bit : Fin 15) (req : Option (Fin 512))
  /-- CXL_LINK_DOWN (R412). -/
  | cxlLinkDown (p : Fin 2)
  /-- CXL_COMPLETION (R410). -/
  | cxlCompletion (p : Fin 2) (req : Fin 512) (status : CxlStatus)
  /-- CXL_COMPLETION_TIMEOUT (R413). -/
  | cxlCompletionTimeout (p : Fin 2) (req : Fin 512)
  /-- CXL_RETRAIN_ATTEMPT (R414). -/
  | cxlRetrainAttempt (p : Fin 2) (serial : Option (BitVec 64))
  /-- RESYNC_LINE_COPY (R419). -/
  | resyncLineCopy
  /-- HEALTH_SCORE_DECAY (R418). -/
  | healthScoreDecay
  /-- DIRTY_WRITEBACK (R411). -/
  | dirtyWriteback
  /-- FEED_POP (R426). -/
  | feedPop (h : Fin 2) (q : Fin 8)
  /-- BLOCK_AGE_CHECK (R444). -/
  | blockAgeCheck (h : Fin 2)
  /-- CLOSE_ENGINE_HALF (R448). -/
  | closeEngineHalf (h : Fin 2)
  /-- CONTEXT_FETCH (R455). -/
  | contextFetch (h : Fin 2)
  /-- HC_CONFIG (R432). -/
  | hcConfig (h : Fin 2)
  /-- HC_FLUSH (R432). -/
  | hcFlush (h : Fin 2)
  /-- HC_RESET (R432). -/
  | hcReset (h : Fin 2)
  /-- HC_FLUSH_ALL (R432). -/
  | hcFlushAll (h : Fin 2)
  /-- HC_DRAIN (R457). -/
  | hcDrain (h : Fin 2)
  /-- RING_ENABLE (R450). -/
  | ringEnable (h : Fin 2) (ring : Fin 4)
  /-- RNG_CONS_WRITE (R451). -/
  | rngConsWrite (h : Fin 2) (ring : Fin 4) (v : Word)
  /-- PLAYBACK_START (R453). -/
  | playbackStart (h : Fin 2)
  /-- PLAYBACK_DONE (R454). -/
  | playbackDone (h : Fin 2)
  /-- MAILBOX_RING (R471). -/
  | mailboxRing (link : Bool) (mask : Byte)
  /-- MAILBOX_FREE (R475). -/
  | mailboxFree (link : Bool) (mask : Byte)
  /-- SET1_DOORBELL (R477). -/
  | set1Doorbell (q : Fin 4)
  /-- SPI_WRITE (R474). -/
  | spiWrite (addr : BitVec 16) (data : List Byte)
  /-- SPI_QWRITE (R474). -/
  | spiQwrite (addr : BitVec 16) (data : List Byte)
  /-- SPI_READ (R474). -/
  | spiRead (addr : BitVec 16) (words : Fin 1024)
  /-- SPI_QREAD (R474). -/
  | spiQread (addr : BitVec 16) (words : Fin 1024)
  /-- SPI_STATUS (R474). -/
  | spiStatus
  /-- SPI_WAKE (R562). -/
  | spiWake
  /-- SPI_BAD_INSTRUCTION (R474). -/
  | spiBadInstruction (b : Byte)
  /-- SM_WARM_RESET (R466). -/
  | smWarmReset (cause : WarmCause)
  /-- OPEN_EXPIRY (R482). -/
  | openExpiry (n : Fin 4)
  /-- SESSION_IDLE_TIMEOUT (R486). -/
  | sessionIdleTimeout (n : Fin 4)
  /-- JOB_COMPLETE (R498). -/
  | jobComplete (n : Fin 8) (status : Byte)
  /-- JOB_EXPIRY (R498). -/
  | jobExpiry (n : Fin 8)
  /-- DARK_AUTO_RESTART (R491). -/
  | darkAutoRestart (core : CoreId)
  /-- POWER_RECONCILE (R636). -/
  | powerReconcile
  /-- VID_STEP (R53). -/
  | vidStep
  /-- OPEN_SESSION (R482). -/
  | openSession (set : Fin 3) (slot : Fin 8)
  /-- PROVE (R483). -/
  | prove (set : Fin 3) (slot : Fin 8)
  /-- CLOSE_SESSION (R501). -/
  | closeSession (set : Fin 3) (slot : Fin 8)
  /-- IDENTIFY (R501). -/
  | identify (set : Fin 3) (slot : Fin 8)
  /-- HEALTH (R502). -/
  | health (set : Fin 3) (slot : Fin 8)
  /-- JOB_STATUS (R501). -/
  | jobStatus (set : Fin 3) (slot : Fin 8)
  /-- SM_POLICY (R501). -/
  | smPolicy (set : Fin 3) (slot : Fin 8)
  /-- IMAGE_CHUNK (R505). -/
  | imageChunk (set : Fin 3) (slot : Fin 8)
  /-- IMAGE_LOAD (R505). -/
  | imageLoad (set : Fin 3) (slot : Fin 8)
  /-- IMAGE_UNLOAD (R505). -/
  | imageUnload (set : Fin 3) (slot : Fin 8)
  /-- OVERLAY_LOAD (R505). -/
  | overlayLoad (set : Fin 3) (slot : Fin 8)
  /-- UNIT_START (R505). -/
  | unitStart (set : Fin 3) (slot : Fin 8)
  /-- UNIT_STOP (R505). -/
  | unitStop (set : Fin 3) (slot : Fin 8)
  /-- UNIT_RESTART (R270). -/
  | unitRestart (set : Fin 3) (slot : Fin 8)
  /-- UNIT_HOLD (R505). -/
  | unitHold (set : Fin 3) (slot : Fin 8)
  /-- POWER_REQ (R543). -/
  | powerReq (set : Fin 3) (slot : Fin 8)
  /-- HOUSE_STATE (R548). -/
  | houseState (set : Fin 3) (slot : Fin 8)
  /-- SET_VCORE (R505). -/
  | setVcore (set : Fin 3) (slot : Fin 8)
  /-- WALK_CONFIG (R505). -/
  | walkConfig (set : Fin 3) (slot : Fin 8)
  /-- WEAR_POLICY (R507). -/
  | wearPolicy (set : Fin 3) (slot : Fin 8)
  /-- RETIRE_DECIDE (R507). -/
  | retireDecide (set : Fin 3) (slot : Fin 8)
  /-- MIGRATE (R507). -/
  | migrate (set : Fin 3) (slot : Fin 8)
  /-- UNRETIRE (R507). -/
  | unretire (set : Fin 3) (slot : Fin 8)
  /-- SCRUB_SET (R393). -/
  | scrubSet (set : Fin 3) (slot : Fin 8)
  /-- SRAM_REPAIR (R507). -/
  | sramRepair (set : Fin 3) (slot : Fin 8)
  /-- CXL_CONFIG (R507). -/
  | cxlConfig (set : Fin 3) (slot : Fin 8)
  /-- CXL_DECODER (R407). -/
  | cxlDecoder (set : Fin 3) (slot : Fin 8)
  /-- CXL_SHADOW (R398). -/
  | cxlShadow (set : Fin 3) (slot : Fin 8)
  /-- CXL_PORT (R507). -/
  | cxlPort (set : Fin 3) (slot : Fin 8)
  /-- CXL_MIRROR (R507). -/
  | cxlMirror (set : Fin 3) (slot : Fin 8)
  /-- HC_SETUP (R508). -/
  | hcSetup (set : Fin 3) (slot : Fin 8)
  /-- HC_RING (R508). -/
  | hcRing (set : Fin 3) (slot : Fin 8)
  /-- HC_CHANNEL (R508). -/
  | hcChannel (set : Fin 3) (slot : Fin 8)
  /-- HC_PLAYBACK (R508). -/
  | hcPlayback (set : Fin 3) (slot : Fin 8)
  /-- CUE_ROUTE (R509). -/
  | cueRoute (set : Fin 3) (slot : Fin 8)
  /-- CUE_FIRE (R508). -/
  | cueFire (set : Fin 3) (slot : Fin 8)
  /-- PIN_CLAIM (R588). -/
  | pinClaim (set : Fin 3) (slot : Fin 8)
  /-- PIN_RELEASE (R588). -/
  | pinRelease (set : Fin 3) (slot : Fin 8)
  /-- PAD_RELEASE (R526). -/
  | padRelease (set : Fin 3) (slot : Fin 8)
  /-- REG_READ (R515). -/
  | regRead (set : Fin 3) (slot : Fin 8)
  /-- REG_WRITE (R516). -/
  | regWrite (set : Fin 3) (slot : Fin 8)
  /-- LOG_READ (R517). -/
  | logRead (set : Fin 3) (slot : Fin 8)
  /-- TIME_SET (R518). -/
  | timeSet (set : Fin 3) (slot : Fin 8)
  /-- TIME_GET (R510). -/
  | timeGet (set : Fin 3) (slot : Fin 8)
  /-- RTC_ALARM (R510). -/
  | rtcAlarm (set : Fin 3) (slot : Fin 8)
  /-- FUSE_READ (R510). -/
  | fuseRead (set : Fin 3) (slot : Fin 8)
  /-- KEY_PROVISION (R511). -/
  | keyProvision (set : Fin 3) (slot : Fin 8)
  /-- KEY_REVOKE (R512). -/
  | keyRevoke (set : Fin 3) (slot : Fin 8)
  /-- ROLLBACK_RAISE (R510). -/
  | rollbackRaise (set : Fin 3) (slot : Fin 8)
  /-- PATCH_PROGRAM (R510). -/
  | patchProgram (set : Fin 3) (slot : Fin 8)
  /-- DEBUG_UNLOCK (R513). -/
  | debugUnlock (set : Fin 3) (slot : Fin 8)
  /-- DEBUG_DISABLE (R514). -/
  | debugDisable (set : Fin 3) (slot : Fin 8)
  /-- AON_POWER_ON (R519). -/
  | aonPowerOn
  /-- PORST_ASSERT (R520). -/
  | porstAssert
  /-- PORST_RELEASE (R527). -/
  | porstRelease
  /-- BROWNOUT (R519). -/
  | brownout (src : Fin 4)
  /-- HOUSE_WATCHDOG_EXPIRY (R523). -/
  | houseWatchdogExpiry
  /-- SRAM_BIST_DONE (R527). -/
  | sramBistDone
  /-- WINDOW_READY_BOOT (R527). -/
  | windowReadyBoot (w : Fin 3)
  /-- FUSE_PROGRAM (R535). -/
  | fuseProgram
  /-- FUSE_PROGRAM_DONE (R535). -/
  | fuseProgramDone (ok : Bool)
  /-- REFCLK_LOSS (R654). -/
  | refclkLoss
  /-- REFCLK_RETURN (R654). -/
  | refclkReturn
  /-- HOUSE_ENTRY_BEGIN (R549). -/
  | houseEntryBegin
  /-- POWER_ENTRY (R550). -/
  | powerEntry
  /-- NAP_ENTRY (R551). -/
  | napEntry
  /-- HOUSE_EXIT (R565). -/
  | houseExit
  /-- WAKE_I2C_MATCH (R559). -/
  | wakeI2cMatch (read : Bool)
  /-- WAKE_PIN (R560). -/
  | wakePin (n : Fin 16) (level : Bool)
  /-- RTC_ALARM_MATCH (R561). -/
  | rtcAlarmMatch
  /-- WALK_SCAN (R556). -/
  | walkScan (codes : List (BitVec 12))
  /-- DOMAIN_ON_COMPLETE (R540). -/
  | domainOnComplete (d : Fin 66) (slot : Option PhysId) (bad : BitVec 4)
  /-- EVENT_CROSSING_LAUNCH (R580). -/
  | eventCrossingLaunch (event : BitVec 12)
  /-- CLOCK_RESUME (R583). -/
  | clockResume (d : Fin 64)
  /-- PAD_INPUT_EDGE (R590). -/
  | padInputEdge (p : Fin 192) (level : Bool)
  /-- SERIAL_TX_WRITE (R594). -/
  | serialTxWrite (ch : Fin 18) (v : Word)
  /-- SERIAL_RX_BYTE (R595). -/
  | serialRxByte (ch : Fin 18) (b : Byte) (flags : BitVec 3)
  /-- SERIAL_RX_FRAME (R595). -/
  | serialRxFrame (ch : Fin 18) (f : RxFrame)
  /-- SERIAL_RX_OVERRUN (R596). -/
  | serialRxOverrun (ch : Fin 18)
  /-- SERIAL_TX_COMPLETE (R601). -/
  | serialTxComplete (ch : Fin 18)
  /-- SERIAL_FLUSH_RX (R601). -/
  | serialFlushRx (ch : Fin 18)
  /-- SERIAL_FLUSH_TX (R601). -/
  | serialFlushTx (ch : Fin 18)
  /-- SERIAL_RELEASE_FRAME (R601). -/
  | serialReleaseFrame (ch : Fin 18)
  /-- PULSE_PERIOD_END (R597). -/
  | pulsePeriodEnd (u : Fin 8)
  /-- PULSE_CAPTURE_EDGE (R597). -/
  | pulseCaptureEdge (u : Fin 8) (clocks : Word)
  /-- PULSE_COUNT_MATCH (R597). -/
  | pulseCountMatch (u : Fin 8)
  /-- PULSE_CAPTURE_TIMEOUT (R597). -/
  | pulseCaptureTimeout (u : Fin 8)
  /-- PULSE_START (R601). -/
  | pulseStart (u : Fin 8)
  /-- PULSE_STOP (R601). -/
  | pulseStop (u : Fin 8)
  /-- PULSE_CLEAR (R601). -/
  | pulseClear (u : Fin 8)
  /-- PULSE_LOAD (R601). -/
  | pulseLoad (u : Fin 8)
  /-- ADC_GO (R598). -/
  | adcGo (a : Fin 4)
  /-- ADC_TRIGGER (R598). -/
  | adcTrigger (a : Fin 4)
  /-- ADC_CONVERSION_DONE (R599). -/
  | adcConversionDone (a : Fin 4) (code : BitVec 12)
  /-- TROUPE_WATCHDOG_EXPIRY (R621). -/
  | troupeWatchdogExpiry (core : Fin 128)
  /-- WATCHDOG_SERVICE (R621). -/
  | watchdogService (core : Fin 128)
  /-- TAP_RESET (R602). -/
  | tapReset
  /-- EXTEST (R603). -/
  | extest (cells : BitVec 738)
  /-- SAMPLE_PRELOAD (R602). -/
  | samplePreload (cells : BitVec 738)
  /-- IDCODE (R602). -/
  | idcode
  /-- YALNOV (R602). -/
  | yalnov
  /-- BYPASS (R602). -/
  | bypass
  /-- LINK_READ (R604). -/
  | linkRead (addr : BitVec 16)
  /-- LINK_WRITE (R604). -/
  | linkWrite (addr : BitVec 16) (v : Word)
  /-- PROMPT_GO (R614). -/
  | promptGo (r : RoleId)
  /-- PROMPT_CANCEL (R613). -/
  | promptCancel (r : RoleId)
  /-- PROMPT_RETIRE (R614). -/
  | promptRetire (r : RoleId)
  /-- REGISTER_WRITE (R10). -/
  | registerWrite (a : Agent) (addr : Addr) (v : Word)
  /-- CRYSTAL_RETURN (R63). -/
  | crystalReturn
  /-- BROWNOUT_RECOVERY (R527). -/
  | brownoutRecovery
  /-- BANK_VIO_LOSS (R649). -/
  | bankVioLoss (b : Fin 4)
  /-- BANK_VIO_RETURN (R649). -/
  | bankVioReturn (b : Fin 4)
  /-- CTS_ASSERT (R665). -/
  | ctsAssert (ch : Fin 18)
  /-- CAN_ERROR_STATE_CHANGE (R601). -/
  | canErrorStateChange (ch : Fin 18) (st : CanState)
  /-- LOCKOUT_EXPIRY (R489). -/
  | lockoutExpiry (slot : Fin 8)
  /-- HOUSE_WATCHDOG_SERVICE (R522). -/
  | houseWatchdogService
  /-- TRACE_PACKET_SENT (R622). -/
  | tracePacketSent
deriving DecidableEq, Repr

end Sys2Proof
end

