-- ==== Sys2Proof/Decode.lean ====
section
/-! DEFINITION. The instruction words of Ulufy (R88 to R97): the encoding table, the detail of the reserved-opcode trap, and
`decodeTableWord`, which the host asks for. The opcode table gives no row any bits, so no word spells a command (log 2). -/

namespace Sys2Proof

/-- The functions of the instruction word, one for each instruction row of the opcode table. -/
inductive Op where
  | add | addc | sub | subc | and | or | xor | andn | mov | not | lsl | lsr | asr | ror | cmp | cmpa | tst
  | tstx | mins | maxs | minu | maxu | clz | sxb | sxh | zxh | addi | addif | cmpi | andi | ori | xori | tsti
  | lsli | lsri | asri | rori | shin | dadd | daddC | dsub | dsubC | dadj | dshl | dshr | bin2d | d2bin | mul
  | mulu | div | divu | load | store | qpush | qpop | qpopt | qopen | qclose | cue | ldx | ldxp | stx | stxp
  | tmove | tclr | tnarrow | tperm | tseal | tunseal | tload | tstore | tget | trds | twrs | branch | bl
  | callt | rett | jr | jrl | mfs | mts | syncI | wait | waitcue | mask | rfe | rep | sceneBegin | sceneEnd
  | dmul16 | ddiv16 | mul64 | mul64u | div64 | div64u | crc32c | hpint | hprice | lbar | lmoder | lmodew
  | lclean
deriving DecidableEq, Repr

namespace Ulufy

/-- One row of the encoding tables: the bits that select the function, their values, and the bits that must be zero. -/
structure Enc where
  op : Op
  mask : Word
  value : Word
  mbz : Word
deriving DecidableEq, Repr

/-- Class 0x0, format A (R108). -/
def aluTable : List Enc := [
  ⟨.add, 0x0FFC0000, 0x00040000, 0x00000006⟩,
  ⟨.addc, 0x0FFC0000, 0x00080000, 0x00000006⟩,
  ⟨.sub, 0x0FFC0000, 0x000C0000, 0x00000006⟩,
  ⟨.subc, 0x0FFC0000, 0x00100000, 0x00000006⟩,
  ⟨.and, 0x0FFC0000, 0x00200000, 0x00000006⟩,
  ⟨.or, 0x0FFC0000, 0x00240000, 0x00000006⟩,
  ⟨.xor, 0x0FFC0000, 0x00280000, 0x00000006⟩,
  ⟨.andn, 0x0FFC0000, 0x002C0000, 0x00000006⟩,
  ⟨.mov, 0x0FFC0000, 0x00300000, 0x000000FE⟩,
  ⟨.not, 0x0FFC0000, 0x00340000, 0x000000FE⟩,
  ⟨.lsl, 0x0FFC0000, 0x00400000, 0x00000006⟩,
  ⟨.lsr, 0x0FFC0000, 0x00440000, 0x00000006⟩,
  ⟨.asr, 0x0FFC0000, 0x00480000, 0x00000006⟩,
  ⟨.ror, 0x0FFC0000, 0x004C0000, 0x00000006⟩,
  ⟨.cmp, 0x0FFC0000, 0x00600000, 0x0003E007⟩,
  ⟨.cmpa, 0x0FFC0000, 0x00640000, 0x0003E007⟩,
  ⟨.tst, 0x0FFC0000, 0x00680000, 0x0003E007⟩,
  ⟨.tstx, 0x0FFC0000, 0x006C0000, 0x0003E007⟩,
  ⟨.mins, 0x0FFC0000, 0x00800000, 0x00000006⟩,
  ⟨.maxs, 0x0FFC0000, 0x00840000, 0x00000006⟩,
  ⟨.minu, 0x0FFC0000, 0x00880000, 0x00000006⟩,
  ⟨.maxu, 0x0FFC0000, 0x008C0000, 0x00000006⟩,
  ⟨.clz, 0x0FFC0000, 0x00A00000, 0x000000FE⟩,
  ⟨.sxb, 0x0FFC0000, 0x00A40000, 0x000000FE⟩,
  ⟨.sxh, 0x0FFC0000, 0x00A80000, 0x000000FE⟩,
  ⟨.zxh, 0x0FFC0000, 0x00AC0000, 0x000000FE⟩]

/-- Class 0x1, format I (R111). -/
def immTable : List Enc := [
  ⟨.addi, 0x0FF00000, 0x01100000, 0x00000000⟩,
  ⟨.addif, 0x0FF00000, 0x01200000, 0x00000000⟩,
  ⟨.cmpi, 0x0FF00000, 0x01300000, 0x000F8000⟩,
  ⟨.andi, 0x0FF00000, 0x01400000, 0x00000000⟩,
  ⟨.ori, 0x0FF00000, 0x01500000, 0x00000000⟩,
  ⟨.xori, 0x0FF00000, 0x01600000, 0x00000000⟩,
  ⟨.tsti, 0x0FF00000, 0x01700000, 0x000F8000⟩,
  ⟨.lsli, 0x0FF00000, 0x01800000, 0x000003E0⟩,
  ⟨.lsri, 0x0FF00000, 0x01900000, 0x000003E0⟩,
  ⟨.asri, 0x0FF00000, 0x01A00000, 0x000003E0⟩,
  ⟨.rori, 0x0FF00000, 0x01B00000, 0x000003E0⟩,
  ⟨.shin, 0x0FF00000, 0x01C00000, 0x00000000⟩]

/-- Class 0x2, format D (R113). -/
def decTable : List Enc := [
  ⟨.dadd, 0x0FFC0000, 0x02040000, 0x00000007⟩,
  ⟨.daddC, 0x0FFC0000, 0x02080000, 0x00000007⟩,
  ⟨.dsub, 0x0FFC0000, 0x020C0000, 0x00000007⟩,
  ⟨.dsubC, 0x0FFC0000, 0x02100000, 0x00000007⟩,
  ⟨.dadj, 0x0FFC0000, 0x02200000, 0x000000FF⟩,
  ⟨.dshl, 0x0FFC0000, 0x02400000, 0x00000000⟩,
  ⟨.dshr, 0x0FFC0000, 0x02440000, 0x00000000⟩,
  ⟨.bin2d, 0x0FFC0000, 0x02600000, 0x000000FF⟩,
  ⟨.d2bin, 0x0FFC0000, 0x02640000, 0x000000FF⟩]

/-- Class 0x3, format X (R119). -/
def mulTable : List Enc := [
  ⟨.mul, 0x0FF00000, 0x03100000, 0x000F801F⟩,
  ⟨.mulu, 0x0FF00000, 0x03200000, 0x000F801F⟩,
  ⟨.div, 0x0FF00000, 0x03400000, 0x000F801F⟩,
  ⟨.divu, 0x0FF00000, 0x03500000, 0x000F801F⟩]

/-- Classes 0x4 and 0x5, format M (R131). -/
def memTable : List Enc := [
  ⟨.load, 0x0F000000, 0x04000000, 0x00000000⟩,
  ⟨.store, 0x0F000000, 0x05000000, 0x00000000⟩]

/-- Class 0x6, format T (R151). -/
def ticketTable : List Enc := [
  ⟨.tmove, 0x0FF80000, 0x06080000, 0x00001FFF⟩,
  ⟨.tclr, 0x0FF80000, 0x06100000, 0x0000FFFF⟩,
  ⟨.tnarrow, 0x0FF80000, 0x06180000, 0x000000FF⟩,
  ⟨.tperm, 0x0FF80000, 0x06200000, 0x00001F00⟩,
  ⟨.tseal, 0x0FF80000, 0x06280000, 0x00001800⟩,
  ⟨.tunseal, 0x0FF80000, 0x06300000, 0x000018FF⟩,
  ⟨.tload, 0x0FF80000, 0x06400000, 0x00000000⟩,
  ⟨.tstore, 0x0FF80000, 0x06480000, 0x00000000⟩,
  ⟨.tget, 0x0FF80000, 0x06600000, 0x000700F8⟩,
  ⟨.trds, 0x0FF80000, 0x06800000, 0x0000FCFF⟩,
  ⟨.twrs, 0x0FF80000, 0x06880000, 0x00071CFF⟩]

/-- Class 0x7, format Q (R140). -/
def queueTable : List Enc := [
  ⟨.qpush, 0x0FF80000, 0x07080000, 0x00000000⟩,
  ⟨.qpop, 0x0FF80000, 0x07100000, 0x00000000⟩,
  ⟨.qpopt, 0x0FF80000, 0x07180000, 0x00000000⟩,
  ⟨.qopen, 0x0FF80000, 0x07200000, 0x0007C000⟩,
  ⟨.qclose, 0x0FF80000, 0x07280000, 0x0007C000⟩,
  ⟨.cue, 0x0FF80000, 0x07400000, 0x0007C000⟩,
  ⟨.ldx, 0x0FF80000, 0x07800000, 0x00000000⟩,
  ⟨.ldxp, 0x0FF80000, 0x07880000, 0x00000000⟩,
  ⟨.stx, 0x0FF80000, 0x07900000, 0x00000000⟩,
  ⟨.stxp, 0x0FF80000, 0x07980000, 0x00000000⟩]

/-- Classes 0x8 and 0x9, format B (R93): the CALLT values come before BL. -/
def branchTable : List Enc := [
  ⟨.branch, 0x0F000000, 0x08000000, 0x00000000⟩,
  ⟨.callt, 0x0FFFFF00, 0x09800000, 0x00000000⟩,
  ⟨.bl, 0x0F000000, 0x09000000, 0x00000000⟩]

/-- Class 0xA, format S (R165). -/
def systemTable : List Enc := [
  ⟨.mfs, 0x0FFC0000, 0x0A040000, 0x00001F00⟩,
  ⟨.mts, 0x0FFC0000, 0x0A080000, 0x0003E000⟩,
  ⟨.syncI, 0x0FFC0000, 0x0A100000, 0x0003FFFF⟩,
  ⟨.wait, 0x0FFC0000, 0x0A140000, 0x0003FFFF⟩,
  ⟨.waitcue, 0x0FFC0000, 0x0A180000, 0x00001FF0⟩,
  ⟨.mask, 0x0FFC0000, 0x0A200000, 0x0003FFF0⟩,
  ⟨.rfe, 0x0FFC0000, 0x0A240000, 0x0003FFFF⟩,
  ⟨.rett, 0x0FFC0000, 0x0A280000, 0x0003FFFF⟩,
  ⟨.jr, 0x0FFC0000, 0x0A300000, 0x0003E0FF⟩,
  ⟨.jrl, 0x0FFC0000, 0x0A340000, 0x000000FF⟩,
  ⟨.sceneBegin, 0x0FFC0000, 0x0A400000, 0x0003FFFF⟩,
  ⟨.sceneEnd, 0x0FFC0000, 0x0A440000, 0x0003FFFF⟩]

/-- Class 0xB, format P (R92). -/
def repTable : List Enc := [
  ⟨.rep, 0x0F000000, 0x0B000000, 0x00010000⟩]

/-- Class 0xC, format L (R214). -/
def leadTable : List Enc := [
  ⟨.dmul16, 0x0FFC0000, 0x0C040000, 0x00000007⟩,
  ⟨.ddiv16, 0x0FFC0000, 0x0C080000, 0x00000007⟩,
  ⟨.mul64, 0x0FFC0000, 0x0C100000, 0x00000007⟩,
  ⟨.mul64u, 0x0FFC0000, 0x0C140000, 0x00000007⟩,
  ⟨.div64, 0x0FFC0000, 0x0C180000, 0x00000007⟩,
  ⟨.div64u, 0x0FFC0000, 0x0C1C0000, 0x00000007⟩,
  ⟨.crc32c, 0x0FFC0000, 0x0C200000, 0x00000000⟩,
  ⟨.hpint, 0x0FFC0000, 0x0C300000, 0x000000FF⟩,
  ⟨.hprice, 0x0FFC0000, 0x0C340000, 0x00000007⟩,
  ⟨.lbar, 0x0FFC0000, 0x0CC00000, 0x0003FFFF⟩,
  ⟨.lmoder, 0x0FFC0000, 0x0CC40000, 0x00001FFF⟩,
  ⟨.lmodew, 0x0FFC0000, 0x0CC80000, 0x0003E0FF⟩,
  ⟨.lclean, 0x0FFC0000, 0x0CD00000, 0x0003E0F8⟩]

/-- Class field of a word (R91). -/
def cls (w : Word) : Nat := bits w 27 24

/-- The encoding table of a class (R91). -/
def tableOf (c : Nat) : List Enc :=
  match c with
  | 0 => aluTable
  | 1 => immTable
  | 2 => decTable
  | 3 => mulTable
  | 4 => memTable
  | 5 => memTable
  | 6 => ticketTable
  | 7 => queueTable
  | 8 => branchTable
  | 9 => branchTable
  | 10 => systemTable
  | 11 => repTable
  | 12 => leadTable
  | _ => []

/-- The row of the encoding tables that a word selects, whatever its other fields hold. -/
def lookup (w : Word) : Option Enc := (tableOf (cls w)).find? (fun e => w &&& e.mask == e.value)

/-- The operand rules of detail 0x05 (R96): true where a field breaks one. -/
def operandBad (op : Op) (w : Word) : Bool :=
  match op with
  | .load | .store => bits w 20 19 == 3 && bits w 18 14 % 2 == 1
  | .qpopt | .ldxp | .stxp => bits w 18 14 % 2 == 1
  | .tnarrow => bits w 12 8 % 2 == 1
  | .callt => bits w 7 0 == 0 || bits w 7 0 > 6
  | .rep =>
    bits w 31 28 != 14 || (!bit w 22 && bits w 21 17 != 0) || (bit w 22 && bits w 15 0 != 0) ||
      (!bit w 23 && !bit w 22 && bits w 15 0 > 8)
  | .dmul16 | .ddiv16 | .mul64 | .mul64u | .div64 | .div64u =>
    bits w 17 13 % 4 != 0 || bits w 12 8 % 2 == 1 || bits w 7 3 % 2 == 1
  | .hpint => bits w 12 8 % 4 != 0
  | .hprice => bits w 17 13 % 2 == 1 || bits w 12 8 % 2 == 1
  | _ => false

/-- True where MFS or MTS names an unassigned special register (R81). -/
def spregBad (op : Op) (w : Word) : Bool :=
  match op with
  | .mfs | .mts => bits w 7 0 > 14
  | _ => false

/-- True where the word names the DBT special ticket register (R83, R86). -/
def namesDbt (op : Op) (w : Word) : Bool :=
  match op with
  | .trds | .twrs => bits w 9 8 == 3
  | _ => false

/-- SCENE.BEGIN and SCENE.END, which a lead does not define (R226). -/
def isScene (op : Op) : Bool := op == .sceneBegin || op == .sceneEnd

/-- What step 4 of R95 finds: the detail of the reserved-opcode trap in the order of R96, or the function of the word. -/
def decode (lead dbg : Bool) (w : Word) : Except Byte Op :=
  if cls w ≥ 13 then .error 0x01
  else if cls w == 12 && !lead then .error 0x04
  else
    match lookup w with
    | none => .error 0x02
    | some e =>
      if lead && isScene e.op then .error 0x02
      else if w &&& e.mbz != 0 then .error 0x03
      else if operandBad e.op w then .error 0x05
      else if spregBad e.op w then .error 0x06
      else if namesDbt e.op w && !dbg then .error 0x07
      else .ok e.op

/-- The instructions a REP may prefix (R172): classes 0x0, 0x1, 0x2, 0x4 and 0x5, except BIN2D and D2BIN. -/
def repeatable (w : Word) (op : Op) : Bool :=
  (cls w ≤ 2 || cls w == 4 || cls w == 5) && op != .bin2d && op != .d2bin

/-- Step 4 for the word after a REP prefix: detail 0x08 only where the word meets no other cause (R96). -/
def decodePrefixed (lead dbg : Bool) (w : Word) : Except Byte Op :=
  match decode lead dbg w with
  | .error d => .error d
  | .ok op => if repeatable w op then .ok op else .error 0x08

end Ulufy

/-- The command that a word spells by the opcode table's bits: the table gives no row bits, so none (log 2). -/
def decodeTableWord (_nbits _w : Nat) : Option Instr := none

end Sys2Proof
end

