-- ==== Sys2Proof/Machine/Sparse.lean ====
section
/-! DEFINITION. Sparse maps from numbers in one canonical form: keys strictly rising, and no entry equal to what an unlisted key
reads as. Memory (bytes by address), the device registers and every array of the part are held in them. -/

namespace Sys2Proof.Machine

/-- A list of key and value pairs. What an unlisted key reads as is given to each operation. -/
abbrev Sparse (V : Type) := List (Nat × V)

namespace Sparse

variable {V : Type}

/-- The value at a key: the first entry's, or the default where no entry has the key. -/
def get (d : Nat → V) : Sparse V → Nat → V
  | [], k => d k
  | (k', v) :: m, k => if k' = k then v else get d m k

/-- The map without a key. -/
def erase : Sparse V → Nat → Sparse V
  | [], _ => []
  | (k', v) :: m, k => if k' = k then erase m k else (k', v) :: erase m k

/-- The map with an entry put before the first greater key. -/
def insert : Sparse V → Nat → V → Sparse V
  | [], k, v => [(k, v)]
  | (k', v') :: m, k, v => if k < k' then (k, v) :: (k', v') :: m else (k', v') :: insert m k v

/-- The map with the value at a key replaced; a value equal to the default removes the entry. -/
def put [DecidableEq V] (d : Nat → V) (m : Sparse V) (k : Nat) (v : V) : Sparse V :=
  if v = d k then erase m k else insert (erase m k) k v

/-- Keys strictly above a bound and rising, no value equal to the default. -/
def wfFrom [DecidableEq V] (d : Nat → V) : Option Nat → Sparse V → Bool
  | _, [] => true
  | lo, (k, v) :: m =>
    (match lo with
      | none => true
      | some b => decide (b < k)) && decide (v ≠ d k) && wfFrom d (some k) m

/-- The canonical form. -/
def wf [DecidableEq V] (d : Nat → V) (m : Sparse V) : Bool := wfFrom d none m

end Sparse

end Sys2Proof.Machine
end

