-- ==== Sys2Proof/Machine/Registers.lean ====
section
/-! DEFINITION. The register tables of the manual (R10 to R13): which word of the device region is which register, the fields a
write may change and how, who may write them, and the value each register holds at reset. The tables were made from the spec's own
register tables; a field that is not listed is RO. -/

namespace Sys2Proof.Machine

/-- The registers of the device region, by the name their table gives. -/
inductive Reg where
  | metroLo | metroHi | metroStat | metroTrim | darkP | darkL | darkCnt | chSrc | chCs | chRt | chStat | chClr
  | cxLoop | cxLooprpt | cxStat | cqConst | cqCin | wcCin | csBasel | csCfg | csProd | csCons | csStat | cswStat
  | tmrCtl | tmrLoad | tmrCount | tmrStat | tmrCin | scnStat | scnId | scnAbn | scnCtl | scnQr | scnCast | curCnt
  | curLock | curErr | curClr | curHlock | tmap | slack | slackbase | lmap | lslack | repEntry | repStat | scrubCtl
  | scrubPos | scrubPass | mecCnt | mecLast | shdCfg | shdCnt | shdLastl | shdLasth | cxlCfg | cxlLink | cxlSerl
  | cxlErr | cxlEmask | cxlFirst | cxlHlog | cxlHealth | hdmMap | hdmCtl | cxlWin | cxlMir | cxlDir | cxlGpf
  | cxlFailcnt | cxlFail0 | cxlFail1 | hcCtl | hcCtxl | hcCtxh | hcBldl | hcBldh | hcAge | hcCmd | hcCmdcfg
  | hcCmdper | rngBasel | rngCfg | rngProd | rngCons | hcSamp | hcRec | hcBlks | hcRej0 | hcRej1 | hcRej2 | hcRej3
  | hcBlkerr | hcClr | pbDescl | pbDesch | pbCtl | pbSkip | pbCnt | smStat | smNote | smDarkpol | smIdle | mb1State
  | mb1Err | mb1Own | fuseAddr | fuseData | fuseCtl | rstCause | bootStat | bootFail | hwdStat | roleStart
  | lroleStart | pmTarget | pmMode | pmStat | pmBankret | domainSet | domainState | coreGate | wakePin | wakeI2c
  | wakeRecord | wakeTimel | wakeStat | wtPeriod | wtCtl | wtWin | wtLast | wtScans | wtViol | xcStat | xcArb
  | padOwn | padCtl | padCin | serCfg | serDiv | serRxq | serTx | serStat | serCnt | serRoute | canNbt | canTxid
  | canFlt | canFmask | serTask | puCtl | puPer | puDuty | puCnt | puCap | puCapt | puStat | puTask | adcCtl | adcSeq
  | adcQ | adcStat | adcRes | adcCin | cmpWin | cmpStat | prInstr | prCtl | prStat | prPc | prAddr | lprInstr
  | lprCtl | lprStat | lprPc | lprAddr | spotCtl | spotData | spotDmask | spotCid | spotRole | spotRec | spotHits
  | spotStartl | spotStarth | spotEndl | spotEndh | twdCtl | twdSvc | twdStat | trCtl | trStat | qcount | qstat
  | qctl | qerrcnt | qopener | uibId | uibInfo | uibState | uibPwrreq | uibFault | uibFrecInfo | uibFrecAddrl
  | uibFrecAddrh | uibHold | uibCuein | uibChildmask | uibChildpresent | uibBlock | uibBlocklen | uibChildren
deriving DecidableEq, Repr

/-- Access of a writable field (R10). -/
inductive Acc where
  | rw | w1c | wo
deriving DecidableEq, Repr

/-- Values of a field that a write may set; any other value leaves the field unchanged. -/
inductive Legal where
  | any
  | range (lo hi : Nat)
  /-- A queue number of R279 outside the range: house queues 0 to 11 are refused (R593). -/
  | queue (lo hi : Nat)
deriving DecidableEq, Repr

/-- Who may write a register: any holder of W and DEV, the SM or a write through DBT, the SM alone, or DBT alone. -/
inductive Writer where
  | plain | smDbt | sm | dbt
deriving DecidableEq, Repr

/-- One writable field: its lowest bit, width, access and legal values. -/
structure FieldD where
  lo : Nat
  width : Nat
  acc : Acc
  legal : Legal
deriving DecidableEq, Repr

/-- One register of a block: offset, strides and counts of its instances, who writes it, its reset value, its fields. -/
structure RegD where
  reg : Reg
  off : Nat
  dims : List (Nat × Nat)
  writer : Writer
  reset : Nat
  fields : List FieldD
deriving DecidableEq, Repr

/-- The UIB (R25). -/
def uibRegs : List RegD := [
  ⟨.uibId, 0x0, [], .plain, 0x0, []⟩,
  ⟨.uibInfo, 0x4, [], .plain, 0x0, []⟩,
  ⟨.uibState, 0x8, [], .plain, 0x0, []⟩,
  ⟨.uibPwrreq, 0xC, [], .plain, 0x0, [⟨0, 2, .rw, .any⟩, ⟨4, 1, .w1c, .any⟩]⟩,
  ⟨.uibFault, 0x10, [], .plain, 0x0, [⟨0, 1, .w1c, .any⟩, ⟨1, 1, .w1c, .any⟩, ⟨2, 1, .w1c, .any⟩, ⟨3, 1, .w1c, .any⟩, ⟨4, 1, .w1c, .any⟩, ⟨5, 1, .w1c, .any⟩, ⟨6, 1, .w1c, .any⟩, ⟨7, 1, .w1c, .any⟩, ⟨8, 1, .w1c, .any⟩, ⟨9, 1, .w1c, .any⟩, ⟨10, 1, .w1c, .any⟩, ⟨11, 1, .w1c, .any⟩, ⟨15, 1, .wo, .any⟩]⟩,
  ⟨.uibFrecInfo, 0x14, [], .plain, 0x0, [⟨0, 1, .w1c, .any⟩]⟩,
  ⟨.uibFrecAddrl, 0x18, [], .plain, 0x0, []⟩,
  ⟨.uibFrecAddrh, 0x1C, [], .plain, 0x0, []⟩,
  ⟨.uibHold, 0x20, [], .smDbt, 0xF0, [⟨0, 1, .rw, .any⟩, ⟨4, 4, .rw, .any⟩]⟩,
  ⟨.uibCuein, 0x24, [], .plain, 0x30000, [⟨0, 10, .rw, .any⟩, ⟨12, 1, .rw, .any⟩, ⟨14, 1, .w1c, .any⟩, ⟨16, 2, .rw, .any⟩]⟩,
  ⟨.uibChildmask, 0x28, [], .plain, 0x0, [⟨0, 32, .rw, .any⟩]⟩,
  ⟨.uibChildpresent, 0x2C, [], .plain, 0x0, []⟩,
  ⟨.uibBlock, 0x30, [], .plain, 0x0, []⟩,
  ⟨.uibBlocklen, 0x34, [], .plain, 0x0, []⟩,
  ⟨.uibChildren, 0x38, [], .plain, 0x0, []⟩]

/-- A queue port (R324). -/
def queueRegs : List RegD := [
  ⟨.qcount, 0x4, [], .plain, 0x0, []⟩,
  ⟨.qstat, 0x8, [], .plain, 0x0, [⟨0, 1, .w1c, .any⟩, ⟨2, 1, .w1c, .any⟩, ⟨3, 1, .w1c, .any⟩, ⟨4, 1, .w1c, .any⟩, ⟨5, 1, .w1c, .any⟩]⟩,
  ⟨.qctl, 0xC, [], .plain, 0x0, [⟨0, 1, .wo, .any⟩]⟩,
  ⟨.qerrcnt, 0x10, [], .plain, 0x0, [⟨31, 1, .wo, .any⟩]⟩,
  ⟨.qopener, 0x14, [], .plain, 0x0, []⟩]

/-- The house block. Part 1. -/
def houseRegs1 : List RegD := [
  ⟨.darkP, 0x200, [(0x4, 4)], .plain, 0x0, []⟩,
  ⟨.darkL, 0x210, [], .plain, 0x0, []⟩,
  ⟨.darkCnt, 0x214, [], .plain, 0x0, []⟩,
  ⟨.curCnt, 0x300, [(0x10, 10)], .plain, 0x0, []⟩,
  ⟨.curLock, 0x304, [(0x10, 10)], .plain, 0x100, []⟩,
  ⟨.curErr, 0x308, [(0x10, 10)], .plain, 0x0, []⟩,
  ⟨.curClr, 0x30C, [(0x10, 10)], .plain, 0x0, [⟨0, 1, .wo, .any⟩]⟩,
  ⟨.curHlock, 0x3A0, [], .plain, 0x0, []⟩,
  ⟨.lmap, 0x400, [], .plain, 0x0, []⟩,
  ⟨.lslack, 0x410, [(0x4, 10)], .plain, 0x0, []⟩,
  ⟨.repEntry, 0x500, [(0x4, 32)], .sm, 0x0, []⟩,
  ⟨.repStat, 0x580, [], .plain, 0x0, [⟨16, 1, .w1c, .any⟩, ⟨17, 1, .w1c, .any⟩]⟩,
  ⟨.scrubCtl, 0x600, [], .smDbt, 0x1801, [⟨0, 1, .rw, .any⟩, ⟨8, 8, .rw, .range 1 168⟩]⟩,
  ⟨.scrubPos, 0x604, [], .plain, 0x0, []⟩,
  ⟨.scrubPass, 0x608, [], .plain, 0x0, []⟩,
  ⟨.mecCnt, 0x800, [(0x8, 187)], .plain, 0x0, [⟨31, 1, .wo, .any⟩]⟩,
  ⟨.mecLast, 0x804, [(0x8, 187)], .plain, 0x0, []⟩,
  ⟨.shdCfg, 0x700, [(0x10, 3)], .sm, 0x0, []⟩,
  ⟨.shdCnt, 0x704, [(0x10, 3)], .plain, 0x0, [⟨31, 1, .wo, .any⟩]⟩,
  ⟨.shdLastl, 0x708, [(0x10, 3)], .plain, 0x0, []⟩,
  ⟨.shdLasth, 0x70C, [(0x10, 3)], .plain, 0x0, []⟩,
  ⟨.fuseAddr, 0x180, [], .sm, 0x0, [⟨0, 6, .rw, .any⟩]⟩,
  ⟨.fuseData, 0x184, [], .sm, 0x0, [⟨0, 32, .rw, .any⟩]⟩,
  ⟨.fuseCtl, 0x188, [], .sm, 0x0, [⟨0, 1, .wo, .any⟩, ⟨2, 1, .w1c, .any⟩]⟩,
  ⟨.rstCause, 0x100, [], .plain, 0x10, [⟨4, 4, .w1c, .any⟩]⟩]

/-- The house block. Part 2. -/
def houseRegs2 : List RegD := [
  ⟨.bootStat, 0x110, [], .plain, 0xFFFF0000, [⟨3, 1, .w1c, .any⟩]⟩,
  ⟨.bootFail, 0x114, [], .plain, 0x0, [⟨0, 16, .w1c, .any⟩]⟩,
  ⟨.xcStat, 0x1000, [(0x4, 64)], .plain, 0x1, [⟨3, 1, .w1c, .any⟩, ⟨31, 1, .wo, .any⟩]⟩,
  ⟨.xcArb, 0x1100, [], .plain, 0x0, [⟨31, 1, .wo, .any⟩]⟩,
  ⟨.trCtl, 0x1200, [], .smDbt, 0xFF00, [⟨0, 1, .rw, .any⟩, ⟨1, 1, .rw, .any⟩, ⟨2, 1, .rw, .any⟩, ⟨3, 1, .rw, .any⟩, ⟨4, 1, .rw, .any⟩, ⟨8, 8, .rw, .any⟩]⟩,
  ⟨.trStat, 0x1204, [], .plain, 0x0, [⟨31, 1, .wo, .any⟩]⟩]

/-- The house block. -/
def houseRegs : List RegD := houseRegs1 ++ houseRegs2

/-- A company block. -/
def companyRegs : List RegD := [
  ⟨.csBasel, 0x400, [(0x180, 66), (0x20, 12)], .smDbt, 0x0, [⟨4, 28, .rw, .any⟩]⟩,
  ⟨.csCfg, 0x404, [(0x180, 66), (0x20, 12)], .smDbt, 0x40000, [⟨0, 16, .rw, .any⟩, ⟨16, 4, .rw, .range 4 12⟩, ⟨20, 1, .rw, .any⟩]⟩,
  ⟨.csProd, 0x408, [(0x180, 66), (0x20, 12)], .plain, 0x0, []⟩,
  ⟨.csCons, 0x40C, [(0x180, 66), (0x20, 12)], .plain, 0x0, [⟨0, 16, .rw, .any⟩]⟩,
  ⟨.csStat, 0x410, [(0x180, 66), (0x20, 12)], .plain, 0x0, [⟨17, 1, .w1c, .any⟩, ⟨31, 1, .wo, .any⟩]⟩,
  ⟨.cswStat, 0x100, [], .plain, 0x0, [⟨15, 1, .wo, .any⟩]⟩,
  ⟨.lroleStart, 0x7000, [(0x4, 2)], .plain, 0x0, []⟩,
  ⟨.lprInstr, 0x7040, [(0x20, 2)], .dbt, 0x0, [⟨0, 32, .rw, .any⟩]⟩,
  ⟨.lprCtl, 0x7044, [(0x20, 2)], .dbt, 0x0, [⟨0, 1, .wo, .any⟩, ⟨1, 1, .wo, .any⟩, ⟨2, 1, .rw, .any⟩, ⟨3, 1, .rw, .any⟩, ⟨4, 1, .rw, .any⟩]⟩,
  ⟨.lprStat, 0x7048, [(0x20, 2)], .dbt, 0x0, [⟨1, 1, .w1c, .any⟩, ⟨2, 1, .w1c, .any⟩, ⟨3, 1, .w1c, .any⟩, ⟨4, 1, .w1c, .any⟩, ⟨5, 1, .w1c, .any⟩]⟩,
  ⟨.lprPc, 0x704C, [(0x20, 2)], .dbt, 0x0, [⟨0, 32, .rw, .any⟩]⟩,
  ⟨.lprAddr, 0x7050, [(0x20, 2)], .dbt, 0x0, [⟨0, 32, .rw, .any⟩]⟩,
  ⟨.spotCtl, 0x7100, [(0x40, 16)], .smDbt, 0x0, [⟨0, 1, .rw, .any⟩, ⟨1, 1, .rw, .any⟩, ⟨2, 1, .rw, .any⟩, ⟨3, 1, .rw, .any⟩, ⟨4, 1, .rw, .any⟩, ⟨5, 2, .rw, .range 0 2⟩, ⟨7, 1, .rw, .any⟩, ⟨8, 1, .rw, .any⟩, ⟨9, 2, .rw, .range 0 2⟩, ⟨11, 1, .rw, .any⟩, ⟨12, 1, .rw, .any⟩, ⟨13, 1, .rw, .any⟩, ⟨14, 10, .rw, .any⟩]⟩,
  ⟨.spotData, 0x7114, [(0x40, 16)], .smDbt, 0x0, [⟨0, 32, .rw, .any⟩]⟩,
  ⟨.spotDmask, 0x7118, [(0x40, 16)], .smDbt, 0x0, [⟨0, 32, .rw, .any⟩]⟩,
  ⟨.spotCid, 0x711C, [(0x40, 16)], .smDbt, 0x0, [⟨0, 12, .rw, .any⟩, ⟨16, 12, .rw, .any⟩]⟩,
  ⟨.spotRole, 0x7120, [(0x40, 16)], .smDbt, 0x0, [⟨0, 7, .rw, .any⟩, ⟨8, 7, .rw, .any⟩]⟩,
  ⟨.spotRec, 0x7124, [(0x40, 16)], .smDbt, 0x0, [⟨0, 10, .rw, .any⟩, ⟨12, 4, .rw, .any⟩]⟩,
  ⟨.spotHits, 0x7128, [(0x40, 16)], .smDbt, 0x0, [⟨31, 1, .wo, .any⟩]⟩,
  ⟨.spotStartl, 0x7104, [(0x40, 16)], .smDbt, 0x0, [⟨0, 32, .rw, .any⟩]⟩,
  ⟨.spotStarth, 0x7108, [(0x40, 16)], .smDbt, 0x0, [⟨0, 16, .rw, .any⟩]⟩,
  ⟨.spotEndl, 0x710C, [(0x40, 16)], .smDbt, 0x0, [⟨0, 32, .rw, .any⟩]⟩,
  ⟨.spotEndh, 0x7110, [(0x40, 16)], .smDbt, 0x0, [⟨0, 16, .rw, .any⟩]⟩]

/-- A troupe block. -/
def troupeRegs : List RegD := [
  ⟨.scnStat, 0x2000, [(0x20, 16)], .plain, 0x0, []⟩,
  ⟨.scnId, 0x2004, [(0x20, 16)], .plain, 0x0, []⟩,
  ⟨.scnAbn, 0x2008, [(0x20, 16)], .plain, 0x0, []⟩,
  ⟨.scnCtl, 0x200C, [(0x20, 16)], .plain, 0x0, [⟨0, 1, .wo, .any⟩, ⟨1, 1, .wo, .any⟩, ⟨2, 1, .wo, .any⟩]⟩,
  ⟨.scnQr, 0x2010, [(0x20, 16), (0x4, 2)], .smDbt, 0x0, [⟨0, 14, .rw, .any⟩, ⟨14, 14, .rw, .any⟩, ⟨31, 1, .rw, .any⟩]⟩,
  ⟨.scnCast, 0x2200, [], .sm, 0x0, [⟨0, 1, .rw, .any⟩, ⟨1, 1, .rw, .any⟩]⟩,
  ⟨.tmap, 0x2400, [], .plain, 0x3210, []⟩,
  ⟨.slack, 0x2410, [(0x4, 5)], .plain, 0x0, []⟩,
  ⟨.slackbase, 0x2430, [(0x4, 5)], .plain, 0x0, []⟩,
  ⟨.roleStart, 0x2600, [(0x4, 16)], .plain, 0x0, []⟩,
  ⟨.prInstr, 0x2800, [(0x10, 16)], .dbt, 0x0, [⟨0, 32, .rw, .any⟩]⟩,
  ⟨.prCtl, 0x2804, [(0x10, 16)], .dbt, 0x0, [⟨0, 1, .wo, .any⟩, ⟨1, 1, .wo, .any⟩, ⟨2, 1, .rw, .any⟩, ⟨3, 1, .rw, .any⟩, ⟨4, 1, .rw, .any⟩]⟩,
  ⟨.prStat, 0x2808, [(0x10, 16)], .dbt, 0x0, [⟨1, 1, .w1c, .any⟩, ⟨2, 1, .w1c, .any⟩, ⟨3, 1, .w1c, .any⟩, ⟨4, 1, .w1c, .any⟩, ⟨5, 1, .w1c, .any⟩]⟩,
  ⟨.prPc, 0x280C, [(0x10, 16)], .dbt, 0x0, [⟨0, 32, .rw, .any⟩]⟩,
  ⟨.prAddr, 0x2A00, [(0x4, 16)], .dbt, 0x0, [⟨0, 32, .rw, .any⟩]⟩,
  ⟨.twdCtl, 0x2700, [(0x10, 4)], .smDbt, 0x3E8, [⟨0, 16, .rw, .range 1 65535⟩, ⟨16, 1, .rw, .any⟩]⟩,
  ⟨.twdSvc, 0x2704, [(0x10, 4)], .plain, 0x0, [⟨0, 32, .wo, .any⟩]⟩,
  ⟨.twdStat, 0x2708, [(0x10, 4)], .plain, 0x0, []⟩]

/-- The stage manager block (R478). -/
def smRegs : List RegD := [
  ⟨.smStat, 0x0, [], .plain, 0x0, []⟩,
  ⟨.smNote, 0x4, [], .smDbt, 0xC000, [⟨0, 10, .rw, .range 0 527⟩, ⟨12, 4, .rw, .range 1 12⟩, ⟨16, 1, .rw, .any⟩]⟩,
  ⟨.smDarkpol, 0x8, [], .smDbt, 0x1, [⟨0, 1, .rw, .any⟩]⟩,
  ⟨.smIdle, 0xC, [], .sm, 0x258, []⟩,
  ⟨.mb1State, 0x10, [], .plain, 0x0, []⟩,
  ⟨.mb1Err, 0x14, [], .plain, 0x0, []⟩,
  ⟨.mb1Own, 0x20, [(0x4, 8)], .plain, 0x0, []⟩]

/-- The CXL controller block (R424). -/
def cxlRegs : List RegD := [
  ⟨.cxlCfg, 0x0, [], .smDbt, 0x208, [⟨0, 2, .rw, .range 0 2⟩, ⟨2, 2, .rw, .range 0 2⟩, ⟨4, 2, .rw, .range 0 2⟩, ⟨6, 1, .rw, .any⟩, ⟨8, 3, .rw, .range 0 4⟩]⟩,
  ⟨.cxlLink, 0x100, [(0x100, 2)], .plain, 0x0, [⟨11, 1, .w1c, .any⟩]⟩,
  ⟨.cxlSerl, 0x104, [(0x100, 2), (0x4, 2)], .plain, 0x0, []⟩,
  ⟨.cxlErr, 0x10C, [(0x100, 2)], .plain, 0x0, [⟨0, 6, .w1c, .any⟩, ⟨8, 7, .w1c, .any⟩]⟩,
  ⟨.cxlEmask, 0x110, [(0x100, 2)], .smDbt, 0x0, [⟨0, 6, .rw, .any⟩, ⟨8, 7, .rw, .any⟩]⟩,
  ⟨.cxlFirst, 0x114, [(0x100, 2)], .plain, 0x0, [⟨4, 1, .w1c, .any⟩]⟩,
  ⟨.cxlHlog, 0x118, [(0x100, 2), (0x4, 4)], .plain, 0x0, []⟩,
  ⟨.cxlHealth, 0x128, [(0x100, 2)], .plain, 0x0, []⟩,
  ⟨.hdmMap, 0x140, [(0x100, 2), (0x8, 4)], .smDbt, 0x0, [⟨0, 12, .rw, .any⟩, ⟨16, 13, .rw, .any⟩]⟩,
  ⟨.hdmCtl, 0x144, [(0x100, 2), (0x8, 4)], .smDbt, 0x0, [⟨0, 12, .rw, .any⟩, ⟨12, 2, .rw, .range 0 1⟩, ⟨14, 1, .rw, .any⟩]⟩,
  ⟨.cxlWin, 0x400, [(0x4, 3)], .smDbt, 0x0, [⟨15, 1, .w1c, .any⟩]⟩,
  ⟨.cxlMir, 0x500, [], .smDbt, 0x0, [⟨3, 1, .rw, .any⟩]⟩,
  ⟨.cxlDir, 0x580, [], .smDbt, 0x8000000, [⟨16, 14, .rw, .range 64 10240⟩]⟩,
  ⟨.cxlGpf, 0x590, [], .plain, 0x0, [⟨1, 1, .w1c, .any⟩, ⟨2, 1, .w1c, .any⟩, ⟨3, 1, .w1c, .any⟩]⟩,
  ⟨.cxlFailcnt, 0x600, [], .plain, 0x0, []⟩,
  ⟨.cxlFail0, 0x800, [(0x8, 64)], .plain, 0x0, []⟩,
  ⟨.cxlFail1, 0x804, [(0x8, 64)], .plain, 0x0, []⟩]

/-- A historian compressor block (R460). Part 1. -/
def hcRegs1 : List RegD := [
  ⟨.hcCtl, 0x0, [], .smDbt, 0x0, [⟨0, 1, .rw, .any⟩, ⟨1, 1, .wo, .any⟩]⟩,
  ⟨.hcCtxl, 0x4, [], .smDbt, 0x0, [⟨12, 20, .rw, .any⟩]⟩,
  ⟨.hcCtxh, 0x8, [], .smDbt, 0x0, [⟨0, 16, .rw, .any⟩, ⟨16, 16, .rw, .range 0 0x8000⟩]⟩,
  ⟨.hcBldl, 0xC, [], .smDbt, 0x0, [⟨15, 17, .rw, .any⟩]⟩,
  ⟨.hcBldh, 0x10, [], .smDbt, 0x0, [⟨0, 16, .rw, .any⟩]⟩,
  ⟨.hcAge, 0x14, [], .smDbt, 0x0, [⟨0, 16, .rw, .any⟩]⟩,
  ⟨.hcCmd, 0x20, [], .smDbt, 0x0, [⟨0, 16, .rw, .any⟩, ⟨16, 3, .wo, .any⟩, ⟨20, 1, .w1c, .any⟩]⟩,
  ⟨.hcCmdcfg, 0x24, [], .smDbt, 0x0, [⟨0, 32, .rw, .any⟩]⟩,
  ⟨.hcCmdper, 0x28, [], .smDbt, 0x0, [⟨0, 32, .rw, .any⟩]⟩,
  ⟨.rngBasel, 0x40, [(0x10, 4)], .smDbt, 0x0, [⟨12, 20, .rw, .any⟩]⟩,
  ⟨.rngCfg, 0x44, [(0x10, 4)], .smDbt, 0x40000, [⟨0, 16, .rw, .any⟩, ⟨16, 5, .rw, .range 4 26⟩, ⟨21, 1, .rw, .any⟩, ⟨22, 1, .rw, .any⟩]⟩,
  ⟨.rngProd, 0x48, [(0x10, 4)], .plain, 0x0, []⟩,
  ⟨.rngCons, 0x4C, [(0x10, 4)], .plain, 0x0, [⟨0, 32, .rw, .any⟩]⟩,
  ⟨.hcSamp, 0x80, [], .plain, 0x0, []⟩,
  ⟨.hcRec, 0x84, [], .plain, 0x0, []⟩,
  ⟨.hcBlks, 0x88, [], .plain, 0x0, []⟩,
  ⟨.hcRej0, 0x8C, [], .plain, 0x0, []⟩,
  ⟨.hcRej1, 0x90, [], .plain, 0x0, []⟩,
  ⟨.hcRej2, 0x94, [], .plain, 0x0, []⟩,
  ⟨.hcRej3, 0x98, [], .plain, 0x0, []⟩,
  ⟨.hcBlkerr, 0x9C, [], .plain, 0x0, []⟩,
  ⟨.hcClr, 0xA0, [], .plain, 0x0, [⟨0, 1, .wo, .any⟩]⟩,
  ⟨.pbDescl, 0x100, [], .smDbt, 0x0, [⟨6, 26, .rw, .any⟩]⟩,
  ⟨.pbDesch, 0x104, [], .smDbt, 0x0, [⟨0, 16, .rw, .any⟩]⟩,
  ⟨.pbCtl, 0x108, [], .smDbt, 0x0, [⟨0, 1, .wo, .any⟩, ⟨2, 1, .w1c, .any⟩, ⟨3, 1, .w1c, .any⟩]⟩]

/-- A historian compressor block (R460). Part 2. -/
def hcRegs2 : List RegD := [
  ⟨.pbSkip, 0x10C, [], .plain, 0x0, []⟩,
  ⟨.pbCnt, 0x110, [], .plain, 0x0, []⟩]

/-- A historian compressor block (R460). -/
def hcRegs : List RegD := hcRegs1 ++ hcRegs2

/-- The cue crossbar block (R286, R287). -/
def xbarRegs : List RegD := [
  ⟨.chSrc, 0x0, [(0x20, 1024)], .smDbt, 0x0, [⟨0, 12, .rw, .any⟩, ⟨16, 1, .rw, .any⟩]⟩,
  ⟨.chCs, 0x4, [(0x20, 1024)], .smDbt, 0x0, [⟨0, 10, .rw, .any⟩, ⟨12, 4, .rw, .any⟩, ⟨16, 1, .rw, .any⟩]⟩,
  ⟨.chRt, 0x8, [(0x20, 1024), (0x4, 4)], .smDbt, 0x0, [⟨0, 13, .rw, .any⟩, ⟨16, 1, .rw, .any⟩, ⟨17, 2, .rw, .any⟩]⟩,
  ⟨.chStat, 0x18, [(0x20, 1024)], .plain, 0x0, []⟩,
  ⟨.chClr, 0x1C, [(0x20, 1024)], .plain, 0x0, [⟨0, 1, .wo, .any⟩]⟩,
  ⟨.cxLoop, 0x9000, [], .plain, 0x0, [⟨0, 1, .w1c, .any⟩]⟩,
  ⟨.cxLooprpt, 0x9004, [], .smDbt, 0x0, [⟨0, 10, .rw, .any⟩, ⟨12, 4, .rw, .any⟩, ⟨16, 1, .rw, .any⟩]⟩,
  ⟨.cxStat, 0x9008, [], .plain, 0x0, [⟨0, 1, .w1c, .any⟩]⟩,
  ⟨.cqConst, 0xA000, [(0x4, 336)], .smDbt, 0x0, [⟨10, 22, .rw, .any⟩]⟩,
  ⟨.cqCin, 0xA800, [(0x4, 336)], .plain, 0x0, [⟨1, 1, .w1c, .any⟩]⟩,
  ⟨.wcCin, 0xB000, [(0x10, 528), (0x4, 4)], .plain, 0x0, [⟨1, 1, .w1c, .any⟩]⟩]

/-- The field I/O block (R587 to R601). Part 1. -/
def ioRegs1 : List RegD := [
  ⟨.padOwn, 0x400, [(0x4, 192)], .plain, 0x0, []⟩,
  ⟨.padCtl, 0x0, [(0x4, 192)], .plain, 0x0, [⟨0, 1, .rw, .any⟩, ⟨1, 1, .rw, .any⟩, ⟨2, 2, .rw, .range 0 2⟩, ⟨4, 1, .rw, .any⟩, ⟨7, 2, .rw, .any⟩, ⟨14, 1, .wo, .any⟩]⟩,
  ⟨.padCin, 0x800, [(0x4, 192)], .plain, 0x0, [⟨1, 1, .w1c, .any⟩]⟩,
  ⟨.serCfg, 0x1000, [(0x100, 18)], .plain, 0x1000, [⟨0, 2, .rw, .any⟩, ⟨2, 1, .rw, .any⟩, ⟨3, 1, .rw, .any⟩, ⟨4, 2, .rw, .range 0 2⟩, ⟨6, 1, .rw, .any⟩, ⟨7, 1, .rw, .any⟩, ⟨8, 1, .rw, .any⟩, ⟨9, 1, .rw, .any⟩, ⟨10, 1, .rw, .any⟩, ⟨11, 1, .rw, .any⟩, ⟨12, 4, .rw, .any⟩]⟩,
  ⟨.serDiv, 0x1004, [(0x100, 18)], .plain, 0x208D5, [⟨0, 20, .rw, .range 427 0xFFFFF⟩]⟩,
  ⟨.serRxq, 0x1008, [(0x100, 18)], .plain, 0x0, [⟨0, 9, .rw, .queue 320 331⟩, ⟨9, 1, .rw, .any⟩]⟩,
  ⟨.serTx, 0x100C, [(0x100, 18)], .plain, 0x0, [⟨0, 8, .wo, .any⟩, ⟨8, 1, .wo, .any⟩, ⟨9, 1, .wo, .any⟩]⟩,
  ⟨.serStat, 0x1010, [(0x100, 18)], .plain, 0x0, [⟨16, 1, .w1c, .any⟩, ⟨17, 1, .w1c, .any⟩, ⟨18, 1, .w1c, .any⟩, ⟨31, 1, .wo, .any⟩]⟩,
  ⟨.serCnt, 0x1014, [(0x100, 18)], .plain, 0x0, []⟩,
  ⟨.serRoute, 0x1018, [(0x100, 18)], .plain, 0x0, []⟩,
  ⟨.canNbt, 0x1020, [(0x100, 18), (0x4, 2)], .plain, 0x4081E0, [⟨0, 5, .rw, .any⟩, ⟨5, 8, .rw, .any⟩, ⟨13, 7, .rw, .any⟩, ⟨20, 7, .rw, .any⟩]⟩,
  ⟨.canTxid, 0x1028, [(0x100, 18)], .plain, 0x0, [⟨0, 29, .rw, .any⟩, ⟨29, 1, .rw, .any⟩, ⟨30, 1, .rw, .any⟩, ⟨31, 1, .rw, .any⟩]⟩,
  ⟨.canFlt, 0x1040, [(0x100, 18), (0x8, 8)], .plain, 0x0, [⟨0, 29, .rw, .any⟩]⟩,
  ⟨.canFmask, 0x1044, [(0x100, 18), (0x8, 8)], .plain, 0x0, [⟨0, 29, .rw, .any⟩, ⟨31, 1, .rw, .any⟩]⟩,
  ⟨.serTask, 0x10E0, [(0x100, 18), (0x4, 8)], .plain, 0x0, [⟨1, 1, .w1c, .any⟩]⟩,
  ⟨.puCtl, 0x3000, [(0x40, 8)], .plain, 0x0, [⟨0, 2, .rw, .any⟩, ⟨2, 1, .rw, .any⟩, ⟨3, 1, .rw, .any⟩, ⟨4, 2, .rw, .range 0 2⟩]⟩,
  ⟨.puPer, 0x3004, [(0x40, 8)], .plain, 0x64, [⟨0, 32, .rw, .range 2 0xFFFFFFFF⟩]⟩,
  ⟨.puDuty, 0x3008, [(0x40, 8)], .plain, 0x0, [⟨0, 32, .rw, .any⟩]⟩,
  ⟨.puCnt, 0x300C, [(0x40, 8)], .plain, 0x0, []⟩,
  ⟨.puCap, 0x3010, [(0x40, 8)], .plain, 0x0, []⟩,
  ⟨.puCapt, 0x3014, [(0x40, 8)], .plain, 0x0, []⟩,
  ⟨.puStat, 0x3018, [(0x40, 8)], .plain, 0x0, [⟨1, 1, .w1c, .any⟩]⟩,
  ⟨.puTask, 0x3020, [(0x40, 8), (0x4, 8)], .plain, 0x0, [⟨1, 1, .w1c, .any⟩]⟩,
  ⟨.adcCtl, 0x3400, [(0x40, 4)], .plain, 0x0, [⟨0, 1, .rw, .any⟩, ⟨1, 3, .rw, .any⟩, ⟨4, 1, .rw, .any⟩, ⟨5, 1, .rw, .any⟩, ⟨6, 1, .wo, .any⟩]⟩,
  ⟨.adcSeq, 0x3404, [(0x40, 4)], .plain, 0x76543210, [⟨0, 32, .rw, .any⟩]⟩]

/-- The field I/O block (R587 to R601). Part 2. -/
def ioRegs2 : List RegD := [
  ⟨.adcQ, 0x3408, [(0x40, 4)], .plain, 0x0, [⟨0, 9, .rw, .any⟩, ⟨9, 1, .rw, .any⟩, ⟨10, 15, .rw, .any⟩]⟩,
  ⟨.adcStat, 0x340C, [(0x40, 4)], .plain, 0x0, []⟩,
  ⟨.adcRes, 0x3410, [(0x40, 4), (0x4, 8)], .plain, 0x0, []⟩,
  ⟨.adcCin, 0x3430, [(0x40, 4)], .plain, 0x0, [⟨1, 1, .w1c, .any⟩]⟩,
  ⟨.cmpWin, 0x3600, [(0x10, 16)], .plain, 0xFFF0000, [⟨0, 12, .rw, .any⟩, ⟨16, 12, .rw, .any⟩, ⟨31, 1, .rw, .any⟩]⟩,
  ⟨.cmpStat, 0x3604, [(0x10, 16)], .plain, 0x0, []⟩]

/-- The field I/O block (R587 to R601). -/
def ioRegs : List RegD := ioRegs1 ++ ioRegs2

/-- The AON block. Part 1. -/
def aonRegs1 : List RegD := [
  ⟨.metroLo, 0x100, [], .plain, 0x0, []⟩,
  ⟨.metroHi, 0x104, [], .plain, 0x0, []⟩,
  ⟨.metroStat, 0x108, [], .plain, 0x0, [⟨1, 1, .w1c, .any⟩, ⟨2, 1, .w1c, .any⟩]⟩,
  ⟨.metroTrim, 0x10C, [], .plain, 0x0, []⟩,
  ⟨.tmrCtl, 0x400, [(0x20, 64)], .plain, 0x0, [⟨0, 2, .rw, .range 0 2⟩, ⟨2, 1, .rw, .any⟩, ⟨4, 10, .rw, .any⟩, ⟨16, 1, .wo, .any⟩, ⟨17, 1, .wo, .any⟩]⟩,
  ⟨.tmrLoad, 0x404, [(0x20, 64)], .plain, 0x0, [⟨0, 32, .rw, .any⟩]⟩,
  ⟨.tmrCount, 0x408, [(0x20, 64)], .plain, 0x0, []⟩,
  ⟨.tmrStat, 0x40C, [(0x20, 64)], .plain, 0x0, [⟨1, 1, .w1c, .any⟩, ⟨2, 1, .w1c, .any⟩]⟩,
  ⟨.tmrCin, 0x410, [(0x20, 64)], .plain, 0x0, [⟨1, 1, .w1c, .any⟩]⟩,
  ⟨.hwdStat, 0x200, [], .plain, 0x14, []⟩,
  ⟨.pmTarget, 0xC00, [], .smDbt, 0x0, [⟨0, 3, .rw, .range 0 5⟩]⟩,
  ⟨.pmMode, 0xC04, [], .smDbt, 0x0, [⟨0, 1, .rw, .any⟩, ⟨1, 1, .rw, .any⟩, ⟨2, 1, .rw, .any⟩]⟩,
  ⟨.pmStat, 0xC08, [], .plain, 0x0, [⟨4, 1, .w1c, .any⟩, ⟨31, 1, .wo, .any⟩]⟩,
  ⟨.pmBankret, 0xC10, [(0x4, 6)], .smDbt, 0x0, [⟨0, 32, .rw, .any⟩]⟩,
  ⟨.domainSet, 0xC40, [(0x4, 5)], .smDbt, 0x0, [⟨0, 32, .rw, .any⟩]⟩,
  ⟨.domainState, 0xC60, [(0x4, 5)], .plain, 0x0, []⟩,
  ⟨.coreGate, 0xC80, [(0x4, 32)], .plain, 0x200, []⟩,
  ⟨.wakePin, 0xD00, [(0x4, 16)], .smDbt, 0x10, [⟨0, 1, .rw, .any⟩, ⟨1, 3, .rw, .range 0 4⟩, ⟨4, 2, .rw, .any⟩]⟩,
  ⟨.wakeI2c, 0xD40, [], .smDbt, 0x0, [⟨0, 7, .rw, .range 8 0x77⟩, ⟨7, 1, .rw, .any⟩]⟩,
  ⟨.wakeRecord, 0xD44, [], .plain, 0x0, []⟩,
  ⟨.wakeTimel, 0xD48, [(0x4, 2)], .plain, 0x0, []⟩,
  ⟨.wakeStat, 0xD50, [], .plain, 0x0, [⟨0, 1, .w1c, .any⟩]⟩,
  ⟨.wtPeriod, 0xE00, [], .smDbt, 0x3E8, [⟨0, 22, .rw, .range 1 3600000⟩]⟩,
  ⟨.wtCtl, 0xE04, [], .smDbt, 0x0, [⟨0, 16, .rw, .any⟩, ⟨16, 16, .rw, .any⟩]⟩,
  ⟨.wtWin, 0xE10, [(0x4, 16)], .smDbt, 0xFFF0000, [⟨0, 12, .rw, .any⟩, ⟨16, 12, .rw, .any⟩]⟩]

/-- The AON block. Part 2. -/
def aonRegs2 : List RegD := [
  ⟨.wtLast, 0xE50, [(0x4, 16)], .plain, 0x0, []⟩,
  ⟨.wtScans, 0xE90, [], .plain, 0x0, []⟩,
  ⟨.wtViol, 0xE94, [], .plain, 0x0, []⟩]

/-- The AON block. -/
def aonRegs : List RegD := aonRegs1 ++ aonRegs2

/-- Indices of the instance that a distance from the first instance names, if it names one. -/
def splitDims : List (Nat × Nat) → Nat → Option (List Nat)
  | [], d => if d = 0 then some [] else none
  | (s, n) :: t, d => if d / s < n then (splitDims t (d % s)).map (d / s :: ·) else none

/-- The register of a table at an offset, with its indices. -/
def findReg : List RegD → Nat → Option (RegD × List Nat)
  | [], _ => none
  | e :: t, off =>
    if e.off ≤ off then
      match splitDims e.dims (off - e.off) with
      | some ix => some (e, ix)
      | none => findReg t off
    else findReg t off

/-- Address of the UIB of an index (R21). -/
def uibBase (i : Nat) : Nat := 0x10000000 + i * 0x40
/-- Address of the register block of a UIB index (R246). -/
def blockBase (i : Nat) : Nat := 0x10100000 + i * 0x10000
/-- Port of a queue (R303). -/
def portBase (q : Nat) : Nat :=
  if q < 256 then blockBase (16 + q / 8) + 0x8000 + q % 8 * 0x40
  else if q < 320 then blockBase (1 + (q - 256) / 8) + 0x8000 + (q - 256) % 8 * 0x40
  else blockBase 0 + 0x8000 + (q - 320) * 0x40

/-- UIB_BLOCKLEN of a UIB index (R40). -/
def blockLen (i : Nat) : Nat :=
  if i = 0 then 0x8400
  else if 1 ≤ i && i ≤ 8 then 0x8200
  else if 16 ≤ i && i ≤ 47 then 0x8200
  else if i = 242 then 0x0100
  else if i = 243 then 0x0A00
  else if i = 244 || i = 245 then 0x0200
  else if i = 246 then 0xD100
  else if i = 247 then 0x0100
  else if i = 248 then 0x3700
  else if i = 249 then 0x0F00
  else 0

/-- UIB indices that exist (R21, R22). -/
def uibPresent (i : Nat) : Bool :=
  i ≤ 8 || (16 ≤ i && i ≤ 47) || (64 ≤ i && i ≤ 199) || (208 ≤ i && i ≤ 250)

/-- Register table of the block of a UIB index. -/
def blockRegs (i : Nat) : List RegD :=
  if i = 0 then houseRegs
  else if 1 ≤ i && i ≤ 8 then companyRegs
  else if 16 ≤ i && i ≤ 47 then troupeRegs
  else if i = 242 then smRegs
  else if i = 243 then cxlRegs
  else if i = 244 || i = 245 then hcRegs
  else if i = 246 then xbarRegs
  else if i = 248 then ioRegs
  else if i = 249 then aonRegs
  else []

/-- Number of queue ports in the block of a UIB index (R246). -/
def blockQueues (i : Nat) : Nat :=
  if i = 0 then 16 else if (1 ≤ i && i ≤ 8) || (16 ≤ i && i ≤ 47) then 8 else 0

/-- Queue number of the k-th queue of a UIB index's block (R303). -/
def queueOf (i k : Nat) : Nat :=
  if i = 0 then 320 + k else if i ≤ 8 then 256 + (i - 1) * 8 + k else (i - 16) * 8 + k

/-- A word of the device region: a register of a UIB or block with the unit's UIB index and the instance's indices. -/
structure RegAt where
  d : RegD
  unit : Nat
  ix : List Nat
deriving DecidableEq, Repr

/-- The register at an address of the device region, if a register table defines one there. For a queue port the unit is the
queue's number. -/
def regAt (a : Nat) : Option RegAt :=
  if 0x10000000 ≤ a && a < 0x10004000 then
    let i := (a - 0x10000000) / 0x40
    if uibPresent i then (findReg uibRegs (a % 0x40)).map (fun p => ⟨p.1, i, p.2⟩) else none
  else if 0x10100000 ≤ a && a < 0x11100000 then
    let i := (a - 0x10100000) / 0x10000
    let off := a % 0x10000
    if 0x8000 ≤ off && off < 0x8000 + blockQueues i * 0x40 then
      (findReg queueRegs (off % 0x40)).map (fun p => ⟨p.1, queueOf i ((off - 0x8000) / 0x40), p.2⟩)
    else if off < blockLen i then (findReg (blockRegs i) off).map (fun p => ⟨p.1, i, p.2⟩)
    else none
  else none

/-- UIB_CHILDPRESENT of a unit (R39): its children, one bit each; a core's are its roles. -/
def childPresent (u : Nat) : Nat :=
  if u = 0 then 0xFF + 0x7FF * 2 ^ 16
  else if u ≤ 8 then 0xF + 2 ^ 16
  else if u ≤ 47 then 0xF + 2 ^ 16
  else if u ≤ 191 then 0xF
  else if u ≤ 199 then 0x3
  else if u ≤ 239 then 0xF
  else if u ≤ 241 then 0x3
  else 0

/-- Reset value of the word at an address: what its register table gives; zero where no table defines the word (R40). DOMAIN_SET
and DOMAIN_STATE hold LS0 and LS1 off (R568); a lead's ROLEMASK has two bits, and only cores have one (R35); a CHILDMASK selects every child (R39). -/
def regReset (a : Nat) : Word :=
  match regAt a with
  | none => 0
  | some r =>
    match r.d.reg with
    | .domainSet | .domainState => if r.ix = [3] then 0x0000000A else 0
    | .uibChildmask => BitVec.ofNat 32 (childPresent r.unit)
    | .uibHold =>
      if (192 ≤ r.unit && r.unit ≤ 199) || r.unit = 240 || r.unit = 241 then 0x30
      else if (64 ≤ r.unit && r.unit ≤ 191) || (208 ≤ r.unit && r.unit ≤ 239) then 0xF0 else 0
    | _ => BitVec.ofNat 32 r.d.reset

namespace Adr

/-- Address of METRO_LO. -/
def metroLo : Nat := blockBase 249 + 0x100
/-- Address of METRO_HI. -/
def metroHi : Nat := blockBase 249 + 0x104
/-- Address of METRO_STAT. -/
def metroStat : Nat := blockBase 249 + 0x108
/-- Address of METRO_TRIM. -/
def metroTrim : Nat := blockBase 249 + 0x10C
/-- Address of DARK_P. -/
def darkP (i : Nat) : Nat := blockBase 0 + 0x200 + i * 0x4
/-- Address of DARK_L. -/
def darkL : Nat := blockBase 0 + 0x210
/-- Address of DARK_CNT. -/
def darkCnt : Nat := blockBase 0 + 0x214
/-- Address of CH_SRC. -/
def chSrc (i : Nat) : Nat := blockBase 246 + 0x0 + i * 0x20
/-- Address of CH_CS. -/
def chCs (i : Nat) : Nat := blockBase 246 + 0x4 + i * 0x20
/-- Address of CH_RT. -/
def chRt (i j : Nat) : Nat := blockBase 246 + 0x8 + i * 0x20 + j * 0x4
/-- Address of CH_STAT. -/
def chStat (i : Nat) : Nat := blockBase 246 + 0x18 + i * 0x20
/-- Address of CH_CLR. -/
def chClr (i : Nat) : Nat := blockBase 246 + 0x1C + i * 0x20
/-- Address of CX_LOOP. -/
def cxLoop : Nat := blockBase 246 + 0x9000
/-- Address of CX_LOOPRPT. -/
def cxLooprpt : Nat := blockBase 246 + 0x9004
/-- Address of CX_STAT. -/
def cxStat : Nat := blockBase 246 + 0x9008
/-- Address of CQ_CONST. -/
def cqConst (i : Nat) : Nat := blockBase 246 + 0xA000 + i * 0x4
/-- Address of CQ_CIN. -/
def cqCin (i : Nat) : Nat := blockBase 246 + 0xA800 + i * 0x4
/-- Address of WC_CIN. -/
def wcCin (i j : Nat) : Nat := blockBase 246 + 0xB000 + i * 0x10 + j * 0x4
/-- Address of CS_BASEL. -/
def csBasel (u i j : Nat) : Nat := blockBase (1 + u) + 0x400 + i * 0x180 + j * 0x20
/-- Address of CS_CFG. -/
def csCfg (u i j : Nat) : Nat := blockBase (1 + u) + 0x404 + i * 0x180 + j * 0x20
/-- Address of CS_PROD. -/
def csProd (u i j : Nat) : Nat := blockBase (1 + u) + 0x408 + i * 0x180 + j * 0x20
/-- Address of CS_CONS. -/
def csCons (u i j : Nat) : Nat := blockBase (1 + u) + 0x40C + i * 0x180 + j * 0x20
/-- Address of CS_STAT. -/
def csStat (u i j : Nat) : Nat := blockBase (1 + u) + 0x410 + i * 0x180 + j * 0x20
/-- Address of CSW_STAT. -/
def cswStat (u : Nat) : Nat := blockBase (1 + u) + 0x100
/-- Address of TMR_CTL. -/
def tmrCtl (i : Nat) : Nat := blockBase 249 + 0x400 + i * 0x20
/-- Address of TMR_LOAD. -/
def tmrLoad (i : Nat) : Nat := blockBase 249 + 0x404 + i * 0x20
/-- Address of TMR_COUNT. -/
def tmrCount (i : Nat) : Nat := blockBase 249 + 0x408 + i * 0x20
/-- Address of TMR_STAT. -/
def tmrStat (i : Nat) : Nat := blockBase 249 + 0x40C + i * 0x20
/-- Address of TMR_CIN. -/
def tmrCin (i : Nat) : Nat := blockBase 249 + 0x410 + i * 0x20
/-- Address of SCN_STAT. -/
def scnStat (u i : Nat) : Nat := blockBase (16 + u) + 0x2000 + i * 0x20
/-- Address of SCN_ID. -/
def scnId (u i : Nat) : Nat := blockBase (16 + u) + 0x2004 + i * 0x20
/-- Address of SCN_ABN. -/
def scnAbn (u i : Nat) : Nat := blockBase (16 + u) + 0x2008 + i * 0x20
/-- Address of SCN_CTL. -/
def scnCtl (u i : Nat) : Nat := blockBase (16 + u) + 0x200C + i * 0x20
/-- Address of SCN_QR. -/
def scnQr (u i j : Nat) : Nat := blockBase (16 + u) + 0x2010 + i * 0x20 + j * 0x4
/-- Address of SCN_CAST. -/
def scnCast (u : Nat) : Nat := blockBase (16 + u) + 0x2200
/-- Address of CUR_CNT. -/
def curCnt (i : Nat) : Nat := blockBase 0 + 0x300 + i * 0x10
/-- Address of CUR_LOCK. -/
def curLock (i : Nat) : Nat := blockBase 0 + 0x304 + i * 0x10
/-- Address of CUR_ERR. -/
def curErr (i : Nat) : Nat := blockBase 0 + 0x308 + i * 0x10
/-- Address of CUR_CLR. -/
def curClr (i : Nat) : Nat := blockBase 0 + 0x30C + i * 0x10
/-- Address of CUR_HLOCK. -/
def curHlock : Nat := blockBase 0 + 0x3A0
/-- Address of TMAP. -/
def tmap (u : Nat) : Nat := blockBase (16 + u) + 0x2400
/-- Address of SLACK. -/
def slack (u i : Nat) : Nat := blockBase (16 + u) + 0x2410 + i * 0x4
/-- Address of SLACKBASE. -/
def slackbase (u i : Nat) : Nat := blockBase (16 + u) + 0x2430 + i * 0x4
/-- Address of LMAP. -/
def lmap : Nat := blockBase 0 + 0x400
/-- Address of LSLACK. -/
def lslack (i : Nat) : Nat := blockBase 0 + 0x410 + i * 0x4
/-- Address of REP_ENTRY. -/
def repEntry (i : Nat) : Nat := blockBase 0 + 0x500 + i * 0x4
/-- Address of REP_STAT. -/
def repStat : Nat := blockBase 0 + 0x580
/-- Address of SCRUB_CTL. -/
def scrubCtl : Nat := blockBase 0 + 0x600
/-- Address of SCRUB_POS. -/
def scrubPos : Nat := blockBase 0 + 0x604
/-- Address of SCRUB_PASS. -/
def scrubPass : Nat := blockBase 0 + 0x608
/-- Address of MEC_CNT. -/
def mecCnt (i : Nat) : Nat := blockBase 0 + 0x800 + i * 0x8
/-- Address of MEC_LAST. -/
def mecLast (i : Nat) : Nat := blockBase 0 + 0x804 + i * 0x8
/-- Address of SHD_CFG. -/
def shdCfg (i : Nat) : Nat := blockBase 0 + 0x700 + i * 0x10
/-- Address of SHD_CNT. -/
def shdCnt (i : Nat) : Nat := blockBase 0 + 0x704 + i * 0x10
/-- Address of SHD_LASTL. -/
def shdLastl (i : Nat) : Nat := blockBase 0 + 0x708 + i * 0x10
/-- Address of SHD_LASTH. -/
def shdLasth (i : Nat) : Nat := blockBase 0 + 0x70C + i * 0x10
/-- Address of CXL_CFG. -/
def cxlCfg : Nat := blockBase 243 + 0x0
/-- Address of CXL_LINK. -/
def cxlLink (i : Nat) : Nat := blockBase 243 + 0x100 + i * 0x100
/-- Address of CXL_SERL, CXL_SERH. -/
def cxlSerl (i j : Nat) : Nat := blockBase 243 + 0x104 + i * 0x100 + j * 0x4
/-- Address of CXL_ERR. -/
def cxlErr (i : Nat) : Nat := blockBase 243 + 0x10C + i * 0x100
/-- Address of CXL_EMASK. -/
def cxlEmask (i : Nat) : Nat := blockBase 243 + 0x110 + i * 0x100
/-- Address of CXL_FIRST. -/
def cxlFirst (i : Nat) : Nat := blockBase 243 + 0x114 + i * 0x100
/-- Address of CXL_HLOG. -/
def cxlHlog (i j : Nat) : Nat := blockBase 243 + 0x118 + i * 0x100 + j * 0x4
/-- Address of CXL_HEALTH. -/
def cxlHealth (i : Nat) : Nat := blockBase 243 + 0x128 + i * 0x100
/-- Address of HDM_MAP. -/
def hdmMap (i j : Nat) : Nat := blockBase 243 + 0x140 + i * 0x100 + j * 0x8
/-- Address of HDM_CTL. -/
def hdmCtl (i j : Nat) : Nat := blockBase 243 + 0x144 + i * 0x100 + j * 0x8
/-- Address of CXL_WIN. -/
def cxlWin (i : Nat) : Nat := blockBase 243 + 0x400 + i * 0x4
/-- Address of CXL_MIR. -/
def cxlMir : Nat := blockBase 243 + 0x500
/-- Address of CXL_DIR. -/
def cxlDir : Nat := blockBase 243 + 0x580
/-- Address of CXL_GPF. -/
def cxlGpf : Nat := blockBase 243 + 0x590
/-- Address of CXL_FAILCNT. -/
def cxlFailcnt : Nat := blockBase 243 + 0x600
/-- Address of CXL_FAIL0. -/
def cxlFail0 (i : Nat) : Nat := blockBase 243 + 0x800 + i * 0x8
/-- Address of CXL_FAIL1. -/
def cxlFail1 (i : Nat) : Nat := blockBase 243 + 0x804 + i * 0x8
/-- Address of HC_CTL. -/
def hcCtl (u : Nat) : Nat := blockBase (244 + u) + 0x0
/-- Address of HC_CTXL. -/
def hcCtxl (u : Nat) : Nat := blockBase (244 + u) + 0x4
/-- Address of HC_CTXH. -/
def hcCtxh (u : Nat) : Nat := blockBase (244 + u) + 0x8
/-- Address of HC_BLDL. -/
def hcBldl (u : Nat) : Nat := blockBase (244 + u) + 0xC
/-- Address of HC_BLDH. -/
def hcBldh (u : Nat) : Nat := blockBase (244 + u) + 0x10
/-- Address of HC_AGE. -/
def hcAge (u : Nat) : Nat := blockBase (244 + u) + 0x14
/-- Address of HC_CMD. -/
def hcCmd (u : Nat) : Nat := blockBase (244 + u) + 0x20
/-- Address of HC_CMDCFG. -/
def hcCmdcfg (u : Nat) : Nat := blockBase (244 + u) + 0x24
/-- Address of HC_CMDPER. -/
def hcCmdper (u : Nat) : Nat := blockBase (244 + u) + 0x28
/-- Address of RNG_BASEL. -/
def rngBasel (u i : Nat) : Nat := blockBase (244 + u) + 0x40 + i * 0x10
/-- Address of RNG_CFG. -/
def rngCfg (u i : Nat) : Nat := blockBase (244 + u) + 0x44 + i * 0x10
/-- Address of RNG_PROD. -/
def rngProd (u i : Nat) : Nat := blockBase (244 + u) + 0x48 + i * 0x10
/-- Address of RNG_CONS. -/
def rngCons (u i : Nat) : Nat := blockBase (244 + u) + 0x4C + i * 0x10
/-- Address of HC_SAMP. -/
def hcSamp (u : Nat) : Nat := blockBase (244 + u) + 0x80
/-- Address of HC_REC. -/
def hcRec (u : Nat) : Nat := blockBase (244 + u) + 0x84
/-- Address of HC_BLKS. -/
def hcBlks (u : Nat) : Nat := blockBase (244 + u) + 0x88
/-- Address of HC_REJ0. -/
def hcRej0 (u : Nat) : Nat := blockBase (244 + u) + 0x8C
/-- Address of HC_REJ1. -/
def hcRej1 (u : Nat) : Nat := blockBase (244 + u) + 0x90
/-- Address of HC_REJ2. -/
def hcRej2 (u : Nat) : Nat := blockBase (244 + u) + 0x94
/-- Address of HC_REJ3. -/
def hcRej3 (u : Nat) : Nat := blockBase (244 + u) + 0x98
/-- Address of HC_BLKERR. -/
def hcBlkerr (u : Nat) : Nat := blockBase (244 + u) + 0x9C
/-- Address of HC_CLR. -/
def hcClr (u : Nat) : Nat := blockBase (244 + u) + 0xA0
/-- Address of PB_DESCL. -/
def pbDescl (u : Nat) : Nat := blockBase (244 + u) + 0x100
/-- Address of PB_DESCH. -/
def pbDesch (u : Nat) : Nat := blockBase (244 + u) + 0x104
/-- Address of PB_CTL. -/
def pbCtl (u : Nat) : Nat := blockBase (244 + u) + 0x108
/-- Address of PB_SKIP. -/
def pbSkip (u : Nat) : Nat := blockBase (244 + u) + 0x10C
/-- Address of PB_CNT. -/
def pbCnt (u : Nat) : Nat := blockBase (244 + u) + 0x110
/-- Address of SM_STAT. -/
def smStat : Nat := blockBase 242 + 0x0
/-- Address of SM_NOTE. -/
def smNote : Nat := blockBase 242 + 0x4
/-- Address of SM_DARKPOL. -/
def smDarkpol : Nat := blockBase 242 + 0x8
/-- Address of SM_IDLE. -/
def smIdle : Nat := blockBase 242 + 0xC
/-- Address of MB1_STATE. -/
def mb1State : Nat := blockBase 242 + 0x10
/-- Address of MB1_ERR. -/
def mb1Err : Nat := blockBase 242 + 0x14
/-- Address of MB1_OWN. -/
def mb1Own (i : Nat) : Nat := blockBase 242 + 0x20 + i * 0x4
/-- Address of FUSE_ADDR. -/
def fuseAddr : Nat := blockBase 0 + 0x180
/-- Address of FUSE_DATA. -/
def fuseData : Nat := blockBase 0 + 0x184
/-- Address of FUSE_CTL. -/
def fuseCtl : Nat := blockBase 0 + 0x188
/-- Address of RST_CAUSE. -/
def rstCause : Nat := blockBase 0 + 0x100
/-- Address of BOOT_STAT. -/
def bootStat : Nat := blockBase 0 + 0x110
/-- Address of BOOT_FAIL. -/
def bootFail : Nat := blockBase 0 + 0x114
/-- Address of HWD_STAT. -/
def hwdStat : Nat := blockBase 249 + 0x200
/-- Address of ROLE_START. -/
def roleStart (u i : Nat) : Nat := blockBase (16 + u) + 0x2600 + i * 0x4
/-- Address of LROLE_START. -/
def lroleStart (u i : Nat) : Nat := blockBase (1 + u) + 0x7000 + i * 0x4
/-- Address of PM_TARGET. -/
def pmTarget : Nat := blockBase 249 + 0xC00
/-- Address of PM_MODE. -/
def pmMode : Nat := blockBase 249 + 0xC04
/-- Address of PM_STAT. -/
def pmStat : Nat := blockBase 249 + 0xC08
/-- Address of PM_BANKRET. -/
def pmBankret (i : Nat) : Nat := blockBase 249 + 0xC10 + i * 0x4
/-- Address of DOMAIN_SET. -/
def domainSet (i : Nat) : Nat := blockBase 249 + 0xC40 + i * 0x4
/-- Address of DOMAIN_STATE. -/
def domainState (i : Nat) : Nat := blockBase 249 + 0xC60 + i * 0x4
/-- Address of CORE_GATE. -/
def coreGate (i : Nat) : Nat := blockBase 249 + 0xC80 + i * 0x4
/-- Address of WAKE_PIN. -/
def wakePin (i : Nat) : Nat := blockBase 249 + 0xD00 + i * 0x4
/-- Address of WAKE_I2C. -/
def wakeI2c : Nat := blockBase 249 + 0xD40
/-- Address of WAKE_RECORD. -/
def wakeRecord : Nat := blockBase 249 + 0xD44
/-- Address of WAKE_TIMEL, WAKE_TIMEH. -/
def wakeTimel (i : Nat) : Nat := blockBase 249 + 0xD48 + i * 0x4
/-- Address of WAKE_STAT. -/
def wakeStat : Nat := blockBase 249 + 0xD50
/-- Address of WT_PERIOD. -/
def wtPeriod : Nat := blockBase 249 + 0xE00
/-- Address of WT_CTL. -/
def wtCtl : Nat := blockBase 249 + 0xE04
/-- Address of WT_WIN. -/
def wtWin (i : Nat) : Nat := blockBase 249 + 0xE10 + i * 0x4
/-- Address of WT_LAST. -/
def wtLast (i : Nat) : Nat := blockBase 249 + 0xE50 + i * 0x4
/-- Address of WT_SCANS. -/
def wtScans : Nat := blockBase 249 + 0xE90
/-- Address of WT_VIOL. -/
def wtViol : Nat := blockBase 249 + 0xE94
/-- Address of XC_STAT. -/
def xcStat (i : Nat) : Nat := blockBase 0 + 0x1000 + i * 0x4
/-- Address of XC_ARB. -/
def xcArb : Nat := blockBase 0 + 0x1100
/-- Address of PAD_OWN. -/
def padOwn (i : Nat) : Nat := blockBase 248 + 0x400 + i * 0x4
/-- Address of PAD_CTL. -/
def padCtl (i : Nat) : Nat := blockBase 248 + 0x0 + i * 0x4
/-- Address of PAD_CIN. -/
def padCin (i : Nat) : Nat := blockBase 248 + 0x800 + i * 0x4
/-- Address of SER_CFG. -/
def serCfg (i : Nat) : Nat := blockBase 248 + 0x1000 + i * 0x100
/-- Address of SER_DIV. -/
def serDiv (i : Nat) : Nat := blockBase 248 + 0x1004 + i * 0x100
/-- Address of SER_RXQ. -/
def serRxq (i : Nat) : Nat := blockBase 248 + 0x1008 + i * 0x100
/-- Address of SER_TX. -/
def serTx (i : Nat) : Nat := blockBase 248 + 0x100C + i * 0x100
/-- Address of SER_STAT. -/
def serStat (i : Nat) : Nat := blockBase 248 + 0x1010 + i * 0x100
/-- Address of SER_CNT. -/
def serCnt (i : Nat) : Nat := blockBase 248 + 0x1014 + i * 0x100
/-- Address of SER_ROUTE. -/
def serRoute (i : Nat) : Nat := blockBase 248 + 0x1018 + i * 0x100
/-- Address of CAN_NBT, CAN_DBT. -/
def canNbt (i j : Nat) : Nat := blockBase 248 + 0x1020 + i * 0x100 + j * 0x4
/-- Address of CAN_TXID. -/
def canTxid (i : Nat) : Nat := blockBase 248 + 0x1028 + i * 0x100
/-- Address of CAN_FLT. -/
def canFlt (i j : Nat) : Nat := blockBase 248 + 0x1040 + i * 0x100 + j * 0x8
/-- Address of CAN_FMASK. -/
def canFmask (i j : Nat) : Nat := blockBase 248 + 0x1044 + i * 0x100 + j * 0x8
/-- Address of SER_TASK. -/
def serTask (i j : Nat) : Nat := blockBase 248 + 0x10E0 + i * 0x100 + j * 0x4
/-- Address of PU_CTL. -/
def puCtl (i : Nat) : Nat := blockBase 248 + 0x3000 + i * 0x40
/-- Address of PU_PER. -/
def puPer (i : Nat) : Nat := blockBase 248 + 0x3004 + i * 0x40
/-- Address of PU_DUTY. -/
def puDuty (i : Nat) : Nat := blockBase 248 + 0x3008 + i * 0x40
/-- Address of PU_CNT. -/
def puCnt (i : Nat) : Nat := blockBase 248 + 0x300C + i * 0x40
/-- Address of PU_CAP. -/
def puCap (i : Nat) : Nat := blockBase 248 + 0x3010 + i * 0x40
/-- Address of PU_CAPT. -/
def puCapt (i : Nat) : Nat := blockBase 248 + 0x3014 + i * 0x40
/-- Address of PU_STAT. -/
def puStat (i : Nat) : Nat := blockBase 248 + 0x3018 + i * 0x40
/-- Address of PU_TASK. -/
def puTask (i j : Nat) : Nat := blockBase 248 + 0x3020 + i * 0x40 + j * 0x4
/-- Address of ADC_CTL. -/
def adcCtl (i : Nat) : Nat := blockBase 248 + 0x3400 + i * 0x40
/-- Address of ADC_SEQ. -/
def adcSeq (i : Nat) : Nat := blockBase 248 + 0x3404 + i * 0x40
/-- Address of ADC_Q. -/
def adcQ (i : Nat) : Nat := blockBase 248 + 0x3408 + i * 0x40
/-- Address of ADC_STAT. -/
def adcStat (i : Nat) : Nat := blockBase 248 + 0x340C + i * 0x40
/-- Address of ADC_RES. -/
def adcRes (i j : Nat) : Nat := blockBase 248 + 0x3410 + i * 0x40 + j * 0x4
/-- Address of ADC_CIN. -/
def adcCin (i : Nat) : Nat := blockBase 248 + 0x3430 + i * 0x40
/-- Address of CMP_WIN. -/
def cmpWin (i : Nat) : Nat := blockBase 248 + 0x3600 + i * 0x10
/-- Address of CMP_STAT. -/
def cmpStat (i : Nat) : Nat := blockBase 248 + 0x3604 + i * 0x10
/-- Address of PR_INSTR. -/
def prInstr (u i : Nat) : Nat := blockBase (16 + u) + 0x2800 + i * 0x10
/-- Address of PR_CTL. -/
def prCtl (u i : Nat) : Nat := blockBase (16 + u) + 0x2804 + i * 0x10
/-- Address of PR_STAT. -/
def prStat (u i : Nat) : Nat := blockBase (16 + u) + 0x2808 + i * 0x10
/-- Address of PR_PC. -/
def prPc (u i : Nat) : Nat := blockBase (16 + u) + 0x280C + i * 0x10
/-- Address of PR_ADDR. -/
def prAddr (u i : Nat) : Nat := blockBase (16 + u) + 0x2A00 + i * 0x4
/-- Address of LPR_INSTR. -/
def lprInstr (u i : Nat) : Nat := blockBase (1 + u) + 0x7040 + i * 0x20
/-- Address of LPR_CTL. -/
def lprCtl (u i : Nat) : Nat := blockBase (1 + u) + 0x7044 + i * 0x20
/-- Address of LPR_STAT. -/
def lprStat (u i : Nat) : Nat := blockBase (1 + u) + 0x7048 + i * 0x20
/-- Address of LPR_PC. -/
def lprPc (u i : Nat) : Nat := blockBase (1 + u) + 0x704C + i * 0x20
/-- Address of LPR_ADDR. -/
def lprAddr (u i : Nat) : Nat := blockBase (1 + u) + 0x7050 + i * 0x20
/-- Address of SPOT_CTL. -/
def spotCtl (u i : Nat) : Nat := blockBase (1 + u) + 0x7100 + i * 0x40
/-- Address of SPOT_DATA. -/
def spotData (u i : Nat) : Nat := blockBase (1 + u) + 0x7114 + i * 0x40
/-- Address of SPOT_DMASK. -/
def spotDmask (u i : Nat) : Nat := blockBase (1 + u) + 0x7118 + i * 0x40
/-- Address of SPOT_CID. -/
def spotCid (u i : Nat) : Nat := blockBase (1 + u) + 0x711C + i * 0x40
/-- Address of SPOT_ROLE. -/
def spotRole (u i : Nat) : Nat := blockBase (1 + u) + 0x7120 + i * 0x40
/-- Address of SPOT_REC. -/
def spotRec (u i : Nat) : Nat := blockBase (1 + u) + 0x7124 + i * 0x40
/-- Address of SPOT_HITS. -/
def spotHits (u i : Nat) : Nat := blockBase (1 + u) + 0x7128 + i * 0x40
/-- Address of SPOT_STARTL. -/
def spotStartl (u i : Nat) : Nat := blockBase (1 + u) + 0x7104 + i * 0x40
/-- Address of SPOT_STARTH. -/
def spotStarth (u i : Nat) : Nat := blockBase (1 + u) + 0x7108 + i * 0x40
/-- Address of SPOT_ENDL. -/
def spotEndl (u i : Nat) : Nat := blockBase (1 + u) + 0x710C + i * 0x40
/-- Address of SPOT_ENDH. -/
def spotEndh (u i : Nat) : Nat := blockBase (1 + u) + 0x7110 + i * 0x40
/-- Address of TWD_CTL. -/
def twdCtl (u i : Nat) : Nat := blockBase (16 + u) + 0x2700 + i * 0x10
/-- Address of TWD_SVC. -/
def twdSvc (u i : Nat) : Nat := blockBase (16 + u) + 0x2704 + i * 0x10
/-- Address of TWD_STAT. -/
def twdStat (u i : Nat) : Nat := blockBase (16 + u) + 0x2708 + i * 0x10
/-- Address of TR_CTL. -/
def trCtl : Nat := blockBase 0 + 0x1200
/-- Address of TR_STAT. -/
def trStat : Nat := blockBase 0 + 0x1204
/-- Address of QCOUNT of queue q. -/
def qcount (q : Nat) : Nat := portBase q + 0x4
/-- Address of QSTAT of queue q. -/
def qstat (q : Nat) : Nat := portBase q + 0x8
/-- Address of QCTL of queue q. -/
def qctl (q : Nat) : Nat := portBase q + 0xC
/-- Address of QERRCNT of queue q. -/
def qerrcnt (q : Nat) : Nat := portBase q + 0x10
/-- Address of QOPENER of queue q. -/
def qopener (q : Nat) : Nat := portBase q + 0x14
/-- Address of UIB_ID of UIB index u. -/
def uibId (u : Nat) : Nat := uibBase u + 0x0
/-- Address of UIB_INFO of UIB index u. -/
def uibInfo (u : Nat) : Nat := uibBase u + 0x4
/-- Address of UIB_STATE of UIB index u. -/
def uibState (u : Nat) : Nat := uibBase u + 0x8
/-- Address of UIB_PWRREQ of UIB index u. -/
def uibPwrreq (u : Nat) : Nat := uibBase u + 0xC
/-- Address of UIB_FAULT of UIB index u. -/
def uibFault (u : Nat) : Nat := uibBase u + 0x10
/-- Address of UIB_FREC_INFO of UIB index u. -/
def uibFrecInfo (u : Nat) : Nat := uibBase u + 0x14
/-- Address of UIB_FREC_ADDRL of UIB index u. -/
def uibFrecAddrl (u : Nat) : Nat := uibBase u + 0x18
/-- Address of UIB_FREC_ADDRH of UIB index u. -/
def uibFrecAddrh (u : Nat) : Nat := uibBase u + 0x1C
/-- Address of UIB_HOLD of UIB index u. -/
def uibHold (u : Nat) : Nat := uibBase u + 0x20
/-- Address of UIB_CUEIN of UIB index u. -/
def uibCuein (u : Nat) : Nat := uibBase u + 0x24
/-- Address of UIB_CHILDMASK of UIB index u. -/
def uibChildmask (u : Nat) : Nat := uibBase u + 0x28
/-- Address of UIB_CHILDPRESENT of UIB index u. -/
def uibChildpresent (u : Nat) : Nat := uibBase u + 0x2C
/-- Address of UIB_BLOCK of UIB index u. -/
def uibBlock (u : Nat) : Nat := uibBase u + 0x30
/-- Address of UIB_BLOCKLEN of UIB index u. -/
def uibBlocklen (u : Nat) : Nat := uibBase u + 0x34
/-- Address of UIB_CHILDREN of UIB index u. -/
def uibChildren (u : Nat) : Nat := uibBase u + 0x38

end Adr

end Sys2Proof.Machine
end

