-- ==== Sys2Proof/Machine/Parts.lean ====
section
/-! DEFINITION. The pieces of state of roles, scenes, memory, cues, call sheets and queues, as plain data. -/

namespace Sys2Proof.Machine

/-- A ticket and its tag (R230). Bits 127:124 are zero in every ticket the part makes (R232), so they take no place here. -/
structure Ticket where
  base : BitVec 48
  len : BitVec 48
  perm : BitVec 8
  cid : BitVec 12
  sealTy : BitVec 8
  tag : Bool
deriving DecidableEq, Repr

/-- The null ticket: all zero with the tag clear (R82). -/
def Ticket.null : Ticket := ⟨0, 0, 0, 0, 0, false⟩

/-- What a fetch brought: a word, or the fault of steps 1 to 3 of R95 that the word's issue takes. -/
inductive Fetched where
  | word (w : Word)
  | fault (vec : BitVec 5) (detail : Byte) (addr : Addr)
deriving DecidableEq, Repr

/-- One of the two words a role holds ahead of its issue (R137). -/
structure HeldWord where
  pc : Word
  got : Fetched
deriving DecidableEq, Repr

/-- An entry of the priority stack (R253): a level, and whether MASK pushed it. -/
structure Level where
  level : BitVec 4
  mask : Bool
deriving DecidableEq, Repr

/-- A store its destination has not accepted (R187): its halves by address (R133), the tag a TSTORE sets (R156), the store's PC
(R267) and whether it was made with DBT authority. -/
structure Posted where
  parts : List (Nat × List Byte)
  tag : Option Bool
  pc : Word
  dbt : Bool
deriving DecidableEq, Repr

/-- What a role has issued and not retired (R196). -/
inductive Busy where
  | idle
  /-- DIV, DIVU, BIN2D or D2BIN runs (R105). -/
  | multi (w : Word)
  /-- A load, exclusive load, TLOAD or exclusive store waits for its response (R194). -/
  | load (w : Word)
  /-- A push, QOPEN or QCLOSE whose handshake has not completed (R142). -/
  | push (w : Word)
  /-- A pop whose handshake has not completed (R142). -/
  | pop (w : Word)
  /-- WAIT (R166). -/
  | waiting
  /-- WAITCUE stalled on its inputs (R167). -/
  | waitcue (w : Word)
  /-- SCENE.END whose curtain runs (R338). -/
  | curtain (w : Word)
  /-- A long operation in precise mode (R223). -/
  | long (w : Word)
  /-- An instruction that loses slots before it takes effect (SYNC.I, LBAR, a ninth posted store, a full role latch, R346): it is
  tried again by its own command. -/
  | blocked (w : Word)
deriving DecidableEq, Repr

/-- An active repeat (R171 to R175). The saved values serve an atomic repeat's abandonment. -/
structure Rep where
  word : Word
  pword : Word
  atomic : Bool
  count : BitVec 16
  saved : List (Nat × Word)
  st0 : Word
  heldStores : List Posted
  wings0 : Nat
  journal0 : Nat
  effects0 : Nat
  retired0 : Nat
deriving DecidableEq, Repr

/-- The identity of the most recently abandoned instruction (R80). -/
structure AbnId where
  pc : Word
  base : BitVec 48
deriving DecidableEq, Repr

/-- A pending late store error, vector 9 (R267). -/
structure LateErr where
  detail : Byte
  addr : Addr
  pc : Option Word
  sid : Option Word
  merged : Byte
deriving DecidableEq, Repr

/-- A long operation in flight (R215): its word, T0.base + PC, the captured sources and DT, and CRC32C's ticket. -/
structure LongOp where
  word : Word
  addr : Addr
  a : List Word
  b : List Word
  d : Word
  dt : Bool
  ticket : Ticket
  unit : Nat
deriving DecidableEq, Repr

/-- A pending long fault (R221). -/
structure LongFault where
  word : Word
  addr : Addr
  detail : Byte
  unit : Nat
deriving DecidableEq, Repr

/-- A role (R67). `holdReq`: a hold is requested (R35); `onHold`: the role is held. `loadErr` is the error that ended a CXL request of its load in progress (R410, R413). G0 is never listed in `g`: a write to it is discarded (R68). -/
structure Role where
  started : Bool
  holdReq : Bool
  onHold : Bool
  frozen : Bool
  wentDark : Bool
  g : Sparse Word
  pc : Word
  st : Word
  rc : BitVec 16
  mpl : Word
  mph : Word
  dq : Word
  drm : Word
  abcnt : Word
  abnId : Option AbnId
  starved : Bool
  beatsh : Word
  t : Sparse Ticket
  ht : Ticket
  tst : Ticket
  srt : Ticket
  dbt : Ticket
  stack : List Level
  resv : Option Nat
  fetchQ : List HeldWord
  prodOld : Option DWord
  prodNew : Option DWord
  busy : Busy
  rep : Option Rep
  eoiClosed : Bool
  late : Option LateErr
  pfail : Bool
  posted : List Posted
  prompt : Bool
  lprec : Bool
  le : Bool
  lv : Bool
  longOps : List LongOp
  longFaults : List LongFault
  loadErr : Option (Byte × Nat)
deriving DecidableEq, Repr

/-- A role before its first start: every register zero (R87), every ticket null. -/
def Role.reset : Role where
  started := false
  holdReq := false
  onHold := false
  frozen := false
  wentDark := false
  g := []
  pc := 0
  st := 0
  rc := 0
  mpl := 0
  mph := 0
  dq := 0
  drm := 0
  abcnt := 0
  abnId := none
  starved := false
  beatsh := 0
  t := []
  ht := Ticket.null
  tst := Ticket.null
  srt := Ticket.null
  dbt := Ticket.null
  stack := []
  resv := none
  fetchQ := []
  prodOld := none
  prodNew := none
  busy := .idle
  rep := none
  eoiClosed := false
  late := none
  pfail := false
  posted := []
  prompt := false
  lprec := false
  le := false
  lv := false
  longOps := []
  longFaults := []
  loadErr := none

/-- A wings entry (R328): an 8-byte aligned doubleword, its data, the bytes written, and the tag a TSTORE sets. -/
structure Wing where
  dw : Nat
  data : DWord
  mask : Byte
  setTag : Option Bool
deriving DecidableEq, Repr

/-- A curtain lock (R337): an area's or the house's. -/
inductive Lock where
  | area (a : Nat)
  | house
deriving DecidableEq, Repr

/-- A curtain in progress (R338): locks still wanted in order, locks held, areas touched, and whether step 4 is done. -/
structure Curtain where
  want : List Lock
  held : List Lock
  areas : List Nat
  marked : Bool
deriving DecidableEq, Repr

/-- What a player role's scene holds outside the scene record of R325. The record itself is memory. -/
structure Scene where
  wings : List Wing
  effects : Nat
  retired : Nat
  jpos : Nat
  t0tag : Bool
  releasing : Bool
  faults : Nat
  cur : Option Curtain
  ownFrame : Bool
deriving DecidableEq, Repr

/-- A role's scene storage before its first scene. -/
def Scene.reset : Scene := ⟨[], 0, 0, 0, false, false, 0, none, false⟩

/-- A staged wings entry (R338, R339): its scene, and whether it has flipped. -/
structure Staged where
  wing : Wing
  role : Nat
  sid : Word
  flipped : Bool
deriving DecidableEq, Repr

/-- What a core holds: its beat count (R57), BEATPER (R56) and the METRO count it read last (R61). -/
structure Core where
  beats : BitVec 64
  per : Word
  /-- The count that the core's last read of METRO returned (R61). -/
  seen : BitVec 48
deriving DecidableEq, Repr

/-- A core before its first beat. -/
def Core.reset : Core := ⟨0, 0, 0⟩

/-- The error state of an 8-byte codeword (R384, R386): bits in error, and the poison pattern. -/
structure Cw where
  bits : Nat
  poison : Bool
deriving DecidableEq, Repr

/-- A clean codeword. -/
def Cw.clean : Cw := ⟨0, false⟩

/-- A line of a lead cache (R209, R212): the lead, I or D, the line, modified, its bytes, granule tags, poisoned words and the role
that last wrote it. -/
structure CLine where
  lead : Nat
  icache : Bool
  line : Nat
  dirty : Bool
  data : List Byte
  tags : List Bool
  poison : List Bool
  writer : Nat
deriving DecidableEq, Repr

/-- A stage of a queue (R305). `err`: 0 clean; 1 a parity mismatch, or a single-bit error of a house queue; 2 uncorrectable. -/
structure Stage where
  data : Word
  first : Bool
  lenSlot : Bool
  poison : Bool
  slot : Bool
  filled : Bool
  err : Nat
deriving DecidableEq, Repr

/-- A queue: its occupied stages, head first, and the data words pushed into the open packet (R307, R324). -/
structure Queue where
  stages : List Stage
  pktWords : Nat
deriving DecidableEq, Repr

/-- An empty queue. -/
def Queue.reset : Queue := ⟨[], 0⟩

/-- A crossbar input latch (R275). `chan` is the channel a CUE or the SM fires, `extra` the channel a timer's expiry adds (R301). -/
structure Latch where
  full : Bool
  hop : BitVec 4
  merge : Byte
  time : Word
  chan : Nat
  extra : Option Nat
  curtain : Bool
  payload : List Byte
deriving DecidableEq, Repr

/-- An empty latch. -/
def Latch.reset : Latch := ⟨false, 0, 0, 0, 0, none, false, []⟩

/-- A call-sheet record on its way to a ring (R290, R291), less its PHASE. -/
structure CsRec where
  role : Nat
  level : Nat
  source : BitVec 16
  kind : BitVec 4
  hop : BitVec 4
  curtain : Bool
  merged : Bool
  time : Word
  payload : List Byte
deriving DecidableEq, Repr

/-- Records lost since a ring's last OVERFLOW record, and the first of them (R295). -/
structure Ovf where
  lost : BitVec 16
  source : BitVec 16
  time : Word
deriving DecidableEq, Repr

/-- No record lost. -/
def Ovf.reset : Ovf := ⟨0, 0, 0⟩

/-- A delivery of an event crossing on its way to its latch (R580, R581). -/
structure Fly where
  merged : Nat
  hop : BitVec 4
  payload : List Byte
  extra : Option Nat
deriving DecidableEq, Repr

/-- A hardware event id's crossing (R580): events not yet launched, the first of them (`extra` is the channel a timer's expiry
adds, R301), and the delivery in flight. -/
structure Xev where
  count : Nat
  hop : BitVec 4
  payload : List Byte
  extra : Option Nat
  fly : Option Fly
deriving DecidableEq, Repr

/-- No event. -/
def Xev.reset : Xev := ⟨0, 0, [], none, none⟩

/-- The action a fire started at a consumer input (R281): the route's ARG and the fire's hop count. -/
structure CinAct where
  arg : Nat
  hop : BitVec 4
deriving DecidableEq, Repr

/-- The SM's event log (R517): sequence number of the next record, and the records held, oldest first. -/
structure Log where
  next : Word
  recs : List CsRec
deriving DecidableEq, Repr

/-- The trace port (R622 to R624): packets waiting, packets lost since the last overflow packet, whether a sync packet is owed,
packets sent since the last one, and the packet that the port drove last. -/
structure Trace where
  fifo : List DWord
  owed : Nat
  syncOwed : Bool
  sent : Nat
  last : DWord
deriving DecidableEq, Repr

/-- A trace port that holds nothing. -/
def Trace.reset : Trace := ⟨[], 0, false, 0, 0⟩

/-- Who made a request to the CXL controller (R410, R415). -/
inductive CxlWho where
  | load (r : Nat)
  | store (r : Nat) (pc : Word)
  | writeback (r : Nat)
  | curtain (r : Nat) (sid : Word)
  | hc (h : Nat) (ring : Nat)
  /-- A load that was abandoned: its data is discarded when it arrives (R196). -/
  | dropped
deriving DecidableEq, Repr

/-- A request outstanding on a CXL port: its line, who made it, the request for the other copy of a mirrored write while that one is
outstanding, and whether the other copy has completed, or for a load whether it has been reissued (R410, R418). -/
structure CxlReq where
  who : CxlWho
  addr : Nat
  mate : Option Nat
  good : Bool
deriving DecidableEq, Repr

/-- Global Persistent Flush (R420): not running; draining before step 4; waiting for the phase of each port. -/
inductive Gpf where
  | idle
  | drain
  | phase (p0 p1 : Nat)
deriving DecidableEq, Repr

/-- What the CXL controller holds outside its registers: requests outstanding by port × 512 + number, the device on each port as
bring-up found it, PFAIL_N and the count when it last asserted, the flush and the offset a resync has reached. -/
structure CxlSt where
  reqs : Sparse (Option CxlReq)
  dev0 : Option CxlDevice
  dev1 : Option CxlDevice
  pfail : Bool
  pfailAt : BitVec 48
  gpf : Gpf
  pos : Nat
deriving DecidableEq, Repr

/-- A write held at a crossing into a stopped clock domain (R583): its writer, address and value, and the store's role and PC. -/
structure HeldWrite where
  by_ : Agent
  addr : Nat
  value : Word
  role : Nat
  pc : Word
deriving DecidableEq, Repr

/-- The time base (R59 to R63, R654): crystal present, REFCLK present, ticks the count lags crystal time by and has still to add
back (negative: to withhold), and the count at the last boundary. -/
structure TimeBase where
  xtal : Bool
  refclk : Bool
  debt : Int
  lastB : BitVec 48
deriving DecidableEq, Repr

/-- The scrubber's pass (R379, R393): uncorrectable words found in it, and corrected words by bank × 256 + row. -/
structure Scrub where
  unc : Nat
  rows : Sparse Nat
deriving DecidableEq, Repr

/-- A step of a serial channel's producer (R595): a packet opened, a word pushed with the received bytes it carries, a packet closed, or
a frame done, which raises event 1 with its payload. -/
inductive PushW where
  | opn
  | word (w : Word) (bytes : Nat)
  | cls
  | done (payload : List Byte)
deriving DecidableEq, Repr

/-- A serial channel (R591 to R596): the transmit FIFO with END marks, the frame that the transmitter collects, whether END has closed it,
whether TXHOLD holds it, whether the rest of an oversized frame is discarded, the hop count of its release, what is on the line and its
hop count; the receiver's words not yet accepted, whether bytes were lost, and RTS (true: high). -/
structure SerCh where
  fifo : List (Byte × Bool)
  frame : List Byte
  closed : Bool
  held : Bool
  drop : Bool
  hop : BitVec 4
  line : Option (List Byte)
  lineHop : BitVec 4
  rx : List PushW
  lost : Bool
  rts : Bool
deriving DecidableEq, Repr

/-- A channel before use. -/
def SerCh.reset : SerCh := ⟨[], [], false, false, false, 0, none, 0, [], false, false⟩

/-- A pulse unit beside its registers (R597): PERIOD and DUTY in force, and the hop count of its events (R601). -/
structure PulseU where
  per : Word
  duty : Word
  hop : BitVec 4
deriving DecidableEq, Repr

/-- A pulse unit before use. -/
def PulseU.reset : PulseU := ⟨0x64, 0, 0⟩

/-- An ADC beside its registers (R598, R599): the rank that converts, and a result that its queue has not accepted. -/
structure AdcSt where
  rank : Nat
  wait : Option Word
deriving DecidableEq, Repr

/-- An ADC before use. -/
def AdcSt.reset : AdcSt := ⟨0, none⟩

/-- What the pad latch holds of a pad (R524): output level, drive enable, pull. -/
structure PadShow where
  level : Bool
  drive : Bool
  pull : Nat
deriving DecidableEq, Repr

/-- An empty pad latch: high impedance. -/
def PadShow.hiz : PadShow := ⟨false, false, 0⟩

/-- A record of a block (R440): its KIND, absolute time and value. -/
structure HRec where
  kind : Nat
  time : Nat
  value : Word
deriving DecidableEq, Repr

/-- What a block's header says of its half (R445): channel, context words 0x00 and 0x04, CONT, SRC, CHSEQ, and the first parameters. -/
structure HalfInfo where
  chan : Nat
  cfg : Word
  per : Word
  cont : Bool
  src : Nat
  seq : Nat
  kt0 : Nat
  kv0 : Nat
deriving DecidableEq, Repr

/-- A sample on its way through a compressor's stage (R427, R428): channel, time, raw value word, ALARM, and whether it is short. -/
structure HcSample where
  chan : Nat
  time : Nat
  value : Word
  alarm : Bool
  short : Bool
deriving DecidableEq, Repr

/-- What a compressor keeps of a channel beside its context (R441 to R444): the records of the filling half, the first parameters of its
block, CHSEQ, the POINT that the next block repeats, and whether this block repeats one. -/
structure HcChan where
  recs : List HRec
  kt0 : Nat
  kv0 : Nat
  seq : Nat
  last : Option HRec
  cont : Bool
deriving DecidableEq, Repr

/-- A channel as CONFIG leaves it (R442, R445). -/
def HcChan.reset : HcChan := ⟨[], 0, 2, 0, none, false⟩

/-- A build half in the close queue (R448, R449): its header, local index, half, ring and records; 0 coded, 1 raw, 2 raw for the second
time; and whether its slots are written. -/
structure HcClose where
  info : HalfInfo
  loc : Nat
  half : Nat
  ring : Nat
  recs : List HRec
  attempt : Nat
  wrote : Bool
deriving DecidableEq, Repr

/-- A command of HC_CMD in progress (R461): operation, local index and arguments. -/
structure HcCmd where
  op : Nat
  loc : Nat
  cfg : Word
  per : Word
deriving DecidableEq, Repr

/-- A historian compressor (R425 to R459): cached contexts, by local index, with their dirty marks; channels by local index; samples that
the stage holds; the close queue; channels to flush and the command that asked; the next feed in rotation; a drain begun; whether the
close engine waits at a HOLD ring; the descriptor of the playback that runs. -/
structure Hc where
  cache : List (Nat × BitVec 512 × Bool)
  chans : Sparse HcChan
  work : List HcSample
  queue : List HcClose
  todo : List Nat
  cmd : Option HcCmd
  turn : Nat
  drain : Bool
  holdWait : Bool
  play : Option (List Byte)
deriving DecidableEq, Repr

/-- A compressor before use. -/
def Hc.reset : Hc := ⟨[], [], [], [], [], none, 0, false, false, none⟩

/-- The controller before bring-up. -/
def CxlSt.reset : CxlSt := ⟨[], none, none, false, 0, .idle, 0⟩

end Sys2Proof.Machine
end

