-- ==== Sys2Proof/Machine/SmParts.lean ====
section
/-! DEFINITION. What the stage manager holds (R465 to R518): images and their grants, sessions, jobs, mailbox slots, key slots and
policies, as plain data. -/

namespace Sys2Proof.Machine

/-- An entry of a grant list (R240). -/
structure Grant where
  base : Nat
  len : Nat
  perm : Byte
  target : Nat
  mask : Nat
  flags : Nat
deriving DecidableEq, Repr

/-- A CORE record of an image (R531): UIB index of a logical core or lead, the roles to start, and its grants. -/
structure ImageCore where
  uib : Nat
  start : Nat
  grants : List Grant
deriving DecidableEq, Repr

/-- An installed image (R505, R531): its CID, where its SEGMENTs lie, its CORE, RING, QUIET, SLOT and CLAIM records. -/
structure Image where
  cid : Nat
  /-- address, length -/
  segs : List (Nat × Nat)
  cores : List ImageCore
  /-- role, level, SIZE, base -/
  rings : List (Nat × Nat × Nat × Nat)
  /-- role, range, SCN_QR word -/
  quiets : List (Nat × Nat × Word)
  /-- slot, completion level, owner role -/
  slots : List (Nat × Nat × Nat)
  /-- kind, item -/
  claims : List (Nat × Nat)
deriving DecidableEq, Repr

/-- An open session (R483 to R485). -/
structure Session where
  sid : Word
  set : Nat
  slot : Nat
  code : Nat
  last : Nat
  /-- CID of the image that owns the set 1 slot it was opened on (R485), 0 on another set. -/
  cid : Nat
  kcmd : BitVec 256
  krsp : BitVec 256
deriving DecidableEq, Repr

/-- A pending open (R482). -/
structure OpenRec where
  handle : Word
  nonce : BitVec 256
  set : Nat
  slot : Nat
  cid : Nat
deriving DecidableEq, Repr

/-- The work of a job (R498): an image load, a repair entry, a FORMAT, or a playback. -/
inductive JobKind where
  | imageLoad (addr : Nat) (flags : Nat) (cid : Nat)
  | repair (n : Nat)
  | format (w : Nat)
  | playback (h : Nat)
deriving DecidableEq, Repr

/-- A job (R498): its id, work, outcome, result, and the CID it acts for (0 for a session's). -/
structure Job where
  id : Nat
  kind : JobKind
  running : Bool
  status : Nat
  progress : Nat
  result : List Byte
  cid : Nat
deriving DecidableEq, Repr

/-- A fused key slot (R488): its key and role code, 0 empty, 0xF revoked. -/
structure KeySlot where
  key : BitVec 256
  code : Nat
deriving DecidableEq, Repr

/-- Lockout counters of a key slot (R489): FAILS, LEVEL, and the lock time while it is locked. -/
structure Lockout where
  fails : Nat
  level : Nat
  lock : Nat
deriving DecidableEq, Repr

/-- The retirement policy (R366): threshold in 0.1 %, fault count, window in days, approval required. -/
structure WearPol where
  thr : Nat
  faults : Nat
  days : Nat
  approval : Bool
deriving DecidableEq, Repr

/-- A migration that is due (R350, R366, R371): its core, cause, and the roles that wait for it with the mechanism that detected their
fault. -/
structure Due where
  core : Nat
  cause : Nat
  charged : List (Nat × Nat)
deriving DecidableEq, Repr

/-- A command whose work goes on before its response (R500): set and slot, or set 3 with a UIB index for a request of R499; domains and
gates (by physical slot) that have yet to reach ON, or VID on its way to a code. -/
structure CmdWait where
  set : Nat
  slot : Nat
  doms : List Nat
  gates : List Nat
  vid : Bool
deriving DecidableEq, Repr

/-- Where a change of house state stands (R504, R549 to R551): none; answered, with the target and the retained banks; the SM stopped in
WAIT. -/
inductive Entering where
  | no
  | answered (target : Nat) (banks : List Nat)
  | waiting
deriving DecidableEq, Repr

/-- A boot, and what surrounds it (R519 to R530, R553, R651). -/
structure Boot where
  /-- PORST_N is low. -/
  porst : Bool
  /-- The supply that is out of range, coded as BODSRC, 0 none; and whether it left its range outside RUN and NAP (R563). -/
  brown : Nat
  brownLow : Bool
  /-- PERSTp_N driven low, bit p (R404, R519, R549). -/
  perst : Nat
  /-- The count at the release, while no role has issued since (R536). -/
  since : Option (BitVec 48)
  /-- The directory has been read; its images that wait for a window: entry, address and flags (R530). -/
  dirRead : Bool
  todo : List (Nat × Nat × Nat)
  /-- Roles of an exit from KEEP that wait for a CXL window (R553). -/
  resume : List Nat
  /-- The count when the house watchdog's period last began (R522, R552). -/
  hwdAt : BitVec 48
deriving DecidableEq, Repr

/-- Before the first release of PORST_N (R651). -/
def Boot.reset : Boot := ⟨true, 0, false, 3, none, false, [], [], 0⟩

/-- The TAP and the debug link (R602 to R606, R662): the instruction register, the boundary cells as updated and as captured, the last
link operation's status, address and data, and the link's own registers. -/
structure Tap where
  ir : BitVec 5
  cells : BitVec 738
  capt : BitVec 738
  status : Nat
  addr : BitVec 16
  data : Word
  errcode : Nat
  qtags : Nat
  qempty : Bool
  qunfilled : Bool
  addrl : Word
  addrh : Word
deriving DecidableEq, Repr

/-- The TAP after its reset, which selects IDCODE (R602). -/
def Tap.reset : Tap := ⟨2, 0, 0, 0, 0, 0, 0, 0, false, false, 0, 0⟩

/-- The stage manager. -/
structure Sm where
  images : List Image
  sessions : Sparse (Option Session)
  opens : Sparse (Option OpenRec)
  jobs : Sparse (Option Job)
  nextJob : Nat
  /-- State of slot set × 8 + n of sets 0 and 2 (R471): 0 FREE, 1 RUNG, 2 EXEC, 3 DONE. -/
  slotState : Sparse Nat
  /-- Bytes of the slots of sets 0 and 2, at (set × 8 + n) × 256 + offset. -/
  slotBytes : Sparse Byte
  /-- Slots of sets 0 and 2 in the order they were rung. -/
  rung : List Nat
  /-- MB_IRQEN and MB_ERR of sets 0 and 2 (R475). -/
  mbIrq : Sparse Word
  mbErr : Sparse Word
  keys : Sparse KeySlot
  lockouts : Sparse Lockout
  wear : WearPol
  /-- Overlay running: its version and rollback count (R468). -/
  overlay : Option (Word × Nat)
  overlayRefused : Bool
  /-- Time-of-day offset to the metronome in µs; unset after the loss of V3P3_AON (R518). -/
  timeOff : BitVec 64
  timeUnset : Bool
  alarm : Option (BitVec 64)
  /-- Dark restarts of each core in the current hour: their METRO times in µs (R491). -/
  darkTimes : Sparse (List Nat)
  /-- Cores that the limit of R491 keeps dark until a command restarts them. -/
  darkHeld : List Nat
  warmResets : Nat
  vid : Nat
  vidTarget : Nat
  /-- Units unlocked for debug (R513): UIB index, session, and the pause bit. -/
  unlocked : List (Nat × Nat × Bool)
  /-- CXL_CONFIG fields recorded for the next PORST_N (R507): MODE, MAXSPD, WINC, IDEEN. -/
  cxlNext : Option (Nat × Nat × Nat × Nat)
  /-- The walk-through configuration held for the next entry (R505). -/
  walkNext : Option (List Byte)
  /-- Mirror record of the good port in AON (R419); none when lost. -/
  mirrorRec : Option Nat
  /-- ROM patch units fused (PATCH_PROGRAM): address and word. -/
  patches : Sparse (Option (Word × Word))
  ovlRollback : Nat
  debugDis : Bool
  /-- The 64 words of the owner fuse region (R534), and the image of them in force since boot step 2. -/
  ownerFuse : Sparse Word
  ownerRead : Sparse Word
  /-- Field fuse records: type and body (R380). -/
  records : List (Nat × Nat)
  /-- Migrations that are due. -/
  due : List Due
  /-- Times of the faults of each physical core in µs of the time of day (R365). -/
  faultTimes : Sparse (List Nat)
  /-- The last 16 readings of each slack meter, in ps (R364). -/
  slackRd : Sparse (List Nat)
  /-- Physical cores whose retirement awaits approval (R366), and SLOW at a decline. -/
  pendingRet : List Nat
  declined : Sparse (Option Nat)
  /-- The SM's own power table (R635): settings by domain, and by 128 + physical player slot. -/
  powTable : Sparse Nat
  /-- Physical player slots whose gate has been asked to go ON. -/
  gateReq : List Nat
  cmdWait : Option CmdWait
  entering : Entering
  /-- A wake latched during entry (R550), and an exit that is due. -/
  wakeLatch : Option (Nat × Nat)
  wakeDue : Bool
  /-- Roles started when the house left RUN, and the registers recorded for the exit from KEEP (R553). -/
  keepRoles : List Nat
  keepRegs : List (Nat × Word)
  /-- Registers that commands have set. -/
  regWritten : List Nat
  /-- Claims: kind, item and CID (R588). -/
  claims : List (Nat × Nat × Nat)
  /-- Bytes that the host port last shifted out (R474). -/
  spiOut : List Byte
deriving DecidableEq, Repr

/-- The stage manager after reset, in a part whose fuses are blank (log 7): default policy of R366; VID code 30 (R52). -/
def Sm.reset : Sm where
  images := []
  sessions := []
  opens := []
  jobs := []
  nextJob := 1
  slotState := []
  slotBytes := []
  rung := []
  mbIrq := []
  mbErr := []
  keys := []
  lockouts := []
  wear := ⟨120, 3, 30, false⟩
  overlay := none
  overlayRefused := false
  timeOff := 0
  timeUnset := true
  alarm := none
  darkTimes := []
  darkHeld := []
  warmResets := 0
  vid := 30
  vidTarget := 30
  unlocked := []
  cxlNext := none
  walkNext := none
  mirrorRec := none
  patches := []
  ovlRollback := 0
  debugDis := false
  ownerFuse := []
  ownerRead := []
  records := []
  due := []
  faultTimes := []
  slackRd := []
  pendingRet := []
  declined := []
  powTable := []
  gateReq := []
  cmdWait := none
  entering := .no
  wakeLatch := none
  wakeDue := false
  keepRoles := []
  keepRegs := []
  regWritten := []
  claims := []
  spiOut := []

end Sys2Proof.Machine
end

