-- ==== Sys2Proof/Machine/State.lean ====
section
/-! DEFINITION. The machine state: every piece of state the manual gives the part, as plain data, and the state after reset. -/

namespace Sys2Proof.Machine

/-- The reasons the model stops with a fault: none. Every error of the part is a response, a vector, a status or a record, which
the part goes on from (00_scope.md, Wording: no behaviour of the part is left undefined). -/
inductive Fault : Type
deriving DecidableEq, Repr

/-- The reasons the model refuses a command. -/
inductive Refusal where
  /-- Raised by an arm of `exec` whose command has no meaning yet; safe: nothing is said of the command. -/
  | notModelled (mnemonic : String)
deriving DecidableEq, Repr

/-- The state of the part, and the queue of waiting commands. -/
structure State where
  /-- Waiting commands, first in first out (log 1). -/
  pending : List Instr
  /-- Number of the next free value (log 8): the model's own field. -/
  freeNext : Nat
  /-- Bytes of SRAM, prompt books and CXL windows by address (R242). -/
  mem : List Host.Cell
  /-- Granule tags by address / 16 (R233). -/
  tags : Sparse Bool
  /-- Granules whose three tag copies disagree (R385). -/
  tagBad : Sparse Bool
  /-- Codeword error state by address / 8 (R384). -/
  cw : Sparse Cw
  /-- Corrected words waiting for their rewrite (R389). -/
  fixQ : List Nat
  /-- The words of the device region by address. -/
  regs : Sparse Word
  /-- Roles by role number (R19). -/
  roles : Sparse Role
  /-- Scene storage by role number. -/
  scenes : Sparse Scene
  /-- Cores by core number. -/
  cores : Sparse Core
  /-- Staged entries by curtain area (R337). -/
  staging : Sparse (List Staged)
  /-- Queues by queue number (R303). -/
  queues : Sparse Queue
  /-- Crossbar latches: hardware event ids in the order of R274, then roles, then the SM's 8 (R275). -/
  latches : Sparse Latch
  /-- Records in the call-sheet writers' buffers, by company (R296). -/
  writers : Sparse (List CsRec)
  /-- Overflow accounts by ring: role × 12 + level − 1 (R295). -/
  ovf : Sparse Ovf
  /-- Lead cache lines (R209). -/
  caches : List CLine
  /-- Event crossings by hardware event id (R580). -/
  xev : Sparse Xev
  /-- Actions started at consumer inputs, by consumer id (R281). -/
  cin : Sparse (Option CinAct)
  /-- Fires that reached a UIB's cue input and have not acted yet: their hop counts, by UIB index (R37). -/
  uibIn : Sparse (List (BitVec 4))
  /-- The SM's event log (R517). -/
  log : Log
  /-- The trace port (R622). -/
  trace : Trace
  /-- The CXL controller (R402 to R424). -/
  cxl : CxlSt
  /-- Failed writes of the compressors that their close engines have not acted on: compressor, ring and line (R449). -/
  hcFail : List (Nat × Nat × Nat)
  /-- The historian compressors (R425). -/
  hc : Sparse Hc
  /-- Writes held for stopped clocks, by clock domain (R583). -/
  heldW : Sparse (Option HeldWrite)
  /-- Serial channels (R591). -/
  ser : Sparse SerCh
  /-- Pulse units (R597). -/
  pulse : Sparse PulseU
  /-- ADCs (R598). -/
  adc : Sparse AdcSt
  /-- The pad latch by pad (R524). -/
  padLatch : Sparse PadShow
  /-- Banks whose VIO supply is absent (R649). -/
  vioOff : BitVec 4
  /-- The scrubber's pass (R391). -/
  scrub : Scrub
  /-- The stage manager (R465). -/
  sm : Sm
  /-- Boot and reset (R519 to R530). -/
  boot : Boot
  /-- The TAP and the debug link (R602 to R606). -/
  tap : Tap
  /-- The metronome count (R59). -/
  metro : BitVec 48
  /-- Crystal, REFCLK and the metronome's correction (R59 to R63). -/
  time : TimeBase
deriving DecidableEq, Repr

namespace State

/-- The state after reset: every field at the value the manual gives (R13), and the values of log 6 and log 7 where it gives none. -/
def reset : State where
  pending := []
  freeNext := 0
  mem := []
  tags := []
  tagBad := []
  cw := []
  fixQ := []
  regs := []
  roles := []
  scenes := []
  cores := []
  staging := []
  queues := []
  latches := []
  writers := []
  ovf := []
  caches := []
  xev := []
  cin := []
  uibIn := []
  log := ⟨0, []⟩
  cxl := CxlSt.reset
  hcFail := []
  hc := []
  heldW := []
  ser := []
  pulse := []
  adc := []
  padLatch := []
  vioOff := 0
  scrub := ⟨0, []⟩
  sm := Sm.reset
  boot := Boot.reset
  tap := Tap.reset
  trace := Trace.reset
  metro := 0
  time := ⟨true, true, 0, 0⟩

end State

end Sys2Proof.Machine
end

