-- ==== Sys2Proof/Machine/Access.lean ====
section
/-! DEFINITION. Reading and writing the state's parts: roles, G registers, tickets, scenes, queues, registers of the device region,
and the numbering of roles, cores, companies and troupes (R17 to R21). Every other file goes through these. -/

namespace Sys2Proof.Machine

/-- True for the roles of leads (R19). -/
def isLead (r : Nat) : Bool := 512 ≤ r
/-- Core number of a role: the player's logical number (R17), 128 + c for lead c.L. -/
def coreOf (r : Nat) : Nat := if r < 512 then r / 4 else 128 + (r - 512) / 2
/-- Number of a role within its core. -/
def roleIn (r : Nat) : Nat := if r < 512 then r % 4 else (r - 512) % 2
/-- Company of a role (R17, R20). -/
def companyOf (r : Nat) : Nat := if r < 512 then r / 64 else (r - 512) / 2
/-- Troupe number c × 4 + t of a player role. -/
def troupeOf (r : Nat) : Nat := r / 16
/-- Number k × 4 + r of a player role in its troupe. -/
def troupeIx (r : Nat) : Nat := r % 16
/-- Company role index of R299. -/
def companyIx (r : Nat) : Nat := if r < 512 then r % 64 else 64 + (r - 512) % 2
/-- Roles of a core. -/
def rolesOf (core : Nat) : List Nat :=
  if core < 128 then [core * 4, core * 4 + 1, core * 4 + 2, core * 4 + 3]
  else [512 + (core - 128) * 2, 513 + (core - 128) * 2]
/-- UIB index of a core (R21). -/
def uibOfCore (core : Nat) : Nat := if core < 128 then 64 + core else 192 + (core - 128)
/-- UIB index of a role's core. -/
def uibOf (r : Nat) : Nat := uibOfCore (coreOf r)
/-- Base of the home slice of a role's core (R245). -/
def homeBase (r : Nat) : Nat :=
  if r < 512 then r / 16 * 0x20000 + r / 4 % 4 * 0x4000 else 0x1000000 + (r - 512) / 2 * 0x400000 + 0x2FC000
/-- Base of a player role's scene record (R325). -/
def recordBase (r : Nat) : Nat := 0x4000000 + r / 4 * 0x2000 + r % 4 * 0x800

namespace Role

/-- G register n (R68): G0 reads zero. -/
def greg (x : Role) (n : Nat) : Word := if n % 32 = 0 then 0 else Sparse.get (fun _ => 0) x.g (n % 32)
/-- A write of G register n: a write to G0 is discarded (R68). -/
def setG (x : Role) (n : Nat) (v : Word) : Role :=
  if n % 32 = 0 then x else { x with g := Sparse.put (fun _ => 0) x.g (n % 32) v }
/-- Ticket register Tn (R82). -/
def tick (x : Role) (n : Nat) : Ticket := Sparse.get (fun _ => Ticket.null) x.t (n % 8)
/-- A write of ticket register Tn. -/
def setT (x : Role) (n : Nat) (v : Ticket) : Role :=
  { x with t := Sparse.put (fun _ => Ticket.null) x.t (n % 8) v }
/-- RP: the level at the top of the priority stack, 0 when it is empty (R77, R253). -/
def rp (x : Role) : Nat :=
  match x.stack with
  | [] => 0
  | l :: _ => l.level.toNat
/-- RPD: entries on the priority stack. -/
def rpd (x : Role) : Nat := x.stack.length
/-- Flags and modes of ST (R73). -/
def fC (x : Role) : Bool := bit x.st 0
def fZ (x : Role) : Bool := bit x.st 1
def fN (x : Role) : Bool := bit x.st 2
def fV (x : Role) : Bool := bit x.st 3
def fH (x : Role) : Bool := bit x.st 4
def fD (x : Role) : Bool := bit x.st 5
def ra (x : Role) : Bool := bit x.st 8
def sc (x : Role) : Bool := bit x.st 9
def dt (x : Role) : Bool := bit x.st 10
def qp (x : Role) : Bool := bit x.st 11

end Role

namespace State

/-- Role r. -/
def role (s : State) (r : Nat) : Role := Sparse.get (fun _ => Role.reset) s.roles r
/-- The state with role r replaced. -/
def setRole (s : State) (r : Nat) (x : Role) : State :=
  { s with roles := Sparse.put (fun _ => Role.reset) s.roles r x }
/-- The state with role r changed. -/
def modRole (s : State) (r : Nat) (f : Role → Role) : State := s.setRole r (f (s.role r))
/-- Scene storage of player role r. -/
def scene (s : State) (r : Nat) : Scene := Sparse.get (fun _ => Scene.reset) s.scenes r
/-- The state with role r's scene storage replaced. -/
def setScene (s : State) (r : Nat) (x : Scene) : State :=
  { s with scenes := Sparse.put (fun _ => Scene.reset) s.scenes r x }
/-- Core n. -/
def core (s : State) (n : Nat) : Core := Sparse.get (fun _ => Core.reset) s.cores n
/-- The state with core n replaced. -/
def setCore (s : State) (n : Nat) (x : Core) : State :=
  { s with cores := Sparse.put (fun _ => Core.reset) s.cores n x }
/-- Queue q. -/
def queue (s : State) (q : Nat) : Queue := Sparse.get (fun _ => Queue.reset) s.queues q
/-- The state with queue q replaced. -/
def setQueue (s : State) (q : Nat) (x : Queue) : State :=
  { s with queues := Sparse.put (fun _ => Queue.reset) s.queues q x }
/-- Crossbar latch i. -/
def latch (s : State) (i : Nat) : Latch := Sparse.get (fun _ => Latch.reset) s.latches i
/-- The state with latch i replaced. -/
def setLatch (s : State) (i : Nat) (x : Latch) : State :=
  { s with latches := Sparse.put (fun _ => Latch.reset) s.latches i x }
/-- Staged entries of a curtain area. -/
def staged (s : State) (a : Nat) : List Staged := Sparse.get (fun _ => []) s.staging a
/-- The state with an area's staged entries replaced. -/
def setStaged (s : State) (a : Nat) (x : List Staged) : State :=
  { s with staging := Sparse.put (fun _ => []) s.staging a x }
/-- Buffer of a company's call-sheet writer. -/
def writer (s : State) (c : Nat) : List CsRec := Sparse.get (fun _ => []) s.writers c
/-- Overflow account of a ring. -/
def ovfOf (s : State) (k : Nat) : Ovf := Sparse.get (fun _ => Ovf.reset) s.ovf k
/-- The state with a ring's overflow account replaced. -/
def setOvf (s : State) (k : Nat) (x : Ovf) : State :=
  { s with ovf := Sparse.put (fun _ => Ovf.reset) s.ovf k x }
/-- Event crossing of a hardware event id. -/
def xevOf (s : State) (e : Nat) : Xev := Sparse.get (fun _ => Xev.reset) s.xev e
/-- The state with an event crossing replaced. -/
def setXev (s : State) (e : Nat) (x : Xev) : State := { s with xev := Sparse.put (fun _ => Xev.reset) s.xev e x }
/-- The action started at a consumer input. -/
def cinOf (s : State) (k : Nat) : Option CinAct := Sparse.get (fun _ => none) s.cin k
/-- The state with a consumer input's action replaced. -/
def setCin (s : State) (k : Nat) (x : Option CinAct) : State := { s with cin := Sparse.put (fun _ => none) s.cin k x }
/-- Hop counts of the fires waiting at a UIB's cue input. -/
def uibInOf (s : State) (u : Nat) : List (BitVec 4) := Sparse.get (fun _ => []) s.uibIn u
/-- The state with the fires waiting at a UIB's cue input replaced. -/
def setUibIn (s : State) (u : Nat) (x : List (BitVec 4)) : State :=
  { s with uibIn := Sparse.put (fun _ => []) s.uibIn u x }
/-- The state with the buffer of a company's writer replaced. -/
def setWriter (s : State) (c : Nat) (x : List CsRec) : State :=
  { s with writers := Sparse.put (fun _ => []) s.writers c x }
/-- The next free value (log 8), and the state that has used it. -/
def fresh (s : State) : State × BitVec 256 := ({ s with freeNext := s.freeNext + 1 }, Config.freeValue s.freeNext)
/-- The word of the device region at an address. -/
def reg (s : State) (a : Nat) : Word := Sparse.get regReset s.regs a
/-- The state with the word of the device region at an address replaced. -/
def setReg (s : State) (a : Nat) (v : Word) : State := { s with regs := Sparse.put regReset s.regs a v }
/-- Bits [hi:lo] of the word of the device region at an address. -/
def field (s : State) (a hi lo : Nat) : Nat := bits (s.reg a) hi lo
/-- The state with bits [hi:lo] of a word of the device region replaced. -/
def setField (s : State) (a hi lo v : Nat) : State := s.setReg a (setBits (s.reg a) hi lo v)
/-- Bit n of a word of the device region. -/
def flag (s : State) (a n : Nat) : Bool := bit (s.reg a) n
/-- The state with bit n of a word of the device region replaced. -/
def setFlag (s : State) (a n : Nat) (b : Bool) : State := s.setReg a (setBit (s.reg a) n b)
/-- A saturating count of bits [hi:lo] of a word of the device region, increased by one. -/
def incField (s : State) (a hi lo : Nat) : State :=
  s.setField a hi lo (satInc (s.field a hi lo) (2 ^ (hi + 1 - lo) - 1))

end State

/-- METRO [31:0] (R61). -/
def metroLo (s : State) : Word := s.metro.setWidth 32

end Sys2Proof.Machine
end

