-- ==== Sys2Proof/Machine/Map.lean ====
section
/-! DEFINITION. The physical map (R242 to R247), the power domains (R539) and what is powered (R541). -/

namespace Sys2Proof.Machine

/-- What an address names before power, decoders and windows are looked at (R242 to R246). -/
inductive Region where
  | absent
  /-- Troupe-local, company or house SRAM. -/
  | sram
  /-- The prompt-book window of logical core L. -/
  | book (core : Nat)
  /-- CXL window 0, 1 or 2 (A, B, C). -/
  | cxl (w : Nat)
  | uib (i : Nat)
  | block (i : Nat)
  /-- QDATA of a queue; the other words of its port are device registers (R324). -/
  | port (q : Nat)
  | cueFire (ch : Nat)
deriving DecidableEq, Repr

/-- The region of an address. -/
def regionOf (a : Nat) : Region :=
  if a < 0x400000 then .sram
  else if a < 0x1000000 then .absent
  else if a < 0x3000000 then if (a - 0x1000000) % 0x400000 < 0x300000 then .sram else .absent
  else if a < 0x3400000 then .sram
  else if a < 0x4000000 then .absent
  else if a < 0x4100000 then .book ((a - 0x4000000) / 0x2000)
  else if a < 0x10000000 then .absent
  else if a < 0x10004000 then
    if uibPresent ((a - 0x10000000) / 0x40) then .uib ((a - 0x10000000) / 0x40) else .absent
  else if a < 0x10100000 then .absent
  else if a < 0x11100000 then
    let i := (a - 0x10100000) / 0x10000
    let off := a % 0x10000
    if 0x8000 ≤ off && off < 0x8000 + blockQueues i * 0x40 then
      if off % 0x40 < 4 then .port (queueOf i ((off - 0x8000) / 0x40)) else .block i
    else if i = 246 && 0x8000 ≤ off && off < 0x9000 then .cueFire ((off - 0x8000) / 4)
    else if off < blockLen i then .block i
    else .absent
  else if a < 0x10000000000 then .absent
  else if a < 0x40000000000 then .cxl (a / 0x10000000000 - 1)
  else .absent

/-- True for on-chip SRAM and the prompt books: every array but a CXL window. -/
def onChip (a : Nat) : Bool :=
  match regionOf a with
  | .sram | .book _ => true
  | _ => false

/-- True for UIB words and register-block words (R132 check 3). -/
def isDevice (a : Nat) : Bool :=
  match regionOf a with
  | .uib _ | .block _ => true
  | _ => false

/-- True for queue ports and cue-fire words (R132 check 2). -/
def isPort (a : Nat) : Bool :=
  match regionOf a with
  | .port _ | .cueFire _ => true
  | _ => false

/-- True for the prompt-book window (R236). -/
def isBook (a : Nat) : Bool :=
  match regionOf a with
  | .book _ => true
  | _ => false

/-- Number of the SRAM bank of R378 and R394 that holds an address. -/
def bankOf (a : Nat) : Nat :=
  if a < 0x400000 then a / 0x20000
  else if a < 0x3000000 then 32 + (a - 0x1000000) / 0x400000 * 12 + (a - 0x1000000) % 0x400000 / 0x40000
  else 128 + (a - 0x3000000) / 0x40000

/-- Power domain of a queue (R539). -/
def queueDomain (q : Nat) : Nat := if q < 256 then q / 8 else if q < 320 then 32 + (q - 256) / 8 else 51

/-- Power domain of a word of a register block; none where the block's registers are never switched (R539). -/
def blockDomain (i off : Nat) : Option Nat :=
  if i = 0 then some 51
  else if i ≤ 8 then some (32 + (i - 1))
  else if i ≤ 47 then some (i - 16)
  else if i = 242 then some 52
  else if i = 243 then some 54
  else if i = 244 then some 57
  else if i = 245 then some 58
  else if i = 246 then some 51
  else if i = 247 then some 53
  else if i = 248 then
    if off < 0x1000 then some 59
    else if off < 0x1900 then some 60
    else if off < 0x2200 then some 61
    else if off < 0x3400 then some 59
    else some 62
  else if 0x100 ≤ off && off < 0x110 || 0x400 ≤ off && off < 0xC00 then some 65
  else none

/-- Power domain of an address; none where it is never switched. -/
def domainOf (a : Nat) : Option Nat :=
  match regionOf a with
  | .sram => if a < 0x400000 then some (a / 0x20000) else if a < 0x3000000 then some (32 + (a - 0x1000000) / 0x400000) else some 50
  | .book l => some (l / 4)
  | .cxl _ => some 54
  | .uib _ => some 51
  | .block i => blockDomain i (a % 0x10000)
  | .port q => some (queueDomain q)
  | .cueFire _ => some 51
  | .absent => none

/-- Clock domain of a word of the device region (R577); none for a clockless register. -/
def clockDom (a : Nat) : Option Nat :=
  match regionOf a with
  | .block i =>
    let off := a % 0x10000
    if i = 249 then some 1
    else if i = 243 then some 5
    else if i = 244 then some 40
    else if i = 245 then some 41
    else if i = 247 then some 42
    else if i = 248 then
      if off < 0x1000 then some 2
      else if off < 0x2200 then some (15 + (off - 0x1000) / 0x100)
      else if off < 0x3000 then none
      else if off < 0x3200 then some (43 + (off - 0x3000) / 0x40)
      else if 0x3400 ≤ off && off < 0x3500 then some (33 + (off - 0x3400) / 0x40)
      else some 2
    else none
  | _ => none

/-- True where the clock of a word of the device region runs (XC_STAT.RUN, R583). -/
def clockOn (s : State) (a : Nat) : Bool :=
  match clockDom a with
  | some d => s.flag (Adr.xcStat d) 0
  | none => true

/-- Setting of a power domain (R541): 0 ON, 1 RETAIN, 2 OFF, 3 BANKS. -/
def domSetting (s : State) (d : Nat) : Nat :=
  s.field (Adr.domainState (d / 16)) (2 * (d % 16) + 1) (2 * (d % 16))

/-- True where a domain is ON. -/
def domOn (s : State) (d : Nat) : Bool := domSetting s d == 0

/-- The state with a domain's setting in force replaced. -/
def setDomState (s : State) (d v : Nat) : State :=
  s.setField (Adr.domainState (d / 16)) (2 * (d % 16) + 1) (2 * (d % 16)) v

/-- The state with a domain's requested setting replaced. -/
def setDomSet (s : State) (d v : Nat) : State :=
  s.setField (Adr.domainSet (d / 16)) (2 * (d % 16) + 1) (2 * (d % 16)) v

/-- Physical slot that carries logical core L (TMAP): 0 to 3 a home core, 4 the understudy, 7 no carrier (R18, R371). -/
def carrier (s : State) (l : Nat) : Nat := s.field (Adr.tmap (l / 4)) (4 * (l % 4) + 2) (4 * (l % 4))

/-- Setting of the gate of a physical slot p of troupe t (R540). -/
def gateSetting (s : State) (t p : Nat) : Nat := s.field (Adr.coreGate t) (2 * p + 1) (2 * p)

/-- Setting of the domain or gate of a core: a player's gate or its troupe's domain when that is not ON; a lead's domain, home or
spare (R540, R372). -/
def coreSetting (s : State) (core : Nat) : Nat :=
  if core < 128 then
    if !domOn s (core / 4) then domSetting s (core / 4)
    else if carrier s core = 7 then 2
    else gateSetting s (core / 4) (carrier s core)
  else
    let c := core - 128
    match s.field Adr.lmap (2 * c + 1) (2 * c) with
    | 0 => domSetting s (40 + c)
    | 1 => domSetting s 48
    | 2 => domSetting s 49
    | _ => 2

/-- True where a core is powered. -/
def coreOn (s : State) (core : Nat) : Bool := coreSetting s core == 0

/-- True where the domain of an address is ON (R542). -/
def powered (s : State) (a : Nat) : Bool :=
  match domainOf a with
  | none => true
  | some d => domOn s d

/-- UIB that owns the memory at an on-chip address (R401). -/
def ownerUib (a : Nat) : Nat :=
  match regionOf a with
  | .book l => 64 + l
  | _ => if a < 0x400000 then 16 + a / 0x20000 else if a < 0x3000000 then 1 + (a - 0x1000000) / 0x400000 else 250

/-- The SM's power table at reset (R568): spare leads and understudies OFF. -/
def powDefault (k : Nat) : Nat := if k = 48 || k = 49 || (128 ≤ k && (k - 128) % 5 = 4) then 2 else 0
/-- Setting that the SM's power table holds (R635) for a domain, or for 128 + a physical player slot. -/
def powTab (s : State) (k : Nat) : Nat := Sparse.get powDefault s.sm.powTable k
/-- The SM's power table with a setting replaced. -/
def setPowTab (s : State) (k v : Nat) : State :=
  { s with sm := { s.sm with powTable := Sparse.put powDefault s.sm.powTable k v } }

/-- The gate of a physical slot p of troupe t set, in the power controller and in the SM's table. -/
def setGate (s : State) (t p v : Nat) : State := setPowTab (s.setField (Adr.coreGate t) (2 * p + 1) (2 * p) v) (128 + t * 5 + p) v

end Sys2Proof.Machine
end

