-- ==== Sys2Proof/Machine/Faults.lean ====
section
/-! DEFINITION. The nesting of units and their fault reports (R21, R32 to R34, R41, R42), and the saturating counts of memory errors
(R394). -/

namespace Sys2Proof.Machine

/-- A unit and every unit above it, by UIB index (R21, R41). -/
def uibChain (u : Nat) : List Nat :=
  if u = 0 then [0]
  else if u ≤ 8 then [u, 0]
  else if u ≤ 47 then [u, 1 + (u - 16) / 4, 0]
  else if u ≤ 191 then [u, 16 + (u - 64) / 4, 1 + (u - 64) / 16, 0]
  else if u ≤ 199 then [u, 1 + (u - 192), 0]
  else if u ≤ 239 then [u, 16 + (u - 208), 1 + (u - 208) / 4, 0]
  else [u, 0]

/-- A unit and every unit beneath it. -/
def uibBeneath (u : Nat) : List Nat := (List.range 251).filter (fun v => uibPresent v && (uibChain v).contains u)

/-- Logical player cores at or beneath a unit. -/
def playersOf (u : Nat) : List Nat := (List.range 128).filter (fun l => (uibChain (64 + l)).contains u)

/-- Cores at or beneath a unit: logical players, and leads as 128 + c. -/
def coresBeneath (u : Nat) : List Nat :=
  playersOf u ++ ((List.range 8).filter (fun c => (uibChain (192 + c)).contains u)).map (128 + ·)

/-- One level's count and first fault record of a fault that arose at unit u (R32, R33). -/
def recordFault (u b code role : Nat) (addr : Option Nat) (s : State) (v : Nat) : State :=
  let s := s.incField (Adr.uibFault v) 31 16
  if s.flag (Adr.uibFrecInfo v) 0 then s
  else
    let info := 1 + b * 2 ^ 4 + u * 2 ^ 8 + code % 256 * 2 ^ 16 + role % 4 * 2 ^ 24 + (if addr.isSome then 2 ^ 26 else 0)
    ((s.setReg (Adr.uibFrecInfo v) (BitVec.ofNat 32 info)).setReg (Adr.uibFrecAddrl v)
      (BitVec.ofNat 32 (addr.getD 0))).setReg (Adr.uibFrecAddrh v) (BitVec.ofNat 32 (addr.getD 0 / 2 ^ 32 % 2 ^ 16))

/-- A fault event at unit u: its summary bit there, the count and the first record there and at every level above (R32 to R34).
The bit shows above as the OR of R41. -/
def raiseFault (s : State) (u b code role : Nat) (addr : Option Nat) : State :=
  (uibChain u).foldl (recordFault u b code role addr) (s.setFlag (Adr.uibFault u) b true)

/-- UIB of a core charged with a fault, with the role within it. -/
def raiseRoleFault (s : State) (r b code : Nat) (addr : Option Nat) : State :=
  raiseFault s (uibOf r) b code (roleIn r) addr

/-- UIB_FAULT bits as a unit shows them: its own and those of every unit beneath (R41). -/
def faultBits (s : State) (u : Nat) : Word :=
  (uibBeneath u).foldl (fun acc v => acc ||| (s.reg (Adr.uibFault v) &&& 0x0FFF)) 0

/-- Clear summary bits at a unit and every unit beneath it (R42). -/
def clearFaultBits (s : State) (u : Nat) (m : Word) : State :=
  (uibBeneath u).foldl (fun s v => s.setReg (Adr.uibFault v) (s.reg (Adr.uibFault v) &&& ~~~(m &&& 0x0FFF))) s

/-- A count in MEC[n] and the last event there; BITS2 is that of the last correction (R394). -/
def countMec (s : State) (n word : Nat) (unc bits2 : Bool) : State :=
  let s := if unc then s.incField (Adr.mecCnt n) 23 16 else s.incField (Adr.mecCnt n) 15 0
  let bits2 := if unc then s.flag (Adr.mecLast n) 17 else bits2
  s.setReg (Adr.mecLast n) (BitVec.ofNat 32 (word % 2 ^ 16 + (if unc then 2 ^ 16 else 0) + (if bits2 then 2 ^ 17 else 0) + 2 ^ 18))

/-- MEC index of an on-chip address (R394). -/
def mecIndex (a : Nat) : Nat :=
  match regionOf a with
  | .book l => 144 + l / 4
  | _ => bankOf a

/-- Word index of an on-chip address within its array (R394); a prompt book lies at its physical slot. -/
def mecWord (s : State) (a : Nat) : Nat :=
  match regionOf a with
  | .book l => 1024 * carrier s l + a % 0x2000 / 8
  | _ => if a < 0x400000 then a % 0x20000 / 8 else a % 0x40000 / 8

end Sys2Proof.Machine
end

