-- ==== Sys2Proof/Machine/Sheets.lean ====
section
/-! DEFINITION. Call-sheet records up to the writer's buffer: lost records (R295, R296), the SM's notices and its event log (R492, R517),
the presented level (R297), and trace packets (R622 to R624). Writing a record to its ring needs memory and stands in Machine/Rings. -/

namespace Sys2Proof.Machine

/-- Base of the ring of a role and level (R299). -/
def ringBase (s : State) (r l : Nat) : Nat :=
  let u := companyOf r
  (s.reg (Adr.csBasel u (companyIx r) (l - 1))).toNat / 16 * 16 + s.field (Adr.csCfg u (companyIx r) (l - 1)) 15 0 * 2 ^ 32
/-- SIZE of a ring. -/
def ringSize (s : State) (r l : Nat) : Nat := s.field (Adr.csCfg (companyOf r) (companyIx r) (l - 1)) 19 16
/-- EN of a ring. -/
def ringEn (s : State) (r l : Nat) : Bool := s.flag (Adr.csCfg (companyOf r) (companyIx r) (l - 1)) 20
/-- PROD of a ring. -/
def ringProd (s : State) (r l : Nat) : Nat := s.field (Adr.csProd (companyOf r) (companyIx r) (l - 1)) 15 0
/-- CONS of a ring. -/
def ringCons (s : State) (r l : Nat) : Nat := s.field (Adr.csCons (companyOf r) (companyIx r) (l - 1)) 15 0
/-- Address of the CS_STAT of a ring. -/
def ringStatAdr (r l : Nat) : Nat := Adr.csStat (companyOf r) (companyIx r) (l - 1)
/-- Records in a ring (R292). -/
def ringFill (s : State) (r l : Nat) : Nat := (ringProd s r l + 2 ^ 16 - ringCons s r l) % 2 ^ 16
/-- True for a full ring (R292). -/
def ringFull (s : State) (r l : Nat) : Bool := ringFill s r l == 2 ^ ringSize s r l
/-- Number of a ring's overflow account. -/
def ringKey (r l : Nat) : Nat := r * 12 + (l - 1)

/-- A record lost at its ring (R295): counted, and owed an OVERFLOW record where the ring was full. -/
def loseRecord (s : State) (r l : Nat) (src : BitVec 16) (time : Word) (owe : Bool) : State :=
  let s := s.incField (ringStatAdr r l) 15 0
  if !owe then s
  else
    let o := s.ovfOf (ringKey r l)
    let o := if s.flag (ringStatAdr r l) 16 then { o with lost := BitVec.ofNat 16 (satInc o.lost.toNat 0xFFFF) }
      else ⟨1, src, time⟩
    (s.setOvf (ringKey r l) o).setFlag (ringStatAdr r l) 16 true

/-- A record reaches its company's writer (R296). A record that finds 64 waiting is lost. -/
def postRecord (s : State) (x : CsRec) : State :=
  let c := companyOf x.role
  let buf := s.writer c
  if buf.length < 64 then
    let s := s.setWriter c (buf ++ [x])
    s.setField (Adr.cswStat c) 14 8 (max (s.field (Adr.cswStat c) 14 8) (buf.length + 1))
  else
    loseRecord (s.incField (Adr.cswStat c) 31 16) x.role x.level x.source x.time
      (ringEn s x.role x.level && powered s (ringBase s x.role x.level))

/-- An entry of the SM's event log: 1,024 are held (R517). -/
def logRecord (s : State) (x : CsRec) : State :=
  { s with log := ⟨s.log.next + 1, (if s.log.recs.length < 1024 then s.log.recs else s.log.recs.drop 1) ++ [x]⟩ }

/-- Little-endian bytes of a number. -/
def leBytes : Nat → Nat → List Byte
  | 0, _ => []
  | n + 1, v => BitVec.ofNat 8 v :: leBytes n (v / 256)

/-- Number of a little-endian byte list. -/
def leNat : List Byte → Nat
  | [] => 0
  | b :: l => b.toNat + 256 * leNat l

/-- A NOTICE record (kind 0x5) of a code and bytes 9 to 15 (R291). -/
def noticeRec (s : State) (role level src code : Nat) (payload : List Byte) : CsRec :=
  ⟨role, level, BitVec.ofNat 16 src, 5, 0, false, false, metroLo s,
    ((BitVec.ofNat 8 code :: payload) ++ List.replicate 7 0).take 8⟩

/-- A NOTICE to a role's ring, held in the log (R492, R517). -/
def noticeTo (s : State) (role level src code : Nat) (payload : List Byte) : State :=
  let x := noticeRec s role level src code payload
  postRecord (logRecord s x) x

/-- A NOTICE to the house notice role of SM_NOTE; while its EN is 0 it is entered in the log only (R492). -/
def notice (s : State) (src code : Nat) (payload : List Byte) : State :=
  let w := s.reg Adr.smNote
  let x := noticeRec s (bits w 9 0) (bits w 15 12) src code payload
  if bit w 16 then postRecord (logRecord s x) x else logRecord s x

/-- True while a CS_CONS store of the role to a level is outstanding: none of that level's records is recognised (R294). -/
def consPending (s : State) (r l : Nat) : Bool :=
  (s.role r).posted.any (fun p => p.parts.any (fun q => q.1 == Adr.csCons (companyOf r) (companyIx r) (l - 1)))

/-- The level the writer presents to a role: the highest whose ring is not empty (R297), 0 for none. -/
def presented (s : State) (r : Nat) : Nat :=
  (List.range 12).foldl (fun best i => if ringFill s r (i + 1) ≠ 0 && !consPending s r (i + 1) then i + 1 else best) 0

/-- A packet reaches the trace port's FIFO of 256 packets (R624). The kind bit is that of TR_CTL. -/
def traceRaw (s : State) (kindBit : Nat) (p : DWord) : State :=
  if !(s.flag Adr.trCtl 0 && s.flag Adr.trCtl kindBit) then s
  else if s.trace.fifo.length < 256 then { s with trace := { s.trace with fifo := s.trace.fifo ++ [p] } }
  else { s.incField Adr.trStat 15 0 with trace := { s.trace with owed := s.trace.owed + 1 } }

/-- A packet of a type and source, with METRO [15:0] and bits 63:30 (R623). -/
def packet (s : State) (type src hi : Nat) : DWord :=
  BitVec.ofNat 64 (type + src % 1024 * 2 ^ 4 + s.metro.toNat % 2 ^ 16 * 2 ^ 14 + hi % 2 ^ 34 * 2 ^ 30)

/-- A trace packet of a role: its company must be selected in TR_CTL.COMP. -/
def traceRole (s : State) (kindBit type r hi : Nat) : State :=
  if s.flag Adr.trCtl (8 + companyOf r) then traceRaw s kindBit (packet s type r hi) else s

end Sys2Proof.Machine
end

