-- ==== Sys2Proof/Machine/Coding.lean ====
section
/-! DEFINITION. Pure coding shared by several units: packed digits (R112, R115, R118), CRC-32C and rounding (R219, R220), and the records and
blocks of the historian compressors (R440 to R447). -/

namespace Sys2Proof.Machine

/-! ### Digits, CRC and rounding -/

/-- Digit i of a packed-decimal number (R112). -/
def digit (v i : Nat) : Nat := v / 16 ^ i % 16

/-- The lowest-numbered invalid digit of the low n digits (R115). -/
def badDigit (v n : Nat) : Option Nat := (List.range n).find? (fun i => decide (9 < digit v i))

/-- The n packed digits of a number. -/
def toDigits (n v : Nat) : Nat := (List.range n).foldl (fun acc i => acc + v / 10 ^ i % 10 * 16 ^ i) 0

/-- The value of n packed digits, invalid ones at their binary value (R118). -/
def ofDigits (n v : Nat) : Nat := (List.range n).foldl (fun acc i => acc * 10 + digit v (n - 1 - i)) 0

/-- One byte of CRC-32C with the reflected polynomial 0x82F63B78 (R219). -/
def crcByte (c : Word) (b : Byte) : Word :=
  (List.range 8).foldl (fun c _ => if bit c 0 then (c >>> 1) ^^^ 0x82F63B78 else c >>> 1) (c ^^^ b.setWidth 32)

/-- CRC-32C of bytes from a starting register. -/
def crc32c (c : Word) (l : List Byte) : Word := l.foldl crcByte c

/-- Division rounded to the nearest, halves away from zero (R220). -/
def roundDiv (n : Int) (d : Nat) : Int :=
  let q : Int := ((2 * n.natAbs + d) / (2 * d) : Nat)
  if n < 0 then -q else q

/-! ### Records -/

/-- A coder or decoder of a bitstream (R441 to R443): the bits and how many are used, kt and kv, the time of the previous POINT or TIME,
and the time and value of the previous POINT. -/
structure Coder where
  pay : Nat
  len : Nat
  kt : Nat
  kv : Nat
  prevT : Nat
  pointT : Nat
  pointV : Word
deriving DecidableEq, Repr

/-- A coder at the start of a block. -/
def Coder.start (pay kt kv : Nat) : Coder := ⟨pay, 0, kt, kv, 0, 0, 0⟩

/-- n raw bits written, least significant first. -/
def Coder.put (c : Coder) (v n : Nat) : Coder := { c with pay := c.pay + v % 2 ^ n * 2 ^ c.len, len := c.len + n }

/-- A parameter after a field of quotient q (R442). -/
def adapt (k q : Nat) : Nat :=
  if q = 0 then k - 1 else if 2 ≤ q && k < 31 then k + 1 else k

/-- A field of value u coded with parameter k, and an escape of n raw bits (R442). -/
def Coder.field (c : Coder) (k n u : Nat) : Coder :=
  let q := u / 2 ^ k
  if 24 ≤ q || 0xFFFFFFFF < u then (c.put (2 ^ 24 - 1) 25).put u n
  else (c.put (2 ^ q - 1) (q + 1)).put u k

/-- A quotient as the parameter adapts to it: an escape adapts as 2 or more. -/
def quot (k u : Nat) : Nat := if 0xFFFFFFFF < u then max 2 (u / 2 ^ k) else u / 2 ^ k

/-- A time field (R441). -/
def Coder.putTime (c : Coder) (u : Nat) : Coder := { c.field c.kt 48 u with kt := adapt c.kt (quot c.kt u) }

/-- A value field (R441): the difference to the last POINT, in zigzag. -/
def Coder.putValue (c : Coder) (v : Word) : Coder :=
  let d := v.toInt - c.pointV.toInt
  let u := (if 0 ≤ d then 2 * d else -2 * d - 1).toNat
  { c.field c.kv 33 u with kv := adapt c.kv (quot c.kv u) }

/-- One record coded (R440, R441); times are counted in units of a period. -/
def Coder.record (unit : Nat) (c : Coder) (x : HRec) : Coder :=
  let c' := c.put x.kind 3
  if c.len = 0 then { (c'.put x.time 48).put x.value.toNat 32 with prevT := x.time, pointT := x.time, pointV := x.value }
  else if x.kind = 4 then { c'.putTime ((x.time - c.prevT) / unit - 1) with prevT := x.time }
  else if 5 ≤ x.kind then (c'.putTime ((x.time - c.pointT) / unit - 1)).putValue x.value
  else { (c'.putTime ((x.time - c.prevT) / unit - 1)).putValue x.value with prevT := x.time, pointT := x.time, pointV := x.value }

/-- The records of a block coded from its first parameters. -/
def encodeRecs (unit kt kv : Nat) (l : List HRec) : Coder := l.foldl (Coder.record unit) (Coder.start 0 kt kv)

/-- n raw bits read. -/
def Coder.take (c : Coder) (n : Nat) : Coder × Nat := ({ c with len := c.len + n }, c.pay / 2 ^ c.len % 2 ^ n)

/-- A field read with parameter k and an escape of n bits: its value and the quotient that the parameter adapts to. -/
def Coder.readField (c : Coder) (k n : Nat) : Coder × Nat × Nat :=
  let q := ((List.range 24).find? (fun i => !c.pay.testBit (c.len + i))).getD 24
  let c := { c with len := c.len + q + 1 }
  if q = 24 then
    let (c, u) := c.take n
    (c, u, 2)
  else
    let (c, r) := c.take k
    (c, q * 2 ^ k + r, q)

/-- A time field read. -/
def Coder.getTime (c : Coder) : Coder × Nat :=
  let (d, u, q) := c.readField c.kt 48
  ({ d with kt := adapt c.kt q }, u)

/-- A value field read. -/
def Coder.getValue (c : Coder) : Coder × Word :=
  let (d, u, q) := c.readField c.kv 33
  let z : Int := if u % 2 = 0 then ((u / 2 : Nat) : Int) else -((u / 2 : Nat) : Int) - 1
  ({ d with kv := adapt c.kv q }, BitVec.ofInt 32 (c.pointV.toInt + z))

/-- One record read. -/
def Coder.getRecord (unit : Nat) (c : Coder) : Coder × HRec :=
  let (d, k) := c.take 3
  if c.len = 0 then
    let (d, t) := d.take 48
    let (d, v) := d.take 32
    let w : Word := BitVec.ofNat 32 v
    ({ d with prevT := t, pointT := t, pointV := w }, ⟨k, t, w⟩)
  else
    let (d, u) := d.getTime
    if k = 4 then
      let t := c.prevT + (u + 1) * unit
      ({ d with prevT := t }, ⟨k, t, 0⟩)
    else
      let (d, w) := d.getValue
      if 5 ≤ k then (d, ⟨k, c.pointT + (u + 1) * unit, w⟩)
      else
        let t := c.prevT + (u + 1) * unit
        ({ d with prevT := t, pointT := t, pointV := w }, ⟨k, t, w⟩)

/-- n records read. -/
def decodeRecs (unit : Nat) : Nat → Coder → List HRec
  | 0, _ => []
  | n + 1, c =>
    let (c, x) := c.getRecord unit
    x :: decodeRecs unit n c

/-- The 12 bytes of a record in a raw block (R446). -/
def rawRec (x : HRec) : List Byte :=
  leBytes 6 x.time ++ (if x.kind = 4 then leBytes 4 0 else leBytes 4 x.value.toNat) ++ [BitVec.ofNat 8 x.kind, 0]

/-- Records of 12 bytes each. -/
def rawRecs : Nat → List Byte → List HRec
  | 0, _ => []
  | n + 1, l => ⟨leNat ((l.drop 10).take 1), leNat (l.take 6), BitVec.ofNat 32 (leNat ((l.drop 6).take 4))⟩ :: rawRecs n (l.drop 12)

/-! ### Blocks -/

/-- Unit of the times of a channel (R441). -/
def HalfInfo.unit (i : HalfInfo) : Nat := if bit i.cfg 3 then max 1 i.per.toNat else 1

/-- The 64 bytes of a header (R445). -/
def blockHead (i : HalfInfo) (raw : Bool) (ringSeq part parts nbits : Nat) (l : List HRec) : List Byte :=
  let cfg := (if bit i.cfg 3 then 1 else 0) + (if bit i.cfg 4 then 2 else 0) + (if bit i.cfg 5 then 4 else 0) + bits i.cfg 2 1 * 8 +
    (if i.cont then 32 else 0) + (if raw then 64 else 0)
  leBytes 2 0x4B4E ++ leBytes 1 1 ++ leBytes 1 (if raw then 1 else 0) ++ leBytes 2 i.chan ++ leBytes 1 cfg ++ leBytes 1 i.src ++ leBytes 4 i.seq ++
    leBytes 4 ringSeq ++ leBytes 6 ((l.head?.map (·.time)).getD 0) ++ leBytes 2 l.length ++ leBytes 6 ((l.getLast?.map (·.time)).getD 0) ++
    leBytes 1 part ++ leBytes 1 parts ++ leBytes 3 (bits i.cfg 31 8) ++ leBytes 1 0 ++ leBytes 4 i.per.toNat ++ leBytes 4 nbits ++
    leBytes 1 i.kt0 ++ leBytes 1 i.kv0 ++ List.replicate 18 0

/-- A block with its CRC (R447) from its header and payload. -/
def sealBlock (head pay : List Byte) : List Byte :=
  let b := ((head ++ pay) ++ List.replicate 4092 0).take 4092
  b ++ leBytes 4 (~~~ crc32c 0xFFFFFFFF b).toNat

/-- The coded block of a half (R443). -/
def codedBlock (i : HalfInfo) (ringSeq : Nat) (l : List HRec) : List Byte :=
  let c := encodeRecs i.unit i.kt0 i.kv0 l
  sealBlock (blockHead i false ringSeq 0 1 c.len l) (leBytes 4028 c.pay)

/-- Raw blocks of a half (R446). -/
def rawParts (l : List HRec) : Nat := (l.length + 334) / 335

/-- Raw block k of a half. -/
def rawBlock (i : HalfInfo) (ringSeq k : Nat) (l : List HRec) : List Byte :=
  let p := (l.drop (335 * k)).take 335
  sealBlock (blockHead i true (ringSeq + k) k (rawParts l) (12 * p.length) p) (p.flatMap rawRec)

/-- Little-endian number of n bytes of a block from an offset. -/
def at_ (b : List Byte) (off n : Nat) : Nat := leNat ((b.drop off).take n)

/-- True for a block with its MAGIC and a right CRC. -/
def blockGood (b : List Byte) : Bool :=
  at_ b 0 2 == 0x4B4E && at_ b 4092 4 == (~~~ crc32c 0xFFFFFFFF (b.take 4092)).toNat

/-- The records of a block. -/
def blockRecs (b : List Byte) : List HRec :=
  if at_ b 3 1 = 0 then
    decodeRecs (if (at_ b 6 1).testBit 0 then max 1 (at_ b 36 4) else 1) (at_ b 22 2) (Coder.start (at_ b 64 4028) (at_ b 44 1) (at_ b 45 1))
  else rawRecs (at_ b 22 2) (b.drop 64)

end Sys2Proof.Machine
end

