-- ==== Sys2Proof/Machine/Shadow.lean ====
section
/-! DEFINITION. The code of the check shadow (R395, R396): a shortened BCH code over 128 data bits, TAG and POISON with 17 check bits. -/

namespace Sys2Proof.Machine.Shadow

/-- Product of two polynomials over GF(2), bit i for the coefficient of x^i. -/
def polyMul (a : Nat) : Nat → Nat → Nat
  | 0, _ => 0
  | n + 1, b => (if b % 2 = 1 then a else 0) ^^^ polyMul (a * 2) n (b / 2)

/-- The generator (x + 1) · m₁(x) · m₃(x): m₁ is p(x) = x⁸ + x⁴ + x³ + x² + 1, and m₃, the minimal polynomial of α³, is
x⁸ + x⁶ + x⁵ + x⁴ + x² + x + 1. -/
def generator : Nat := polyMul (polyMul 0x11D 9 0x177) 2 3

/-- One step of the division by the generator: the remainder after the next message bit, highest first. -/
def divStep (rem : Nat) (b : Bool) : Nat :=
  let r := (rem * 2) ^^^ (if b then 2 ^ 17 else 0)
  if r / 2 ^ 17 % 2 = 1 then r ^^^ generator else r

/-- CHK of a message: the remainder of x¹⁷ m(x), bits taken from 129 down. -/
def chk (m : Nat) : Nat := (List.range 130).foldl (fun r i => divStep r (m.testBit (129 - i))) 0

/-- Message of a granule: its 16 bytes as a number, TAG and POISON. -/
def message (data : Nat) (tag poison : Bool) : Nat :=
  data % 2 ^ 128 + (if tag then 2 ^ 128 else 0) + (if poison then 2 ^ 129 else 0)

/-- Shadow word of a granule (R395). -/
def word (data : Nat) (tag poison : Bool) : Word :=
  BitVec.ofNat 32 (chk (message data tag poison) + (if tag then 2 ^ 17 else 0) + (if poison then 2 ^ 18 else 0))

/-- Syndrome of an error in one bit of the 147-bit codeword: check bits 0 to 16, then message bits 17 to 146. -/
def column (i : Nat) : Nat := if i < 17 then 2 ^ i else chk (2 ^ (i - 17))

/-- What a read of a granule finds (R384 over 147 bits): the message and the number of bits corrected, or an uncorrectable granule. -/
inductive Found where
  | ok (msg bits : Nat)
  | bad
deriving DecidableEq, Repr

/-- A message with one bit of the codeword flipped: a check bit leaves it unchanged. -/
def flip (msg i : Nat) : Nat := if i < 17 then msg else msg ^^^ 2 ^ (i - 17)

/-- Decoding of a granule's data with its shadow word. -/
def read (data : Nat) (w : Word) : Found :=
  let msg := message data (bit w 17) (bit w 18)
  let syn := chk msg ^^^ bits w 16 0
  if syn = 0 then .ok msg 0
  else
    let cols := (List.range 147).map (fun i => (i, column i))
    match cols.find? (fun c => c.2 == syn) with
    | some c => .ok (flip msg c.1) 1
    | none =>
      match cols.find? (fun c => cols.any (fun d => d.2 == c.2 ^^^ syn)) with
      | none => .bad
      | some c =>
        match cols.find? (fun d => d.2 == c.2 ^^^ syn) with
        | none => .bad
        | some d => .ok (flip (flip msg c.1) d.1) 2

end Sys2Proof.Machine.Shadow
end

