-- ==== Sys2Proof/Machine/Window.lean ====
section
/-! DEFINITION. The CXL windows (R407 to R409, R415 to R418, R247): where a byte of a window lies on the devices, when a window can be
reached, the error log of a port (R412) and the failed-line table (R416). Bytes of a device are kept in memory at keys above the
physical map. -/

namespace Sys2Proof.Machine

/-- Key of a byte of the device on a port. -/
def dpaKey (p dpa : Nat) : Nat := 2 ^ 48 + p * 2 ^ 41 + dpa

/-- Window and offset of an address in a CXL window. -/
def winOf (a : Nat) : Nat := a / 2 ^ 40 - 1
/-- Offset of an address in its window. -/
def winOff (a : Nat) : Nat := a % 2 ^ 40

/-- Backed capacity of a window in bytes. -/
def winCap (s : State) (w : Nat) : Nat := s.field (Adr.cxlWin w) 12 0 * 2 ^ 28
/-- True where the check shadow is on. -/
def shdOn (s : State) (w : Nat) : Bool := s.flag (Adr.shdCfg w) 0
/-- Bytes of data from offset 0: three quarters of the capacity under the check shadow (R247). -/
def winData (s : State) (w : Nat) : Nat := if shdOn s w then winCap s w / 4 * 3 else winCap s w
/-- Use of window C (CXL_CFG.WINC): 1 interleave, 2 mirror. -/
def winC (s : State) : Nat := s.field Adr.cxlCfg 5 4
/-- State of the mirror (CXL_MIR.STATE). -/
def mirState (s : State) : Nat := s.field Adr.cxlMir 2 0

/-- Device address of a window offset through decoder n of a port (R407 to R409). -/
def decode (s : State) (p n w o : Nat) : Option Nat :=
  let m := s.reg (Adr.hdmMap p n)
  let c := s.reg (Adr.hdmCtl p n)
  let base := bits m 11 0
  let inter := w == 2 && winC s == 1
  let span := if inter then 2 * bits m 28 16 else bits m 28 16
  let serves := if w = 2 then bits c 13 12 == 1 else bits c 13 12 == 0 && p == w
  if bit c 15 && serves && base ≤ o / 2 ^ 28 && o / 2 ^ 28 < base + span then
    let rel := o - base * 2 ^ 28
    some (bits c 11 0 * 2 ^ 28 + (if inter then rel / 512 * 256 + o % 256 else rel))
  else none

/-- Device address of a window offset on a port. -/
def dpaOf (s : State) (p w o : Nat) : Option Nat :=
  (List.range 4).findSome? (fun n => decode s p n w o)

/-- Ports that hold a copy of a window offset. -/
def portsOf (s : State) (w o : Nat) : List Nat :=
  if w = 2 then (if winC s = 1 then [o / 256 % 2] else if winC s = 2 then [0, 1] else []) else [w]

/-- True where an offset of a window is absent: beyond the data, or covered by no committed decoder (R247, R407). -/
def winAbsent (s : State) (w o : Nat) : Bool :=
  decide (winData s w ≤ o) || (portsOf s w o).any (fun p => (dpaOf s p w o).isNone) || (portsOf s w o).isEmpty

/-- True where the link of a port is up. -/
def linkUp (s : State) (p : Nat) : Bool := s.flag (Adr.cxlLink p) 0

/-- True while a window takes requests at all (R404, R417, R398, R420). -/
def winOpen (s : State) (w : Nat) : Bool :=
  domOn s 54 && s.flag (Adr.cxlWin w) 13 && !s.flag (Adr.cxlWin w) 15 && !s.flag (Adr.shdCfg w) 1 &&
    (match s.cxl.gpf with
      | .phase _ _ => false
      | _ => true)

/-- Ports that a write of a window offset goes to (R418). -/
def writePorts (s : State) (w o : Nat) : List Nat :=
  let ps := if w = 2 && winC s == 2 then
      match mirState s with
      | 1 | 4 | 5 => [0, 1]
      | 2 => [0]
      | 3 => [1]
      | _ => []
    else portsOf s w o
  ps.filter (linkUp s)

/-- Port that a load of a window offset goes to (R418). -/
def readPort (s : State) (w o : Nat) : Option Nat :=
  let p := if w = 2 && winC s == 2 then
      match mirState s with
      | 1 =>
        let a := s.field (Adr.cxlHealth 0) 15 0
        let b := s.field (Adr.cxlHealth 1) 15 0
        if a < b then some 0 else if b < a then some 1 else some (s.field Adr.cxlMir 3 3)
      | 2 => some 0
      | 3 => some 1
      | 4 => some 1
      | 5 => some 0
      | _ => none
    else (portsOf s w o).head?
  p.filter (linkUp s)

/-- True where a load of an address of a CXL window draws an error response. -/
def winLoadError (s : State) (a : Nat) : Bool :=
  !winOpen s (winOf a) || winAbsent s (winOf a) (winOff a) || (readPort s (winOf a) (winOff a)).isNone

/-- True where a store to an address of a CXL window draws an error response. -/
def winStoreError (s : State) (a : Nat) : Bool :=
  !winOpen s (winOf a) || winAbsent s (winOf a) (winOff a) || (writePorts s (winOf a) (winOff a)).isEmpty

/-- Entry of the failed-line table that holds the line of an address (R416). -/
def failEntry (s : State) (a : Nat) : Option Nat :=
  (List.range 64).find? (fun i => s.flag (Adr.cxlFail0 i) 0 && s.field (Adr.cxlFail0 i) 31 6 == a / 64 % 2 ^ 26 &&
    s.field (Adr.cxlFail1 i) 15 0 == a / 2 ^ 32 % 2 ^ 16)

/-- Free an entry of the failed-line table. -/
def freeFail (s : State) (i : Nat) : State :=
  ((s.setReg (Adr.cxlFail0 i) 0).setReg (Adr.cxlFail1 i) 0).setField Adr.cxlFailcnt 6 0 (s.field Adr.cxlFailcnt 6 0 - 1)

/-- An error of a port (R412): its CXL_ERR bit, and where it is not masked UIB_FAULT.LINK of UIB 243 and, for the first
uncorrectable one, CXL_FIRST and CXL_HLOG. The CXL.mem opcode of CXL_HLOG is a free value. -/
def cxlError (s : State) (p b : Nat) (addr : Option Nat) (agent : Nat) : State :=
  let s := s.setFlag (Adr.cxlErr p) b true
  if s.flag (Adr.cxlEmask p) b then s
  else
    let s := raiseFault s 243 10 b 0 addr
    if b < 8 || s.flag (Adr.cxlFirst p) 4 then s
    else
      let (s, v) := s.fresh
      let s := s.setReg (Adr.cxlFirst p) (BitVec.ofNat 32 (b - 8 + 16))
      let s := s.setReg (Adr.cxlHlog p 0) (BitVec.ofNat 32 (addr.getD 0))
      let s := s.setReg (Adr.cxlHlog p 1) (BitVec.ofNat 32 (addr.getD 0 / 2 ^ 32 % 2 ^ 16 + bits v 7 0 * 2 ^ 16))
      let s := s.setReg (Adr.cxlHlog p 2) (BitVec.ofNat 32 (agent % 1024))
      s.setReg (Adr.cxlHlog p 3) (metroLo s)

/-- The SM's NOTICE of a memory error of a window (R401), whose code and payload no chapter gives: free values. -/
def windowNotice (s : State) : State :=
  let (s, v) := s.fresh
  notice s 243 (bits v 7 0) (leBytes 7 (v.toNat / 256))

/-- An addition to a port's health score (R418). -/
def addScore (s : State) (p n : Nat) : State :=
  s.setField (Adr.cxlHealth p) 15 0 (min 0xFFFF (s.field (Adr.cxlHealth p) 15 0 + n))

/-- Poison received from a port (R412 bit 9, R418). -/
def poisonReceived (s : State) (p a agent : Nat) : State := addScore (cxlError s p 9 (some a) agent) p 16

/-- The last event of SHD_LAST (R400). -/
def shdLast (s : State) (w o : Nat) (unc bits2 : Bool) : State :=
  (s.setReg (Adr.shdLastl w) (BitVec.ofNat 32 (o / 16))).setReg (Adr.shdLasth w)
    (BitVec.ofNat 32 (o / 2 ^ 36 % 16 + (if unc then 16 else 0) + (if bits2 then 32 else 0)))

end Sys2Proof.Machine
end

