-- ==== Sys2Proof/Machine/Memory.lean ====
section
/-! DEFINITION. Memory: SRAM, prompt books and CXL windows, with the memory code (R383 to R389), tags (R233 to R235), the check shadow
(R395 to R398), poison, the failed-line table (R416), lines staged at a curtain (R339, R340) and reservations (R149). -/

namespace Sys2Proof.Machine

/-- Memory in its one canonical form (log 6): keys strictly rising, and no entry equal to what an unlisted key reads as. -/
def Memory.wf (m : List Host.Cell) : Bool := Sparse.wf (fun _ => 0) m

/-- Byte at a key of the memory; an unlisted byte reads zero (log 6). -/
def byteAt (s : State) (k : Nat) : Byte := Sparse.get (fun _ => 0) s.mem k
/-- The state with the byte at a key replaced. -/
def setByteAt (s : State) (k : Nat) (b : Byte) : State := { s with mem := Sparse.put (fun _ => 0) s.mem k b }
/-- Tag of a granule by address / 16. -/
def tagAt (s : State) (g : Nat) : Bool := Sparse.get (fun _ => false) s.tags g
/-- The state with a granule's tag, in all three copies, replaced (R385). -/
def setTagAt (s : State) (g : Nat) (b : Bool) : State :=
  { s with tags := Sparse.put (fun _ => false) s.tags g b, tagBad := Sparse.put (fun _ => false) s.tagBad g false }
/-- Error state of the codeword at a key / 8. -/
def cwAt (s : State) (k : Nat) : Cw := Sparse.get (fun _ => Cw.clean) s.cw k
/-- The state with a codeword's error state replaced. -/
def setCwAt (s : State) (k : Nat) (c : Cw) : State := { s with cw := Sparse.put (fun _ => Cw.clean) s.cw k c }

/-- Bytes from a key on, as a number. -/
def natAt (s : State) (k n : Nat) : Nat := leNat ((List.range n).map (fun i => byteAt s (k + i)))
/-- The state with the bytes from a key on replaced where a mask bit is set. -/
def setNatAt (s : State) (k n v mask : Nat) : State :=
  (List.range n).foldl (fun s i => if mask.testBit i then setByteAt s (k + i) (BitVec.ofNat 8 (v / 256 ^ i)) else s) s

/-- Curtain area of an address (R337). -/
def areaOf (a : Nat) : Nat :=
  match regionOf a with
  | .cxl _ => 9
  | .book l => l / 16
  | _ => if a < 0x400000 then a / 0x80000 else if a < 0x3000000 then (a - 0x1000000) / 0x400000 else 8

/-- True while the line of an address is marked at a curtain that has not flipped (R340). -/
def marked (s : State) (a : Nat) : Bool :=
  (s.staged (areaOf a)).any (fun e => !e.flipped && e.wing.dw * 8 / 64 == a / 64)

/-- Flipped staged bytes of a doubleword: their mask and value, newest last (R339). -/
def overlay (s : State) (dw : Nat) : Nat × Nat :=
  (s.staged (areaOf (dw * 8))).foldl (fun acc e =>
    if e.flipped && e.wing.dw == dw then
      (List.range 8).foldl (fun acc i =>
        if e.wing.mask.getLsbD i then (acc.1 ||| 2 ^ i, setBits (BitVec.ofNat 64 acc.2) (8 * i + 7) (8 * i)
          (e.wing.data.toNat / 256 ^ i % 256) |>.toNat) else acc) acc
    else acc) (0, 0)

/-- Bytes of b over those of a where a mask bit is set. -/
def mergeBytes (mask a b : Nat) : Nat :=
  leNat ((List.range 8).map (fun i => BitVec.ofNat 8 ((if mask.testBit i then b else a) / 256 ^ i)))

/-- A newer write takes bytes away from staged entries that have flipped and not drained: their drain must not undo it (R339). -/
def supersede (s : State) (dw mask : Nat) : State :=
  let a := areaOf (dw * 8)
  let l := s.staged a
  if l.any (fun e => e.flipped && e.wing.dw == dw) then
    s.setStaged a (l.map (fun e =>
      if e.flipped && e.wing.dw == dw then
        { e with wing := { e.wing with mask := e.wing.mask &&& ~~~(BitVec.ofNat 8 mask), setTag := none } }
      else e))
  else s

/-- A codeword corrected at a read or a merge: counted, reported (R401). -/
def corrected (s : State) (a : Nat) (two : Bool) : State :=
  raiseFault (countMec s (mecIndex a) (mecWord s a) false two) (ownerUib a) 11 1 0 (some a)

/-- A codeword found uncorrectable: poisoned, counted once, reported with the finder's code, and noticed (R386, R401, R492). -/
def uncorrectable (s : State) (a code : Nat) : State :=
  let s := setCwAt s (a / 8) ⟨0, true⟩
  let s := countMec s (mecIndex a) (mecWord s a) true false
  let s := raiseFault s (ownerUib a) 1 code 0 (some a)
  notice s (ownerUib a) 0x56 (leBytes 2 (mecIndex a) ++ leBytes 2 (mecWord s a))

/-- A read of an on-chip doubleword (R384 to R389): the data, or none for an uncorrectable word. Four or more bits in error are
outside the code's limits: a free value says what the read takes them for. -/
def readSram (s : State) (dw : Nat) : State × Option Nat :=
  let c := cwAt s dw
  if c.poison then (s, none)
  else if c.bits = 0 then (s, some (natAt s (dw * 8) 8))
  else if c.bits ≤ 2 then
    (corrected { s with fixQ := if s.fixQ.contains dw then s.fixQ else s.fixQ ++ [dw] } (dw * 8) (c.bits == 2),
      some (natAt s (dw * 8) 8))
  else if c.bits = 3 then (uncorrectable s (dw * 8) 1, none)
  else
    let (s, v) := s.fresh
    if bit v 64 then (uncorrectable s (dw * 8) 1, none) else (corrected s (dw * 8) (bit v 65), some (bits v 63 0))

/-- A read of a shadowed granule's data and shadow word at a port (R395, R396): the message, or none for an uncorrectable or
poisoned granule. An uncorrectable granule has POISON set. -/
def readShadowed (s : State) (w o : Nat) : State × Option Nat :=
  let sh := winCap s w / 4 * 3 + o / 16 * 4
  let g := o / 16 * 16
  match readPort s w g, readPort s w sh with
  | some p, some q =>
    match dpaOf s p w g, dpaOf s q w sh with
    | some d, some e =>
      let data := natAt s (dpaKey p d) 16
      let wd : Word := BitVec.ofNat 32 (natAt s (dpaKey q e) 4)
      match Shadow.read data wd with
      | .ok m b =>
        if m.testBit 129 then (s, none)
        else if b = 0 then (s, some m)
        else
          let s := shdLast (s.incField (Adr.shdCnt w) 15 0) w o false (b == 2)
          (raiseFault s 243 11 3 0 (some ((w + 1) * 2 ^ 40 + g)), some m)
      | .bad =>
        let s := shdLast (s.incField (Adr.shdCnt w) 23 16) w o true false
        let nw := Shadow.word data (bit wd 17) true
        let s := (writePorts s w sh).foldl (fun s q => match dpaOf s q w sh with
          | some e => setNatAt s (dpaKey q e) 4 nw.toNat 0xF
          | none => s) s
        (windowNotice s, none)
    | _, _ => (s, none)
  | _, _ => (s, none)

/-- A read of a doubleword of a CXL window that draws no error response: the data, or none for poison, a failed line or an
uncorrectable granule (R412, R416, R418). -/
def readWindow (s : State) (agent dw : Nat) : State × Option Nat :=
  let a := dw * 8
  let w := winOf a
  let o := winOff a
  let failed := match failEntry s a with
    | some i => !bit (s.reg (Adr.cxlFail1 i)) (16 + a / 8 % 8)
    | none => false
  if failed then (raiseFault s 243 1 3 0 (some a), none)
  else
    match readPort s w o with
    | none => (s, none)
    | some p =>
      match dpaOf s p w o with
      | none => (s, none)
      | some d =>
        let poisoned := (cwAt s (dpaKey p d / 8)).poison
        let other := if w = 2 && winC s == 2 && mirState s == 1 then dpaOf s (1 - p) w o else none
        if poisoned then
          let s := poisonReceived s p a agent
          match other with
          | some e =>
            if (cwAt s (dpaKey (1 - p) e / 8)).poison || !linkUp s (1 - p) then
              (windowNotice (raiseFault (if linkUp s (1 - p) then poisonReceived s (1 - p) a agent else s) 243 1 3 0 (some a)), none)
            else
              let v := natAt s (dpaKey (1 - p) e) 8
              (setCwAt (setNatAt s (dpaKey p d) 8 v 0xFF) (dpaKey p d / 8) Cw.clean, some v)
          | none => (windowNotice (raiseFault s 243 1 3 0 (some a)), none)
        else if shdOn s w then
          match readShadowed s w o with
          | (s, some m) => (s, some (m / 2 ^ (o % 16 * 8) % 2 ^ 64))
          | (s, none) => (raiseFault s 243 1 3 0 (some a), none)
        else (s, some (natAt s (dpaKey p d) 8))

/-- An error of a read: the detail of vector 8 (R263) and the fault address. -/
structure MemErr where
  detail : Byte
  addr : Nat
deriving DecidableEq, Repr

/-- True where a load of an address draws an error response: absent, unpowered, or a window that cannot be reached (R243, R542). -/
def loadError (s : State) (a : Nat) : Bool :=
  match regionOf a with
  | .absent => true
  | .cxl _ => winLoadError s a
  | _ => !powered s a

/-- True where a store to an address draws an error response. -/
def storeError (s : State) (a : Nat) : Bool :=
  match regionOf a with
  | .absent => true
  | .cxl _ => winStoreError s a
  | _ => !powered s a

/-- A read of one doubleword of memory as an agent sees it: flipped staged bytes over memory (R339). -/
def readDw (s : State) (agent dw : Nat) : State × Except MemErr Nat :=
  let (mask, staged) := overlay s dw
  if mask = 0xFF then (s, .ok staged)
  else if loadError s (dw * 8) then (s, .error ⟨3, dw * 8⟩)
  else
    match regionOf (dw * 8) with
    | .cxl _ =>
      match readWindow s agent dw with
      | (s, some v) => (s, .ok (mergeBytes mask v staged))
      | (s, none) => (s, .error ⟨2, dw * 8⟩)
    | _ =>
      match readSram s dw with
      | (s, some v) => (s, .ok (mergeBytes mask v staged))
      | (s, none) => (s, .error ⟨1, dw * 8⟩)

/-- Reads of n doublewords from dw on, lowest first; the first error ends the read. -/
def readDws (s : State) (agent dw : Nat) : Nat → State × Except MemErr (List Nat)
  | 0 => (s, .ok [])
  | n + 1 =>
    match readDw s agent dw with
    | (s, .error e) => (s, .error e)
    | (s, .ok v) =>
      match readDws s agent (dw + 1) n with
      | (s, .error e) => (s, .error e)
      | (s, .ok l) => (s, .ok (v :: l))

/-- A read of n bytes of memory from an address on. An agent is a role number, or another id of R316. -/
def readMem (s : State) (agent a n : Nat) : State × Except MemErr (List Byte) :=
  match readDws s agent (a / 8) ((a + n - 1) / 8 - a / 8 + 1) with
  | (s, .error e) => (s, .error e)
  | (s, .ok l) => (s, .ok ((((l.map (fun v => leBytes 8 v)).flatten).drop (a % 8)).take n))

/-- A word of memory read without side effects, for checks that the manual gives none (the SM's and the link's peeks). -/
def peekByte (s : State) (a : Nat) : Byte :=
  let (mask, staged) := overlay s (a / 8)
  if mask.testBit (a % 8) then BitVec.ofNat 8 (staged / 256 ^ (a % 8))
  else
    match regionOf a with
    | .cxl w =>
      match readPort s w (winOff a) with
      | some p =>
        match dpaOf s p w (winOff a) with
        | some d => byteAt s (dpaKey p d)
        | none => 0
      | none => 0
    | _ => byteAt s a

/-- Little-endian number of n bytes read without side effects. -/
def peekMem (s : State) (a n : Nat) : Nat := leNat ((List.range n).map (fun i => peekByte s (a + i)))

/-- Tag of the granule of an address as a TLOAD reads it (R235), flipped staged entries first. -/
def readTag (s : State) (a : Nat) : Bool :=
  let g := a / 16
  match ((s.staged (areaOf a)).filter (fun e => e.flipped && e.wing.dw / 2 == g && e.wing.mask != 0)).getLast? with
  | some e => e.wing.setTag.getD false
  | none =>
    match regionOf a with
    | .sram => tagAt s g
    | .cxl w =>
      if shdOn s w then
        match readShadowed s w (winOff a) with
        | (_, some m) => m.testBit 128
        | (_, none) => false
      else false
    | _ => false

/-- Every role but one loses a reservation on a doubleword (R149). -/
def clearResv (s : State) (keep : Option Nat) (dw : Nat) : State :=
  s.roles.foldl (fun s e => if keep = some e.1 || (s.role e.1).resv ≠ some dw then s
    else s.modRole e.1 (fun x => { x with resv := none })) s

/-- A write of masked bytes to an on-chip doubleword (R388): a partial write merges under the memory code. -/
def writeSram (s : State) (dw v mask : Nat) (tag : Bool) : State :=
  let c := cwAt s dw
  let s := { s with fixQ := s.fixQ.filter (· ≠ dw) }
  let s :=
    if mask = 0xFF then setCwAt s dw Cw.clean
    else if c.poison || c.bits = 0 then s
    else if c.bits ≤ 2 then setCwAt (corrected s (dw * 8) (c.bits == 2)) dw Cw.clean
    else if c.bits = 3 then uncorrectable s (dw * 8) 1
    else
      let (s, f) := s.fresh
      if bit f 64 then uncorrectable s (dw * 8) 1
      else setNatAt (setCwAt (corrected s (dw * 8) (bit f 65)) dw Cw.clean) (dw * 8) 8 (bits f 63 0) 0xFF
  let s := setNatAt s (dw * 8) 8 v mask
  match regionOf (dw * 8) with
  | .sram => setTagAt s (dw / 2) tag
  | _ => s

/-- The shadow word of a granule rewritten after a write of some of its bytes (R396): a write of all 16 bytes clears POISON, and is
made of two full doublewords, so the second of them finds the first one's. -/
def writeShadow (s : State) (w o mask : Nat) (tag : Bool) (old : State) : State :=
  let sh := winCap s w / 4 * 3 + o / 16 * 4
  let g := o / 16 * 16
  (writePorts s w sh).foldl (fun s q =>
    match dpaOf s q w sh with
    | none => s
    | some e =>
      match (writePorts s w g).head?, readPort s w g with
      | some p, some rp =>
        match dpaOf s p w g, dpaOf s rp w g with
        | some d, some rd =>
          let data := natAt s (dpaKey p d) 16
          let bad := match Shadow.read (natAt old (dpaKey rp rd) 16) (BitVec.ofNat 32 (natAt old (dpaKey q e) 4)) with
            | .ok m _ => m.testBit 129
            | .bad => true
          setNatAt s (dpaKey q e) 4 (Shadow.word data tag (bad && mask != 0xFFFF)).toNat 0xF
        | _, _ => s
      | _, _ => s) s

/-- A write of masked bytes of a 16-byte granule of a CXL window at offset o, to every port it goes to (R416, R418). -/
def writeWindow (s : State) (w g v mask : Nat) (tag : Bool) : State :=
  let o := g * 16
  let old := s
  let s := (writePorts s w o).foldl (fun s p => match dpaOf s p w o with
    | some d =>
      let s := setNatAt s (dpaKey p d) 16 v mask
      let s := if mask % 256 = 0xFF then setCwAt s (dpaKey p d / 8) Cw.clean else s
      if mask / 256 = 0xFF then setCwAt s (dpaKey p d / 8 + 1) Cw.clean else s
    | none => s) s
  let s := if shdOn s w then writeShadow s w o mask tag old else s
  let a := (w + 1) * 2 ^ 40 + o
  match failEntry s a with
  | none => s
  | some i =>
    let s := if mask % 256 = 0xFF then s.setFlag (Adr.cxlFail1 i) (16 + a / 8 % 8) true else s
    let s := if mask / 256 = 0xFF then s.setFlag (Adr.cxlFail1 i) (17 + a / 8 % 8) true else s
    if s.field (Adr.cxlFail1 i) 23 16 = 0xFF then freeFail s i else s

/-- A write of masked bytes of one granule of memory. The tag it leaves is false for every write but a tag's own (R233). -/
def writeGranule (s : State) (keep : Option Nat) (g v mask : Nat) (tag : Bool) : State :=
  let lo := mask % 256
  let hi := mask / 256
  let s := if lo = 0 then s else clearResv (supersede s (2 * g) lo) keep (2 * g)
  let s := if hi = 0 then s else clearResv (supersede s (2 * g + 1) hi) keep (2 * g + 1)
  match regionOf (g * 16) with
  | .cxl w => writeWindow s w (winOff (g * 16) / 16) v mask tag
  | _ =>
    let s := if lo = 0 then s else writeSram s (2 * g) (v % 2 ^ 64) lo tag
    if hi = 0 then s else writeSram s (2 * g + 1) (v / 2 ^ 64) hi tag

/-- A write of bytes to memory from an address on, granule by granule. -/
def writeMem (s : State) (keep : Option Nat) (a : Nat) (l : List Byte) (tag : Bool) : State :=
  let g0 := a / 16
  let n := if l.isEmpty then 0 else (a + l.length - 1) / 16 - g0 + 1
  (List.range n).foldl (fun s i =>
    let base := (g0 + i) * 16
    let pick := fun j => if a ≤ base + j && base + j < a + l.length then l[base + j - a]? else none
    let mask := (List.range 16).foldl (fun m j => if (pick j).isSome then m + 2 ^ j else m) 0
    let v := leNat ((List.range 16).map (fun j => (pick j).getD 0))
    writeGranule s keep (g0 + i) v mask tag) s

end Sys2Proof.Machine
end

