-- ==== Sys2Proof/Machine/Ops.lean ====
section
/-! DEFINITION. The operations every role shares: tickets as bytes and the access check (R230, R236), the scene record (R325), work
abandoned (R196 to R200), going dark (R268), exception entry (R249 to R261) and the return (R264). -/

namespace Sys2Proof.Machine

/-! ### Tickets -/

/-- The 128 bits of a ticket (R230). -/
def Ticket.toNat (t : Ticket) : Nat :=
  t.base.toNat + t.len.toNat * 2 ^ 48 + t.perm.toNat * 2 ^ 96 + t.cid.toNat * 2 ^ 104 + t.sealTy.toNat * 2 ^ 116

/-- The 16 bytes of a ticket in memory. -/
def Ticket.bytes (t : Ticket) : List Byte := leBytes 16 t.toNat

/-- The ticket of 128 bits and a tag; an untagged granule gives the null ticket (R156, R265). -/
def Ticket.ofNat (n : Nat) (tag : Bool) : Ticket :=
  if tag then ⟨BitVec.ofNat 48 n, BitVec.ofNat 48 (n / 2 ^ 48), BitVec.ofNat 8 (n / 2 ^ 96), BitVec.ofNat 12 (n / 2 ^ 104),
    BitVec.ofNat 8 (n / 2 ^ 116), true⟩
  else Ticket.null

/-- Numbers of the permission bits (R231). -/
def permR : Nat := 0
def permW : Nat := 1
def permX : Nat := 2
def permLT : Nat := 3
def permST : Nat := 4
def permCUE : Nat := 5
def permDEV : Nat := 6
def permSEAL : Nat := 7

/-- Address a ticket gives an offset (R236): BASE + offset modulo 2^48. -/
def Ticket.addr (t : Ticket) (off : Nat) : Nat := (t.base.toNat + off) % 2 ^ 48

/-- True where a fetch may go: an SRAM range or a CXL window of R242. -/
def fetchable (a : Nat) : Bool :=
  a < 0x400000 || (0x1000000 ≤ a && a < 0x3400000) || (0x10000000000 ≤ a && a < 0x40000000000)

/-- The access check (R236): the detail of the first failing test, for an access of size bytes at an offset. -/
def Ticket.check (t : Ticket) (off size : Nat) (need : List Nat) (fetch priv : Bool) : Option Byte :=
  if !t.tag then some 0x01
  else if t.sealTy ≠ 0 then some 0x02
  else if need.any (fun p => !bit t.perm p) then some 0x03
  else if off + size > t.len.toNat then some 0x05
  else if fetch && !fetchable (t.addr off) then some 0x0A
  else if !priv && (isBook (t.addr off) || isBook (t.addr off + size - 1)) then some 0x0B
  else none

/-- Address of an instruction (R262): T0.BASE + PC. -/
def instrAddr (x : Role) (pc : Word) : Nat := (x.tick 0).addr pc.toNat

/-! ### The scene record -/

/-- A word of a player role's scene record (R325). -/
def recWord (s : State) (r off : Nat) : Word := BitVec.ofNat 32 (natAt s (recordBase r + off) 4)
/-- The state with a word of a role's scene record replaced. -/
def setRecWord (s : State) (r off : Nat) (v : Word) : State := writeMem s none (recordBase r + off) (leBytes 4 v.toNat) false
/-- A flag of word 0x008 of the scene record: 8 OPEN, 9 CLEAN, 10 REPLAY. -/
def recFlag (s : State) (r n : Nat) : Bool := !isLead r && bit (recWord s r 8) n
/-- The state with a flag of the scene record replaced. -/
def setRecFlag (s : State) (r n : Nat) (b : Bool) : State :=
  if isLead r || recFlag s r n == b then s else setRecWord s r 8 (setBit (recWord s r 8) n b)
/-- Base depth of the open scene. -/
def baseDepth (s : State) (r : Nat) : Nat := bits (recWord s r 8) 4 0
/-- Journal entries written. -/
def journalCount (s : State) (r : Nat) : Nat := (recWord s r 12).toNat
/-- Sequence number of the scene, SCN_ID.SEQ. -/
def sceneSeq (s : State) (r : Nat) : Nat := if isLead r then 0 else s.field (Adr.scnId (troupeOf r) (troupeIx r)) 15 0
/-- The SCN_ID word of a role. -/
def sceneIdWord (s : State) (r : Nat) : Word := BitVec.ofNat 32 (sceneSeq s r + r * 2 ^ 16)
/-- Kind of journal entry e (R330). -/
def journalKind (s : State) (r e : Nat) : Nat := natAt s (recordBase r + 0x100 + e / 4) 1 / 4 ^ (e % 4) % 4
/-- Value of journal entry e. -/
def journalValue (s : State) (r e : Nat) : Word := recWord s r (0x400 + 4 * e)

/-- The journal with an entry added; the caller has checked for room (R328). -/
def journalAdd (s : State) (r kind : Nat) (v : Word) : State :=
  let e := journalCount s r
  let k := natAt s (recordBase r + 0x100 + e / 4) 1
  let k' := k - k / 4 ^ (e % 4) % 4 * 4 ^ (e % 4) + kind * 4 ^ (e % 4)
  let s := writeMem s none (recordBase r + 0x100 + e / 4) (leBytes 1 k') false
  setRecWord (setRecWord s r (0x400 + 4 * e) v) r 12 (BitVec.ofNat 32 (e + 1))

/-! ### Holding and releasing curtain locks -/

/-- The state with a curtain lock released (R338). -/
def unlock (s : State) : Lock → State
  | .area a => s.setField (Adr.curLock a) 19 9 0
  | .house => s.setField Adr.curHlock 10 0 0

/-- Free staging entries of an area, as CUR_LOCK shows them. -/
def showFree (s : State) (a : Nat) : State := s.setField (Adr.curLock a) 8 0 (256 - (s.staged a).length)

/-- A curtain backed out whole (R343): its unflipped entries discarded and its locks released. -/
def backOut (s : State) (r : Nat) : State :=
  match (s.scene r).cur with
  | none => s
  | some c =>
    let s := c.areas.foldl (fun s a =>
      showFree (s.setStaged a ((s.staged a).filter (fun e => e.flipped || e.role ≠ r))) a) s
    let s := c.held.foldl unlock s
    s.setScene r { s.scene r with cur := none }

/-! ### Abandonment -/

/-- An abandonment of the instruction at a PC (R79, R80, R200): counted, and recorded as starving at the fourth in a row. -/
def countAbandon (s : State) (r : Nat) (pc : Word) (cls cause : Nat) : State :=
  let x := s.role r
  let id : AbnId := ⟨pc, (x.tick 0).base⟩
  let consec := if x.abnId = some id then satInc (bits x.abcnt 3 0) 15 else 1
  let total := satInc (bits x.abcnt 31 16) 0xFFFF
  let s := s.setRole r { x with abcnt := BitVec.ofNat 32 (consec + total * 2 ^ 16), abnId := some id }
  if consec = 4 && !x.starved then
    let s := s.modRole r (fun x => { x with starved := true })
    let s := raiseRoleFault s r 7 (cause + 1) (some (instrAddr x pc))
    postRecord s ⟨r, 12, BitVec.ofNat 16 r, 4, 0, false, false, metroLo s,
      leBytes 4 pc.toNat ++ leBytes 2 total ++ leBytes 1 cls ++ leBytes 1 cause⟩
  else s

/-- A retirement of the instruction at a PC returns its CONSEC to 0 (R80). -/
def clearConsec (x : Role) (pc : Word) : Role :=
  if x.abnId = some ⟨pc, (x.tick 0).base⟩ then { x with abcnt := setBits x.abcnt 3 0 0, abnId := none, starved := false } else x

/-- A repeat that stops before its end leaves the role at the REP with RA set: an interruptible one with the iterations left in RC, an
atomic one with every register, ST and scene store as they stood before it (R174, R175). -/
def stopRep (s : State) (r : Nat) : State :=
  let x := s.role r
  match x.rep with
  | none => s
  | some p =>
    if !p.atomic then s.setRole r { x with rep := none, st := setBit x.st 8 true }
    else
      let x := p.saved.foldl (fun x e => x.setG e.1 e.2) x
      let s := s.setRole r { x with rep := none, rc := p.count, st := setBit p.st0 8 true }
      if !bit p.st0 9 then s
      else
        let c := s.scene r
        let s := s.setScene r { c with wings := c.wings.take p.wings0, effects := p.effects0, retired := p.retired0 }
        if journalCount s r = p.journal0 then s else setRecWord s r 12 (BitVec.ofNat 32 p.journal0)

/-- The CXL requests of a role's load lose their load: their data is discarded when it arrives (R196). -/
def dropLoads (s : State) (r : Nat) : State :=
  let drop : CxlReq → CxlReq := fun q => if q.who = .load r then { q with who := .dropped } else q
  let one : Nat × Option CxlReq → Nat × Option CxlReq := fun e => (e.1, e.2.map drop)
  { s with cxl := { s.cxl with reqs := s.cxl.reqs.map one } }

/-- Abandonment of whatever the role has in progress and has not retired (R196 to R198), with its cause code of R200. Answers whether
something was abandoned. WAIT stays (R166). -/
def abandonWork (s : State) (r cause : Nat) : State × Bool :=
  let x := s.role r
  let atomic := match x.rep with
    | some p => p.atomic
    | none => false
  let w : Option Word := match x.busy with
    | .idle | .waiting => none
    | .multi w | .load w | .push w | .pop w | .waitcue w | .curtain w | .long w | .blocked w => some w
  if w.isNone && !atomic then (stopRep s r, false)
  else
    let s := match x.busy with
      | .curtain _ => backOut s r
      | _ => s
    let s := dropLoads s r
    let s := s.modRole r (fun x => { x with
      busy := if x.busy = .waiting then .waiting else .idle
      loadErr := none
      longOps := match x.busy with
        | .long _ => x.longOps.dropLast
        | _ => x.longOps })
    let s := if x.prompt then s else countAbandon s r x.pc (Ulufy.cls (match x.rep with
      | some p => p.word
      | none => w.getD 0)) cause
    (stopRep s r, true)

/-! ### Dark -/

/-- Roles that are recorded in progress when their core freezes. -/
def freezeRole (s : State) (r : Nat) : State :=
  let (s, _) := abandonWork s r 1
  s.modRole r (fun x => { x with frozen := true, fetchQ := [] })

/-- A core goes dark (R268): every role freezes, the dark register and UIB_FAULT.DARK record it. -/
def goDark (s : State) (r code : Nat) (addr : Nat) : State :=
  let core := coreOf r
  let s := (rolesOf core).foldl freezeRole s
  let s := s.modRole r (fun x => { x with wentDark := true })
  let s := if core < 128 then s.setFlag (Adr.darkP (core / 32)) (core % 32) true else s.setFlag Adr.darkL (core - 128) true
  raiseRoleFault (s.incField Adr.darkCnt 15 0) r 0 code (some addr)

/-- True where a core is dark. -/
def coreDark (s : State) (core : Nat) : Bool :=
  if core < 128 then s.flag (Adr.darkP (core / 32)) (core % 32) else s.flag Adr.darkL (core - 128)

/-! ### Late store errors -/

/-- A late store error reaches the role that made the store (R267): the first is kept, later ones are merged. -/
def lateError (s : State) (r : Nat) (detail : Byte) (addr : Nat) (pc sid : Option Word) : State :=
  let s := raiseRoleFault s r 2 detail.toNat (some addr)
  let x := s.role r
  if !x.started || coreDark s (coreOf r) then s
  else
    match x.late with
    | none => s.setRole r { x with late := some ⟨detail, BitVec.ofNat 48 addr, pc, sid, 0⟩ }
    | some e => s.setRole r { x with late := some { e with merged := BitVec.ofNat 8 (satInc e.merged.toNat 0xFF) } }

/-! ### Entry -/

/-- What an entry puts in its frame (R259 to R261). -/
structure Entry where
  vector : Nat
  detail : Nat
  level : Nat
  pc : Word
  st : Word
  instr : Word
  addr : Option Nat
  aux : Word
  stpcv : Bool
  abn : Bool
  sidv : Bool
  merged : Nat
deriving DecidableEq, Repr

/-- INFO of a frame (R260). -/
def Entry.info (e : Entry) : Nat :=
  e.vector + e.detail % 256 * 2 ^ 8 + e.level * 2 ^ 16 + (if e.addr.isSome then 2 ^ 20 else 0) + (if e.stpcv then 2 ^ 21 else 0) +
    (if e.abn then 2 ^ 22 else 0) + (if e.sidv then 2 ^ 23 else 0) + e.merged % 256 * 2 ^ 24

/-- The first 48 bytes of a frame (R259). -/
def frameBytes (x : Role) (e : Entry) : List Byte :=
  leBytes 4 e.pc.toNat ++ leBytes 4 e.st.toNat ++ leBytes 4 x.rc.toNat ++ leBytes 4 x.mpl.toNat ++ leBytes 4 x.mph.toNat ++
    leBytes 4 x.dq.toNat ++ leBytes 4 x.drm.toNat ++ leBytes 4 e.info ++ leBytes 4 (e.addr.getD 0) ++
    leBytes 4 (e.addr.getD 0 / 2 ^ 32 % 2 ^ 16) ++ leBytes 4 e.instr.toNat ++ leBytes 4 e.aux.toNat

/-- True for memory: what a frame, a ticket or a long read can lie in. -/
def isMemory (a : Nat) : Bool :=
  match regionOf a with
  | .sram | .book _ | .cxl _ => true
  | _ => false

/-- Every product in flight lands in MPL and MPH (R78, R121). -/
def landAll (x : Role) : Role :=
  match x.prodNew, x.prodOld with
  | some p, _ => { x with mpl := p.setWidth 32, mph := (p >>> 32).setWidth 32, prodOld := none, prodNew := none }
  | none, some p => { x with mpl := p.setWidth 32, mph := (p >>> 32).setWidth 32, prodOld := none }
  | none, none => x

/-- A held line with the bytes of a frame at a in it, the granule of the saved T0 with its tag (R258, R212, log 114). -/
def frameLine (a : Nat) (b : List Byte) (tag : Bool) (l : CLine) : CLine :=
  let o := l.line * 64
  if o + 64 ≤ a || a + 64 ≤ o then l
  else
    { l with
      data := (List.range 64).map (fun i => if a ≤ o + i && o + i < a + 64 then b.getD (o + i - a) 0 else l.data.getD i 0)
      tags := (List.range 4).map (fun g =>
        if o + 16 * g + 16 ≤ a || a + 64 ≤ o + 16 * g then l.tags.getD g false else tag && a + 48 == o + 16 * g)
      poison := (List.range 8).map (fun i => l.poison.getD i false && !(decide (a ≤ o + 8 * i) && decide (o + 8 * i + 8 ≤ a + 64))) }

/-- A write of a frame's 64 bytes, its last granule with the tag of the saved T0 (R257, R258), to memory and to the copies that leads
hold: an absent or unpowered place gives a late store error. -/
def writeFrame (s : State) (r a : Nat) (x : Role) (e : Entry) : State :=
  if (List.range 8).any (fun i => !isMemory (a + 8 * i) || storeError s (a + 8 * i)) then lateError s r 1 a none none
  else
    let s := writeMem s (some r) a (frameBytes x e) false
    let s := writeMem s (some r) (a + 48) ((x.tick 0).bytes) ((x.tick 0).tag && a % 16 == 0)
    { s with caches := s.caches.map (frameLine a (frameBytes x e ++ (x.tick 0).bytes) ((x.tick 0).tag && a % 16 == 0)) }

/-- Bytes of parts of a store outside the 64 bytes at a. -/
def cutParts (a : Nat) (l : List (Nat × List Byte)) : List (Nat × List Byte) :=
  (l.flatMap (fun p => [(p.1, p.2.take (a - p.1)), (Nat.max p.1 (a + 64), p.2.drop (a + 64 - p.1))])).filter (fun p => !p.2.isEmpty)

/-- A posted store that a frame written after it overlaps keeps only its other bytes (R187, R258). -/
def cutPosted (a : Nat) (p : Posted) : Option Posted :=
  if p.parts.all (fun q => q.1 + q.2.length ≤ a || a + 64 ≤ q.1) then some p
  else
    match cutParts a p.parts with
    | [] => none
    | l => some { p with parts := l, tag := none }

/-- A wings entry that a frame written after it overlaps keeps only its other bytes (R258). -/
def cutWing (a : Nat) (e : Wing) : Option Wing :=
  if e.dw * 8 + 8 ≤ a || a + 64 ≤ e.dw * 8 then some e
  else
    let m := e.mask &&& BitVec.ofNat 8 (((List.range 8).map (fun i => if a ≤ e.dw * 8 + i && e.dw * 8 + i < a + 64 then 0 else 2 ^ i)).sum)
    if m = 0 then none else some { e with mask := m, setTag := none }

/-- What a frame at a, written by an entry at depth d, does to the role's own older stores there, and to its scene: the frame is the
role's newest data (R258), and an entry at the base depth leaves a frame of the scene's own (R333). -/
def overFrame (s : State) (r a d : Nat) : State :=
  let s := s.modRole r (fun x => { x with posted := x.posted.filterMap (cutPosted a) })
  if bit (s.role r).st 9 && !isLead r then
    let c := s.scene r
    s.setScene r { c with wings := c.wings.filterMap (cutWing a), ownFrame := c.ownFrame || d == baseDepth s r }
  else s

/-- Exception entry (R257): the one operation that every vector is taken through. -/
def enter (s : State) (r : Nat) (e : Entry) : State :=
  let s := s.modRole r landAll
  let x := s.role r
  let d := x.rpd
  if d ≥ 16 then goDark s r 3 (instrAddr x e.pc)
  else if (x.tst.check (d * 64) 64 [permR, permW, permLT, permST] false false).isSome then goDark s r 4 (instrAddr x e.pc)
  else
    let s := writeFrame (overFrame s r (x.tst.addr (d * 64)) d) r (x.tst.addr (d * 64)) x e
    let s := traceRole s 3 3 r (e.vector + e.level * 2 ^ 5 + e.pc.toNat / 4 % 2 ^ 25 * 2 ^ 9)
    let s := setRecFlag s r 9 (recFlag s r 9 && bit x.st 9)
    s.modRole r (fun y =>
      { (y.setT 0 y.ht) with
        stack := ⟨BitVec.ofNat 4 e.level, false⟩ :: y.stack
        resv := none
        st := setBit e.st 8 false
        pc := BitVec.ofNat 32 (0x20 * e.vector)
        fetchQ := []
        rep := none
        busy := .idle
        eoiClosed := false })

/-- True while a prompt of the role runs whose faults are not taken as vectors (R614). -/
def promptTraps (s : State) (r : Nat) : Bool :=
  (s.role r).prompt && !(if isLead r then s.flag (Adr.lprCtl (companyOf r) (roleIn r)) 4
    else s.flag (Adr.prCtl (troupeOf r) (troupeIx r)) 4)

/-- Address of the prompt status of a role (R613). -/
def prStatAdr (r : Nat) : Nat :=
  if isLead r then Adr.lprStat (companyOf r) (roleIn r) else Adr.prStat (troupeOf r) (troupeIx r)

/-- A running prompt ends with a status bit, and a fault's vector and detail (R613). -/
def endPrompt (s : State) (r b vec detail : Nat) : State :=
  let s := s.modRole r (fun x => { x with prompt := false, busy := .idle })
  let s := (s.setFlag (prStatAdr r) 0 false).setFlag (prStatAdr r) b true
  if b = 2 then (s.setField (prStatAdr r) 10 6 vec).setField (prStatAdr r) 18 11 detail else s

/-- A synchronous fault (R249): its own vector at RP 0 to 12, the double fault at RP 13, dark at 14 and 15. A fault of a prompt is
reported in PR_STAT instead, unless TAKE is 1 (R614). A repeat stops at its REP (R174, R175). -/
def syncFault (s : State) (r vec detail : Nat) (instr : Word) (addr : Option Nat) : State :=
  let x0 := s.role r
  if promptTraps s r then endPrompt s r 2 vec detail
  else
    let s := if x0.prompt then endPrompt s r 2 vec detail else s
    let atomic := match x0.rep with
      | some p => p.atomic
      | none => false
    let s := if atomic then countAbandon s r x0.pc 11 0 else s
    let s := stopRep (s.modRole r (fun x => { x with busy := .idle })) r
    let x := s.role r
    if x.rp ≤ 12 then enter s r ⟨vec, detail, 13, x.pc, x.st, instr, addr, 0, false, false, false, 0⟩
    else if x.rp = 13 then
      enter s r ⟨14, vec, 14, x.pc, x.st, instr, addr, BitVec.ofNat 32 (detail % 256), false, false, false, 0⟩
    else goDark s r (if x.rp = 14 then 1 else 2) (instrAddr x x.pc)

end Sys2Proof.Machine
end

