-- ==== Sys2Proof/Machine/Queues.lean ====
section
/-! DEFINITION. Hardware queues (R303 to R324): pushes, pops, packets, flush, and what a pop finds. -/

namespace Sys2Proof.Machine

/-- Agent ids of R316: a role is its role number; the SM is 0x3F0. -/
def agentSm : Nat := 0x3F0

/-- Agent that holds a packet open on a queue (R316). -/
def qOpener (s : State) (q : Nat) : Option Nat :=
  if s.flag (Adr.qopener q) 31 && !s.flag (Adr.qstat q) 1 then some (s.field (Adr.qopener q) 9 0) else none

/-- True where a flushed packet's agent still has its words discarded (R319). -/
def qDiscards (s : State) (q agent : Nat) : Bool :=
  s.flag (Adr.qstat q) 1 && s.field (Adr.qopener q) 9 0 == agent

/-- True where another agent's open packet holds an agent back (R316). -/
def qHeld (s : State) (q agent : Nat) : Bool :=
  match qOpener s q with
  | some a => a != agent
  | none => false

/-- True where all 32 stages are occupied (R307). -/
def qFull (s : State) (q : Nat) : Bool := 32 ≤ (s.queue q).stages.length

/-- True where a push by an agent completes its handshake (R308, R316, R319). -/
def pushReady (s : State) (q agent : Nat) : Bool := qDiscards s q agent || (!qHeld s q agent && !qFull s q)

/-- A push whose handshake completes (R312): a data word of the agent's open packet, or a plain word. -/
def push (s : State) (q agent : Nat) (w : Word) (poison : Bool) : State :=
  if qDiscards s q agent then s.incField (Adr.qerrcnt q) 30 16
  else
    let x := s.queue q
    let inPkt := qOpener s q == some agent
    s.setQueue q ⟨x.stages ++ [⟨w, inPkt && x.pktWords = 0, false, poison, false, false, 0⟩],
      if inPkt then x.pktWords + 1 else x.pktWords⟩

/-- True where a push by an agent would be the 32nd word of its open packet (R315). -/
def overruns (s : State) (q agent : Nat) : Bool := qOpener s q == some agent && 31 ≤ (s.queue q).pktWords

/-- The open packet's slot filled with its COUNT and ABN (R312, R313, R317). -/
def fillSlot (s : State) (q : Nat) (abn : Bool) : State :=
  let x := s.queue q
  let w : Word := BitVec.ofNat 32 (x.pktWords + (if abn then 32 else 0))
  let s := s.setQueue q ⟨x.stages.map (fun g => if g.slot && !g.filled then { g with data := w, filled := true } else g), 0⟩
  s.setReg (Adr.qopener q) 0

/-- True where a QOPEN by an agent completes its handshake. -/
def openReady (s : State) (q agent : Nat) : Bool := !qHeld s q agent && !qFull s q

/-- A QOPEN whose handshake completes (R312, R316, R319). -/
def openPacket (s : State) (q agent : Nat) : State :=
  let s := if qDiscards s q agent then (s.setFlag (Adr.qstat q) 1 false).setReg (Adr.qopener q) 0 else s
  let s := if qOpener s q = some agent then (fillSlot s q false).setFlag (Adr.qstat q) 4 true else s
  let x := s.queue q
  let s := s.setQueue q ⟨x.stages ++ [⟨0, false, true, false, true, false, 0⟩], 0⟩
  let s := if s.flag (Adr.qstat q) 1 then s.setFlag (Adr.qstat q) 1 false else s
  s.setReg (Adr.qopener q) (BitVec.ofNat 32 (2 ^ 31 + agent % 1024))

/-- A QCLOSE (R312, R316, R319): it never stalls on a full queue. -/
def closePacket (s : State) (q agent : Nat) : State :=
  if qDiscards s q agent then s.incField (Adr.qerrcnt q) 30 16
  else if qOpener s q = some agent then fillSlot s q false
  else s.setFlag (Adr.qstat q) 3 true

/-- A FLUSH (R319). -/
def flush (s : State) (q : Nat) : State :=
  let opened := qOpener s q
  let s := (s.setQueue q Queue.reset).setFlag (Adr.qstat q) 6 false
  if opened.isSome then (s.setFlag (Adr.qstat q) 0 true).setFlag (Adr.qstat q) 1 true else s

/-- True where the head can be popped: a word, not an unfilled slot, of a queue that is not halted (R308, R314, R322). -/
def popReady (s : State) (q : Nat) : Bool :=
  match (s.queue q).stages with
  | [] => false
  | g :: _ => !(g.slot && !g.filled) && !s.flag (Adr.qstat q) 6

/-- UIB index of the unit that owns a queue. -/
def queueUib (q : Nat) : Nat := if q < 256 then 16 + q / 8 else if q < 320 then 1 + (q - 256) / 8 else 0

/-- What a pop delivers (R143): the word and its tags, FIRST, LENGTH-SLOT, POISON from bit 0. -/
structure Popped where
  data : Word
  tags : Nat
deriving DecidableEq, Repr

/-- Tags of a stage as QPOPT returns them. -/
def stageTags (g : Stage) (poison : Bool) : Nat :=
  (if g.first then 1 else 0) + (if g.lenSlot then 2 else 0) + (if poison then 4 else 0)

/-- A pop of a queue whose head is ready (R321, R322): none where an uncorrectable house-queue word halts the queue. -/
def pop (s : State) (q : Nat) : State × Option Popped :=
  match (s.queue q).stages with
  | [] => (s, none)
  | g :: rest =>
    if 320 ≤ q then
      if g.err = 2 then
        let s := (s.setFlag (Adr.qstat q) 6 true).incField (Adr.qerrcnt q) 15 8
        (notice (raiseFault s 0 1 5 0 (some (portBase q))) 0 0x57 (leBytes 1 (q - 320)), none)
      else
        let s := s.setQueue q { s.queue q with stages := rest }
        let s := if g.err = 0 then s else raiseFault (s.incField (Adr.qerrcnt q) 7 0) 0 11 4 0 none
        (s, some ⟨g.data, stageTags g false⟩)
    else
      let s := s.setQueue q { s.queue q with stages := rest }
      if g.err = 0 then (s, some ⟨g.data, stageTags g g.poison⟩)
      else
        let s := (s.incField (Adr.qerrcnt q) 7 0).setFlag (Adr.qstat q) 5 true
        (raiseFault s (queueUib q) 1 4 0 (some (portBase q)), some ⟨g.data, stageTags g true⟩)

/-- QCOUNT of a queue (R324). -/
def qcountWord (s : State) (q : Nat) : Word :=
  let x := s.queue q
  let head := match x.stages with
    | g :: _ => g.slot && !g.filled
    | [] => false
  let opened := (qOpener s q).isSome
  BitVec.ofNat 32 (x.stages.length % 64 + (if head then 2 ^ 8 else 0) + (if opened then 2 ^ 9 else 0) +
    (if opened then x.pktWords % 32 * 2 ^ 10 else 0))

/-- Packets a role holds open are closed by the part when the role starts (R317). -/
def closeOpenPackets (s : State) (r : Nat) : State :=
  (List.range 336).foldl (fun s q => if qOpener s q = some r then fillSlot s q true else s) s

/-- A queue whose domain powers on is empty with its registers at reset (R323). -/
def resetQueue (s : State) (q : Nat) : State :=
  ((((s.setQueue q Queue.reset).setReg (Adr.qstat q) 0).setReg (Adr.qerrcnt q) 0).setReg (Adr.qopener q) 0)

end Sys2Proof.Machine
end

