-- ==== Sys2Proof/Machine/Recovery.lean ====
section
/-! DEFINITION. Starting a role (R87, R239, R538) and undoing a scene: restoration from the scene record, replay, the abandoned rows of
the scene faults and the restart outside the guarantee (R335, R336, R350 to R354). -/

namespace Sys2Proof.Machine

/-- The image that carries a role, with the CORE record that starts it (R531). -/
def imageOf (s : State) (r : Nat) : Option (Image × ImageCore) :=
  s.sm.images.findSome? (fun i =>
    (i.cores.find? (fun c => c.uib == uibOf r && c.start.testBit (roleIn r))).map (fun c => (i, c)))

/-- The root ticket an image assigns to a target register of a role (R240): a later entry replaces an earlier one. -/
def rootTicket (s : State) (r target : Nat) : Ticket :=
  match imageOf s r with
  | none => Ticket.null
  | some (i, c) =>
    match (c.grants.filter (fun g => g.target == target && g.mask.testBit (roleIn r))).getLast? with
    | none => Ticket.null
    | some g => ⟨BitVec.ofNat 48 g.base, BitVec.ofNat 48 g.len, g.perm, BitVec.ofNat 12 i.cid, 0, true⟩

/-- CID of a role's image, 0 where none carries it. -/
def roleCid (s : State) (r : Nat) : Nat :=
  match imageOf s r with
  | some (i, _) => i.cid
  | none => 0

/-- HT of a role (R87, R239): R, W and X over its core's home slice. -/
def homeTicket (s : State) (r : Nat) : Ticket :=
  ⟨BitVec.ofNat 48 (homeBase r), 0x4000, 0x07, BitVec.ofNat 12 (roleCid s r), 0, true⟩

/-- Address of a role's ROLE_START word (R538). -/
def roleStartAdr (r : Nat) : Nat :=
  if isLead r then Adr.lroleStart (companyOf r) (roleIn r) else Adr.roleStart (troupeOf r) (troupeIx r)

/-- State of a role that starts at a vector (R87). Its posted stores and a presented level 15 stay. -/
def startedRole (s : State) (r vec : Nat) (x : Role) : Role :=
  let ht := homeTicket s r
  let y : Role := { Role.reset with
    started := true, holdReq := x.holdReq, onHold := x.onHold, st := BitVec.ofNat 32 (roleIn r * 2 ^ 16), pc := BitVec.ofNat 32 (0x20 * vec)
    ht := ht, tst := rootTicket s r 8, srt := if isLead r then Ticket.null else rootTicket s r 9, dbt := x.dbt
    posted := x.posted, pfail := x.pfail, beatsh := x.beatsh }
  (List.range 8).foldl (fun y n => y.setT n (if n = 0 then ht else rootTicket s r n)) y

/-- SCN_ABN of a player role takes a cause; its count and re-runs as given (R359). -/
def setAbn (s : State) (r cause rerunsAdd countAdd : Nat) : State :=
  let a := Adr.scnAbn (troupeOf r) (troupeIx r)
  let w := s.reg a
  s.setReg a (BitVec.ofNat 32 (cause + min 0xFF (bits w 15 8 + rerunsAdd) * 2 ^ 8 + min 0xFFFF (bits w 31 16 + countAdd) * 2 ^ 16))

/-- Address of the SCENE.BEGIN of the scene in a role's record. -/
def beginAddr (s : State) (r : Nat) : Nat :=
  ((natAt s (recordBase r + 0x30) 6) + (recWord s r 4).toNat) % 2 ^ 48

/-- An abandonment of the open scene: SCN_ABN and UIB_FAULT.SCENEABN (R359, R34). -/
def noteAbandon (s : State) (r cause reruns : Nat) : State :=
  raiseRoleFault (setAbn s r cause reruns 1) r 3 cause (some (beginAddr s r))

/-- Role start (R87, R317, R354, R538): an open scene is discarded, open packets close, and the role starts at the vector. -/
def startRole (s : State) (r vec kind : Nat) : State :=
  let s := backOut s r
  let s :=
    if isLead r then s
    else
      let s := if recFlag s r 8 then noteAbandon s r 9 0 else s
      let c := s.scene r
      let s := s.setScene r { c with wings := [], ownFrame := false, effects := if c.releasing then c.effects else 0, retired := 0, jpos := 0, faults := 0, cur := none }
      let s := setRecFlag (setRecFlag (setRecFlag s r 8 false) r 9 false) r 10 false
      let s := s.setField (Adr.scnId (troupeOf r) (troupeIx r)) 15 0 0
      let a := Adr.scnAbn (troupeOf r) (troupeIx r)
      s.setReg a (s.reg a &&& 0xFF)
  let s := closeOpenPackets s r
  let s := s.setRole r (startedRole s r vec (s.role r))
  let w := s.reg (roleStartAdr r)
  s.setReg (roleStartAdr r) (BitVec.ofNat 32 (kind + s.field Adr.rstCause 2 0 * 2 ^ 4 + roleCid s r % 4096 * 2 ^ 8 +
    satInc (bits w 31 20) 0xFFF * 2 ^ 20))

/-- A recovery NOTICE to the role's level-12 ring (R358). -/
def recoveryNotice (s : State) (r code mech seq : Nat) : State :=
  noticeTo s r 12 (uibOf r) code (leBytes 2 r ++ leBytes 2 seq ++ leBytes 1 mech)

/-- The words of a record restored into a role (R325, R350): G1 to G31, ST with SC at 0, RC, MPL, MPH, DQ, DRM and T0. -/
def restoreWords (l : List Byte) (t0tag : Bool) (x : Role) : Role :=
  let w := fun off => (BitVec.ofNat 32 (leNat ((l.drop off).take 4)) : Word)
  let x := (List.range 31).foldl (fun x i => x.setG (i + 1) (w (0x40 + 4 * i))) x
  let x := x.setT 0 (Ticket.ofNat (leNat ((l.drop 0x30).take 16)) t0tag)
  { x with st := setBit (w 0x10) 9 false, rc := BitVec.ofNat 16 (w 0x14).toNat, mpl := w 0x18, mph := w 0x1C, dq := w 0x20, drm := w 0x24
           pc := w 4, stack := x.stack.drop (x.stack.length - bits (w 8) 4 0), resv := none, fetchQ := [], prodOld := none, prodNew := none
           busy := .idle, rep := none }

/-- Restoration of a role from its record, its wings and effects discarded (R350): none where the record is uncorrectable (R352). -/
def restoreRecord (s : State) (r : Nat) : State × Bool :=
  match readMem s r (recordBase r) 0xC0 with
  | (s, .error _) => (s, false)
  | (s, .ok l) =>
    let s := backOut s r
    let c := s.scene r
    let s := s.setScene r { c with wings := [], ownFrame := false, effects := if c.releasing then c.effects else 0, retired := 0, jpos := 0 }
    (s.modRole r (restoreWords l c.t0tag), true)

/-- The restart outside the guarantee (R350 third row, R352): at vector 1, with its NOTICE. -/
def restartRole (s : State) (r code mech : Nat) : State :=
  let seq := sceneSeq s r
  recoveryNotice (startRole s r 1 4) r code mech seq

/-- The replay of the scene in the record begins (R350, R351): the role resumes after the SCENE.BEGIN, reading the journal. -/
def beginReplay (s : State) (r : Nat) : State :=
  let s := setRecFlag s r 10 true
  let s := s.setScene r { s.scene r with jpos := 0, retired := 0, wings := [], ownFrame := false, effects := 0 }
  let s := s.modRole r (fun x => { x with st := setBit x.st 9 true, pc := recWord s r 4 + 4, fetchQ := [] })
  if journalCount s r = 0 then setRecFlag s r 10 false else s

/-- Abandonment of the open scene for replay (R350), with its cause of R359 and its NOTICE mechanism of R358. -/
def replayScene (s : State) (r cause code mech : Nat) : State :=
  let seq := sceneSeq s r
  let s := noteAbandon s r cause 1
  match restoreRecord s r with
  | (s, false) => restartRole s r 0x15 mech
  | (s, true) => recoveryNotice (beginReplay s r) r code mech seq

/-- Restoration from the checkpoint of the last curtain (R350 second row). -/
def restoreCheckpoint (s : State) (r mech : Nat) : State :=
  let seq := sceneSeq s r
  match restoreRecord s r with
  | (s, false) => restartRole s r 0x15 mech
  | (s, true) => recoveryNotice s r 0x12 mech seq

/-- Abandonment of the open scene with no re-run and no vector (R611): the role resumes at the SCENE.BEGIN. -/
def dropScene (s : State) (r cause : Nat) : State :=
  let s := noteAbandon s r cause 0
  match restoreRecord s r with
  | (s, false) => restartRole s r 0x15 7
  | (s, true) => setRecFlag (setRecFlag s r 8 false) r 10 false

/-- A scene fault of an abandoned row (R335): the role is restored, and vector 10 is taken with the SCENE.BEGIN as frame PC, the
instruction that caused it in INSTR and the scene id in AUX. -/
def abandonFault (s : State) (r detail cause : Nat) (instr : Word) (addr : Nat) : State :=
  if promptTraps s r then endPrompt s r 2 10 detail
  else
    let s := if (s.role r).prompt then endPrompt s r 2 10 detail else s
    let sid := sceneIdWord s r
    let seq := sceneSeq s r
    let s := noteAbandon s r cause 0
    match restoreRecord s r with
    | (s, false) => restartRole s r 0x15 0
    | (s, true) =>
      let s := setRecFlag (setRecFlag s r 8 false) r 10 false
      let s := if detail = 0x0C then recoveryNotice s r 0x14 0 seq else s
      let x := s.role r
      if x.rp ≤ 12 then enter s r ⟨10, detail, 13, x.pc, x.st, instr, some addr, sid, false, true, true, 0⟩
      else if x.rp = 13 then
        enter s r ⟨14, 10, 14, x.pc, x.st, instr, some addr, BitVec.ofNat 32 (detail % 256), false, true, false, 0⟩
      else goDark s r (if x.rp = 14 then 1 else 2) (instrAddr x x.pc)

end Sys2Proof.Machine
end

