-- ==== Sys2Proof/Machine/Cues.lean ====
section
/-! DEFINITION. Cues (R272 to R288): event crossings (R580 to R582), the crossbar's latches, the delivery of a fire to consumer inputs,
rings and UIBs, and the call-sheet writers (R289 to R300). -/

namespace Sys2Proof.Machine

/-! ### Numbers -/

/-- Latch of a hardware event id (R274, R275); none for a reserved id. -/
def evLatch (e : Nat) : Option Nat :=
  if 0x40 ≤ e && e < 0x80 then some (e - 0x40)
  else if 0x100 ≤ e && e < 0x190 then some (64 + (e - 0x100))
  else if 0x200 ≤ e && e < 0x280 then some (208 + (e - 0x200))
  else if 0x280 ≤ e && e < 0x2A0 then some (336 + (e - 0x280))
  else if 0x2A0 ≤ e && e < 0x2B0 then some (368 + (e - 0x2A0))
  else if 0x300 ≤ e && e < 0x3C0 then some (384 + (e - 0x300))
  else if 0x3C0 ≤ e && e < 0x3D0 then some (576 + (e - 0x3C0))
  else if 0x400 ≤ e && e < 0x410 then some (592 + (e - 0x400))
  else if 0x410 ≤ e && e < 0x420 then some (608 + (e - 0x410))
  else if 0x420 ≤ e && e < 0x440 then some (624 + (e - 0x420))
  else none

/-- Hardware event id of a latch below 656. -/
def latchEv (i : Nat) : Nat :=
  if i < 64 then 0x40 + i
  else if i < 208 then 0x100 + (i - 64)
  else if i < 336 then 0x200 + (i - 208)
  else if i < 368 then 0x280 + (i - 336)
  else if i < 384 then 0x2A0 + (i - 368)
  else if i < 576 then 0x300 + (i - 384)
  else if i < 592 then 0x3C0 + (i - 576)
  else if i < 608 then 0x400 + (i - 592)
  else if i < 624 then 0x410 + (i - 608)
  else 0x420 + (i - 624)

/-- Clock domain that a hardware event leaves (R571); none for the troupe watchdogs, whose source is taken as clockless. -/
def evDomain (e : Nat) : Option Nat :=
  if e < 0x100 then some 1
  else if e < 0x200 then some (15 + (e - 0x100) / 8)
  else if e < 0x280 then some (43 + (e - 0x200) / 16)
  else if e < 0x2A0 then some (33 + (e - 0x280) / 8)
  else if e < 0x3C0 then some 2
  else if e < 0x400 then some (55 + (e - 0x3C0) / 4)
  else if e < 0x410 then some (40 + (e - 0x400) / 8)
  else if e < 0x420 then some 5
  else none

/-- Address of the status word of a consumer input (R279, R288, R601); none for an id the table does not list. -/
def cinAdr (id : Nat) : Option Nat :=
  if 0x200 ≤ id && id < 0x2C0 then some (Adr.padCin (id - 0x200))
  else if 0x300 ≤ id && id < 0x304 then some (Adr.adcCin (id - 0x300))
  else if 0x400 ≤ id && id < 0x440 then some (Adr.tmrCin (id - 0x400))
  else if 0x500 ≤ id && id < 0x548 && id % 4 < 3 then some (Adr.serTask ((id - 0x500) / 4) (id % 4))
  else if 0x560 ≤ id && id < 0x580 then some (Adr.puTask ((id - 0x560) / 4) (id % 4))
  else if 0x800 ≤ id && id < 0x950 then some (Adr.cqCin (id - 0x800))
  else if 0x1000 ≤ id && id < 0x1840 then some (Adr.wcCin ((id - 0x1000) / 4) (id % 4))
  else none

/-- True for a consumer id a route may name with an ARG (R279): house queues 0 to 11 and refused ARGs are not. -/
def legalRoute (id arg : Nat) : Bool :=
  (cinAdr id).isSome && !(0x800 + 320 ≤ id && id < 0x800 + 332) &&
    !(arg == 3 && (id < 0x2C0 || (0x400 ≤ id && id < 0x440)))

/-- True where a consumer input can act: its block's or queue's domain is ON (R542). A WAITCUE input always takes its fire (R282). -/
def cinPowered (s : State) (id : Nat) : Bool :=
  if 0x1000 ≤ id then true
  else if 0x800 ≤ id then domOn s (queueDomain (id - 0x800))
  else
    match cinAdr id with
    | some a => powered s a
    | none => false

/-! ### Sources and crossings -/

/-- A fire reaches the latch of a hardware event (R275): it is stamped, or it merges into the fire held there. -/
def latchFire (s : State) (i merged : Nat) (hop : BitVec 4) (payload : List Byte) (extra : Option Nat) : State :=
  let l := s.latch i
  if l.full then
    s.setLatch i { l with merge := BitVec.ofNat 8 (min 255 (l.merge.toNat + 1 + merged)), extra := l.extra.orElse (fun _ => extra) }
  else s.setLatch i ⟨true, hop, BitVec.ofNat 8 (min 255 merged), metroLo s, 0, extra, false, payload⟩

/-- An occurrence of a hardware event with six payload bytes and a hop count. A clocked source's event waits at its crossing (R580);
a clockless source's goes on at once. -/
def raiseEvent (s : State) (e : Nat) (hop : BitVec 4) (payload : List Byte) (extra : Option Nat) : State :=
  let x := s.xevOf e
  match evDomain e with
  | some _ =>
    if x.count = 0 then s.setXev e { x with count := 1, hop := hop, payload := payload, extra := extra }
    else s.setXev e { x with count := x.count + 1, extra := x.extra.orElse (fun _ => extra) }
  | none =>
    match x.fly with
    | some f => s.setXev e { x with fly := some { f with merged := min 255 (f.merged + 1) } }
    | none => s.setXev e { x with fly := some ⟨0, hop, payload, extra⟩ }

/-- The MERGED value of a delivery adds to XC_STAT of the sending domain (R581). -/
def countMerged (s : State) (d m : Nat) : State :=
  let a := Adr.xcStat d
  let s := s.setField a 30 16 (min 0x7FFF (s.field a 30 16 + m))
  s.setField a 15 8 (max (s.field a 15 8) m)

/-- A crossing launches the events pending at it as one delivery (R580). -/
def launchEvent (s : State) (e : Nat) : State :=
  let x := s.xevOf e
  match evDomain e, x.fly with
  | some d, none =>
    if x.count = 0 || !s.flag (Adr.xcStat d) 0 then s
    else
      let m := min 255 (x.count - 1)
      countMerged (s.setXev e ⟨0, 0, [], none, some ⟨m, x.hop, x.payload, x.extra⟩⟩) d m
  | _, _ => s

/-- EVENT_CROSSING_LAUNCH. -/
def execEventCrossingLaunch (event : BitVec 12) (s : State) : Host.Outcome State Fault Refusal := .next (launchEvent s event.toNat)

/-- A delivery reaches its latch (R275, R581). -/
def deliverEvent (s : State) (e : Nat) : State :=
  let x := s.xevOf e
  match evLatch e, x.fly with
  | some i, some f => latchFire (s.setXev e { x with fly := none }) i f.merged f.hop f.payload f.extra
  | _, _ => s

/-- HARDWARE_EVENT_FIRE. -/
def execHardwareEventFire (event : BitVec 12) (s : State) : Host.Outcome State Fault Refusal := .next (deliverEvent s event.toNat)

/-- True where a role's latch is full (R275). -/
def roleLatchFull (s : State) (r : Nat) : Bool := (s.latch (656 + r)).full

/-- A CUE reaches its role's empty latch (R273, R275, R284). -/
def fireCue (s : State) (r ch : Nat) (curtain : Bool) : State :=
  s.setLatch (656 + r) ⟨true, 0, 0, metroLo s, ch, none, curtain, leBytes 6 r⟩

/-- The SM fires a channel with six payload bytes through an empty latch of its own (R273, R275); none while all are full. -/
def fireSm (s : State) (ch : Nat) (payload : List Byte) : Option State :=
  ((List.range 8).find? (fun k => !(s.latch (1184 + k)).full)).map (fun k =>
    s.setLatch (1184 + k) ⟨true, 0, 0, metroLo s, ch, none, false, payload⟩)

/-! ### A fire taken -/

/-- Channels that select a hardware event id (R274), in order. -/
def selecting (s : State) (e : Nat) : List Nat :=
  (s.regs.filter (fun p => Adr.chSrc 0 ≤ p.1 && p.1 < Adr.chSrc 1024 && (p.1 - Adr.chSrc 0) % 0x20 == 0 &&
    bits p.2 11 0 == e)).map (fun p => (p.1 - Adr.chSrc 0) / 0x20)

/-- Channels of a latch's fire (R273, R301). -/
def fireChannels (s : State) (i : Nat) (l : Latch) : List Nat :=
  if i < 656 then
    let chs := selecting s (latchEv i)
    match l.extra with
    | some c => if chs.contains c then chs else chs ++ [c]
    | none => chs
  else [l.chan]

/-- PAYLOAD of a CUE record (R291). -/
def cuePayload (i : Nat) (l : Latch) : List Byte :=
  ((l.payload ++ List.replicate 6 0).take 6) ++ (if i < 656 then [l.merge, 0] else if i < 1184 then [0, 1] else [0, 2])

/-- A fire reaches a consumer input (R281, R288). -/
def deliver (s : State) (id arg ch : Nat) (hop : BitVec 4) : State :=
  match cinAdr id with
  | none => s
  | some a =>
    if s.flag a 0 || !cinPowered s id then (s.setFlag a 1 true).incField a 15 8
    else ((s.setFlag a 0 true).setField a 25 16 ch).setCin id (some ⟨arg, hop⟩)

/-- The pending bit of a consumer input clears with its action taken (R281). -/
def clearCin (s : State) (id : Nat) : State :=
  match cinAdr id with
  | none => s
  | some a => (s.setFlag a 0 false).setCin id none

/-- The fires of a channel that reach listening UIB inputs (R278, R37). -/
def deliverUibs (s : State) (ch : Nat) (hop : BitVec 4) : State :=
  ((List.range 251).filter (fun u => uibPresent u && s.flag (Adr.uibCuein u) 12 && s.field (Adr.uibCuein u) 9 0 == ch)).foldl
    (fun s u => s.setUibIn u (s.uibInOf u ++ [hop])) s

/-- A fire dropped at hop 15 (R277). -/
def dropLoop (s : State) (ch : Nat) (time : Word) : State :=
  let a := Adr.cxLoop
  let s := if s.flag a 0 then s else s.setField a 25 16 ch
  let s := (s.setFlag a 0 true).incField a 15 8
  let w := s.reg Adr.cxLooprpt
  if bit w 16 then
    postRecord s ⟨bits w 9 0, bits w 15 12, BitVec.ofNat 16 ch, 6, 15, false, false, time, leBytes 2 (s.field a 15 8) ++ List.replicate 6 0⟩
  else s

/-- The crossbar acts on a fire of one channel (R278). -/
def actChannel (i : Nat) (l : Latch) (s : State) (ch : Nat) : State :=
  let s := traceRaw s 2 (packet s 2 ch (l.hop.toNat + l.merge.toNat * 16))
  if l.hop = 15 then dropLoop s ch l.time
  else if !s.flag (Adr.chSrc ch) 16 then s.incField (Adr.chStat ch) 31 24
  else
    let s := (s.incField (Adr.chStat ch) 15 0).setField (Adr.chStat ch) 19 16 l.hop.toNat
    let s := (List.range 4).foldl (fun s k =>
      let w := s.reg (Adr.chRt ch k)
      if bit w 16 then deliver s (bits w 12 0) (bits w 18 17) ch l.hop else s) s
    let w := s.reg (Adr.chCs ch)
    let s := if bit w 16 then
        postRecord s ⟨bits w 9 0, bits w 15 12, BitVec.ofNat 16 ch, 1, l.hop, l.curtain, l.merge ≠ 0, l.time, cuePayload i l⟩
      else s
    deliverUibs s ch l.hop

/-- The crossbar takes a fire from a full latch (R275, R278). -/
def takeFire (s : State) (i : Nat) : State :=
  let l := s.latch i
  if !l.full then s
  else (fireChannels s i l).foldl (actChannel i l) (s.setLatch i Latch.reset)

/-- FIRE_TAKEN. -/
def execFireTaken (latch : Fin 1192) (s : State) : Host.Outcome State Fault Refusal := .next (takeFire s latch.val)

/-! ### Constant-word pushes -/

/-- Agent id of the cue port, which opens no packet: a packet of any agent holds its pushes back (R316). -/
def agentCue : Nat := 0x3FF

/-- A pending constant-word push is accepted by its queue (R280, R281). -/
def constantPush (s : State) (q : Nat) : State :=
  if !s.flag (Adr.cqCin q) 0 || !domOn s (queueDomain q) || qHeld s q agentCue || qFull s q then s
  else
    let w : Word := (s.reg (Adr.cqConst q) &&& 0xFFFFFC00) ||| BitVec.ofNat 32 (s.field (Adr.cqCin q) 25 16)
    clearCin (push s q agentCue w false) (0x800 + q)

/-- CONSTANT_WORD_PUSH. -/
def execConstantWordPush (q : QueueId) (s : State) : Host.Outcome State Fault Refusal := .next (constantPush s q.val)

/-! ### The call-sheet writers -/

/-- The 16 bytes of a record with a phase bit (R290). -/
def CsRec.bytes (x : CsRec) (phase : Bool) : List Byte :=
  leBytes 2 x.source.toNat ++ [BitVec.ofNat 8 (x.level % 16 + x.kind.toNat * 16)] ++
    [BitVec.ofNat 8 (x.hop.toNat + (if x.curtain then 16 else 0) + (if x.merged then 32 else 0) + (if phase then 128 else 0))] ++
    leBytes 4 x.time.toNat ++ ((x.payload ++ List.replicate 8 0).take 8)

/-- The 16 bytes of a record at a count of its ring (R290, R293). -/
def recordBytes (s : State) (x : CsRec) : List Byte := x.bytes (!(ringProd s x.role x.level).testBit (ringSize s x.role x.level))

/-- A record write to its ring, which has room (R289, R292): an error response loses the record (R295). -/
def writeRecord (s : State) (x : CsRec) : State :=
  let p := ringProd s x.role x.level
  let a := ringBase s x.role x.level + p % 2 ^ ringSize s x.role x.level * 16
  if storeError s a || !isMemory a then s.incField (ringStatAdr x.role x.level) 15 0
  else
    let s := writeMem s none a (recordBytes s x) false
    s.setField (Adr.csProd (companyOf x.role) (companyIx x.role) (x.level - 1)) 15 0 (p + 1)

/-- The OVERFLOW record owed by a ring (R291, R295). -/
def ovfRecord (s : State) (r l : Nat) : CsRec :=
  let o := s.ovfOf (ringKey r l)
  ⟨r, l, 0xFFFF, 3, 0, false, false, metroLo s, leBytes 2 o.lost.toNat ++ leBytes 2 o.source.toNat ++ leBytes 4 o.time.toNat⟩

/-- A ring of a company, as role and level, that is owed an OVERFLOW record and has room for it (R295): the lowest, where there are several. -/
def owedRing (s : State) (c : Nat) : Option (Nat × Nat) :=
  (s.ovf.map (fun e => (e.1 / 12, e.1 % 12 + 1))).find? (fun p =>
    companyOf p.1 == c && s.flag (ringStatAdr p.1 p.2) 16 && ringEn s p.1 p.2 && !ringFull s p.1 p.2)

/-- The writer writes an OVERFLOW record that is owed, or takes the record at the front of its buffer (R292 to R296). -/
def writerStep (s : State) (c : Nat) : State :=
  match owedRing s c, s.writer c with
  | some p, _ =>
    let s' := writeRecord s (ovfRecord s p.1 p.2)
    (s'.setFlag (ringStatAdr p.1 p.2) 16 false).setOvf (ringKey p.1 p.2) Ovf.reset
  | none, [] => s
  | none, x :: rest =>
    let s := s.setWriter c rest
    if !ringEn s x.role x.level then loseRecord s x.role x.level x.source x.time false
    else if ringFull s x.role x.level then loseRecord s x.role x.level x.source x.time true
    else writeRecord s x

/-- CALL_SHEET_RECORD_WRITE. -/
def execCallSheetRecordWrite (c : Fin 8) (s : State) : Host.Outcome State Fault Refusal := .next (writerStep s c.val)

end Sys2Proof.Machine
end

