-- ==== Sys2Proof/Machine/Timers.lean ====
section
/-! DEFINITION. The metronome (R59 to R63, R381), the cores' pacing rings (R55, R56) and the metronome timers (R301, R302). -/

namespace Sys2Proof.Machine

/-! ### Timers -/

/-- A timer starts or restarts from the current tick (R301, R302). -/
def startTimer (s : State) (n : Nat) (hop : Nat) : State :=
  let mode := s.field (Adr.tmrCtl n) 1 0
  let load := s.reg (Adr.tmrLoad n)
  if mode ≠ 2 && load = 0 then s.setFlag (Adr.tmrStat n) 2 true
  else
    let s := s.setReg (Adr.tmrCount n) (if mode = 2 then 0 else load)
    (s.setFlag (Adr.tmrStat n) 0 true).setField (Adr.tmrStat n) 7 4 hop

/-- A timer stops; a stopped timer stays as it is (R302). -/
def stopTimer (s : State) (n : Nat) : State :=
  if s.flag (Adr.tmrStat n) 0 then (s.setFlag (Adr.tmrStat n) 0 false).setReg (Adr.tmrCount n) 0 else s

/-- A running timer expires (R301, R302). -/
def expireTimer (s : State) (n : Nat) : State :=
  let a := Adr.tmrStat n
  if !s.flag a 0 then s
  else
    let ctl := s.reg (Adr.tmrCtl n)
    let s := (s.setFlag a 1 true).incField a 15 8
    let s := raiseEvent s (0x40 + n) (BitVec.ofNat 4 (s.field a 7 4)) (List.replicate 6 0)
      (if bit ctl 2 then some (bits ctl 13 4) else none)
    if bits ctl 1 0 = 1 then
      if s.reg (Adr.tmrLoad n) = 0 then (stopTimer s n).setFlag a 2 true
      else s.setReg (Adr.tmrCount n) (s.reg (Adr.tmrLoad n))
    else stopTimer s n

/-- TIMER_START. -/
def execTimerStart (n : Fin 64) (s : State) : Host.Outcome State Fault Refusal :=
  .next (if domOn s 65 then startTimer s n.val 0 else s)

/-- TIMER_STOP. -/
def execTimerStop (n : Fin 64) (s : State) : Host.Outcome State Fault Refusal :=
  .next (if domOn s 65 then stopTimer s n.val else s)

/-- TIMER_EXPIRY: the command says that the expiry's tick has come (log 5). -/
def execTimerExpiry (n : Fin 64) (s : State) : Host.Outcome State Fault Refusal := .next (expireTimer s n.val)

/-- A timer takes the action of the fire at its cue input (R279, R281): HOP is the cue's hop count plus 1. -/
def timerAction (s : State) (n : Nat) : State :=
  match s.cinOf (0x400 + n) with
  | none => s
  | some c =>
    let s := clearCin s (0x400 + n)
    let hop := min 15 (c.hop.toNat + 1)
    match c.arg with
    | 0 => startTimer s n hop
    | 1 => stopTimer s n
    | 2 => if s.flag (Adr.tmrStat n) 0 then s else startTimer s n hop
    | _ => s

/-- TIMER_CUE_ACTION. -/
def execTimerCueAction (n : Fin 64) (s : State) : Host.Outcome State Fault Refusal := .next (timerAction s n.val)

/-! ### The metronome -/

/-- Numbers of the timers that run and count down (R301). -/
def countingTimers (s : State) : List Nat :=
  ((s.regs.filter (fun p => Adr.tmrStat 0 ≤ p.1 && p.1 < Adr.tmrStat 64 && (p.1 - Adr.tmrStat 0) % 0x20 == 0 && bit p.2 0)).map
    (fun p => (p.1 - Adr.tmrStat 0) / 0x20)).filter (fun n => s.field (Adr.tmrCtl n) 1 0 ≠ 2)

/-- The count advances by some ticks, and the COUNT of each running timer falls with it, to 0 at its expiry (R301). -/
def advance (s : State) (n : Nat) : State :=
  (countingTimers s).foldl (fun s i =>
    s.setReg (Adr.tmrCount i) (BitVec.ofNat 32 ((s.reg (Adr.tmrCount i)).toNat - n)))
    { s with metro := s.metro + BitVec.ofNat 48 n }

/-- Troupe watchdog counters that run, as troupe × 4 + core (R621). -/
def runningWatchdogs (s : State) : List Nat :=
  (List.range 128).filter (fun l => s.flag (Adr.twdCtl (l / 4) (l % 4)) 16 && !s.flag (Adr.twdStat (l / 4) (l % 4)) 16)

/-- One metronome tick with no command: the count, and at each millisecond the watchdog counters, advance (log 1). While PORST_N is low,
and in house state OFF, the AON block counts crystal time into the time of day instead (R520, R555). -/
def tick (s : State) : State :=
  if s.boot.porst || s.field Adr.pmStat 2 0 = 5 then { s with sm := { s.sm with timeOff := s.sm.timeOff + 1 } }
  else if !s.flag (Adr.xcStat 1) 0 then s
  else
    let s := advance s 1
    if s.metro.toNat % 1000 ≠ 0 then s
    else (runningWatchdogs s).foldl (fun s l =>
      let a := Adr.twdStat (l / 4) (l % 4)
      s.setField a 15 0 (s.field a 15 0 - 1)) s

/-- A 125 ms boundary with the crystal present (R59, R60, R63): the count has advanced by exactly 125,000 since the last one, and by
at most 2 more or fewer while ticks are still owed. `ticks` is what the oscillator gave in the interval. The trim's new code is a free
value. The count never goes backwards. -/
def boundary (s : State) (ticks : Nat) : State :=
  if !s.time.xtal || !s.flag (Adr.xcStat 1) 0 then s
  else
    let adj : Int := max (-2) (min 2 s.time.debt)
    let target := s.time.lastB.toNat + (125000 + adj).toNat
    let s := { s with time := { s.time with debt := s.time.debt - adj, lastB := BitVec.ofNat 48 target } }
    let s := if s.metro.toNat < target then advance s (target - s.metro.toNat) else s
    let s := s.setFlag Adr.metroStat 0 true
    let s := if 125002 < ticks || ticks < 124998 then s.setFlag Adr.metroStat 2 true else s
    let (s, v) := s.fresh
    s.setField Adr.metroTrim 11 0 (bits v 11 0)

/-- METRONOME_BOUNDARY. -/
def execMetronomeBoundary (ticks : BitVec 32) (s : State) : Host.Outcome State Fault Refusal := .next (boundary s ticks.toNat)

/-- No crystal edge for 64 ticks (R63): the metronome free-runs, and the SM logs the loss; the record's code is a free value. -/
def loseCrystal (s : State) : State :=
  if !s.time.xtal then s
  else
    let s := ({ s with time := { s.time with xtal := false } }).setFlag Adr.metroStat 1 true
    let (s, v) := s.fresh
    let w := s.reg Adr.smNote
    logRecord s (noticeRec s (bits w 9 0) (bits w 15 12) 249 (bits v 7 0) (leBytes 7 (v.toNat / 256)))

/-- XTAL_LOST. -/
def execXtalLost (s : State) : Host.Outcome State Fault Refusal := .next (loseCrystal s)

/-- Crystal edges return (R63): what the count is off by is a free value, brought back at the boundaries. -/
def returnCrystal (s : State) : State :=
  if s.time.xtal then s
  else
    let (s, v) := s.fresh
    let off : Int := (bits v 31 0 : Nat)
    { s with time := { s.time with xtal := true, debt := if bit v 32 then off else -off, lastB := s.metro } }

/-- CRYSTAL_RETURN. -/
def execCrystalReturn (s : State) : Host.Outcome State Fault Refusal := .next (returnCrystal s)

/-- A type and body written as the next field fuse record (R380); 128 records are held. -/
def addFuseRecord (s : State) (ty body : Nat) : State :=
  if s.sm.records.length < 128 then { s with sm := { s.sm with records := s.sm.records ++ [(ty, body)] } } else s

/-- The active AON oscillator is retired and the metronome moves to the next spare (R381). At most 4 ticks, a free value, are lost and
owed. With no spare left the part has no other source, and nothing changes. -/
def failover (s : State) : State :=
  let o := s.field Adr.metroStat 15 8
  if 2 ≤ o then s
  else
    let s := addFuseRecord (s.setField Adr.metroStat 15 8 (o + 1)) 5 o
    let (s, v) := s.fresh
    { s with time := { s.time with debt := s.time.debt + ((bits v 7 0 % 5 : Nat) : Int) } }

/-- OSCILLATOR_FAILOVER. -/
def execOscillatorFailover (s : State) : Host.Outcome State Fault Refusal := .next (failover s)

/-- A read of METRO_LO latches METRO_HI (R62). -/
def readMetroLo (s : State) : State × Word :=
  (s.setField Adr.metroHi 15 0 (s.metro.toNat / 2 ^ 32), metroLo s)

/-- METRO_LO_READ. -/
def execMetroLoRead (s : State) : Host.Outcome State Fault Refusal := .next (readMetroLo s).1

/-! ### The pacing ring -/

/-- BEATPER after a window of 32 ticks in which the ring made some cycles (R55, R56): no cycle at all gives the highest bound. -/
def beatper (count : Nat) : Word :=
  let p := if count = 0 then 20001 else (32000000 + count / 2) / count
  if p < 1000 then BitVec.ofNat 32 (1000 + 2 ^ 30 + 2 ^ 31)
  else if 20000 < p then BitVec.ofNat 32 (20000 + 2 ^ 30 + 2 ^ 31)
  else BitVec.ofNat 32 (p + 2 ^ 31)

/-- BEATPER_WINDOW: a window ends on a powered core (R55). -/
def execBeatperWindow (core : CoreId) (beats : BitVec 16) (s : State) : Host.Outcome State Fault Refusal :=
  .next (if coreOn s core.val then s.setCore core.val { s.core core.val with per := beatper beats.toNat } else s)

end Sys2Proof.Machine
end

