-- ==== Sys2Proof/Machine/Units.lean ====
section
/-! DEFINITION. Units as groups: children (R39), hold and release (R35, R36, R43, R609 to R612), and the writes of UIB_FAULT. -/

namespace Sys2Proof.Machine

/-- True for the UIB of a player core or a lead, which has roles of its own. -/
def uibIsCore (u : Nat) : Bool := 64 ≤ u && u ≤ 199

/-- Core number of a core's UIB: a logical player, or 128 + c. -/
def coreOfUib (u : Nat) : Nat := if u < 192 then u - 64 else 128 + (u - 192)

/-- UIB index of the child at a bit of a unit's masks (R39); none where it has no UIB. -/
def childAt (u b : Nat) : Option Nat :=
  if u = 0 then (if b < 8 then some (1 + b) else if 16 ≤ b && b < 27 then some (240 + (b - 16)) else none)
  else if u ≤ 8 then (if b < 4 then some (16 + (u - 1) * 4 + b) else if b = 16 then some (192 + (u - 1)) else none)
  else if 16 ≤ u && u ≤ 47 then (if b < 4 then some (64 + (u - 16) * 4 + b) else if b = 16 then some (208 + (u - 16)) else none)
  else none

/-- Children of a unit that its UIB_CHILDMASK selects. -/
def selectedChildren (s : State) (u : Nat) : List Nat :=
  (List.range 27).filterMap (fun b => if s.flag (Adr.uibChildmask u) b then childAt u b else none)

/-- A core's roles that its ROLEMASK and CHILDMASK select. -/
def selectedOfCore (s : State) (u : Nat) : List Nat :=
  (rolesOf (coreOfUib u)).filter (fun r => s.flag (Adr.uibHold u) (4 + roleIn r) && s.flag (Adr.uibChildmask u) (roleIn r))

/-- A unit and the units beneath it that the masks select, to a depth (R43). -/
def selectedUnits (s : State) : Nat → Nat → List Nat
  | 0, u => [u]
  | n + 1, u => u :: (selectedChildren s u).flatMap (selectedUnits s n)

/-- Roles selected through the masks at or beneath a unit. -/
def selectedRoles (s : State) (u : Nat) : List Nat :=
  ((selectedUnits s 3 u).filter uibIsCore).flatMap (selectedOfCore s)

/-- HELD of a unit (R35, R41): every selected role that is started is held, and there is one. -/
def unitHeld (s : State) (u : Nat) : Bool :=
  let l := (selectedRoles s u).filter (fun r => (s.role r).started)
  !l.isEmpty && l.all (fun r => (s.role r).onHold)

/-- True for the units whose HOLD can be set: house blocks other than LS0 and LS1 have none (R36). -/
def holdable (u : Nat) : Bool := u ≤ 241

/-- A hold or release of a unit (R43): HOLD is written at it and at every unit its masks select, and every selected role is asked. -/
def holdUnit (s : State) (u : Nat) (h : Bool) : State :=
  let s := ((selectedUnits s 3 u).filter holdable).foldl (fun s v => s.setFlag (Adr.uibHold v) 0 h) s
  (selectedRoles s u).foldl (fun s r => s.modRole r (fun x => { x with holdReq := h })) s

/-- A write of UIB_HOLD with the authority of R36: a core's ROLEMASK first, then HOLD. -/
def writeHold (s : State) (u : Nat) (v : Word) : State :=
  if !holdable u then s
  else
    let s := if uibIsCore u then s.setField (Adr.uibHold u) 7 4 (bits v 7 4 &&& (if u < 192 then 0xF else 0x3)) else s
    holdUnit s u (bit v 0)

/-- True for an agent whose writes count as DBT or SM writes (R36, R605). -/
def isSmOrDbt : Agent → Bool
  | .role _ d => d
  | .link => true
  | .sm => true

/-- UIB_HOLD_WRITE: any other agent's write is ignored (R36). -/
def execUibHoldWrite (a : Agent) (u : Fin 256) (v : Word) (s : State) : Host.Outcome State Fault Refusal :=
  .next (if uibPresent u.val && isSmOrDbt a then writeHold s u.val v else s)

/-- Address of the troupe watchdog status of a player core. -/
def twdStatAdr (l : Nat) : Nat := Adr.twdStat (l / 4) (l % 4)

/-- The watchdog of a player core freezes while a role of it is held, and reloads when the last is released (R621). -/
def watchHold (s : State) (core : Nat) : State :=
  if 128 ≤ core then s
  else
    let a := twdStatAdr core
    if (rolesOf core).any (fun r => (s.role r).onHold) then s.setFlag a 16 true
    else if s.flag a 16 then (s.setFlag a 16 false).setField a 15 0 (s.field (Adr.twdCtl (core / 4) (core % 4)) 15 0)
    else s

/-- Address of a class 0x4 load that a role has issued (R129). -/
def loadAddr (x : Role) (w : Word) : Nat :=
  let off := ((x.greg (bits w 13 9)).toNat + ((BitVec.ofNat 9 (bits w 8 0)).signExtend 32).toNat * 2 ^ bits w 20 19) % 2 ^ 32
  (x.tick (bits w 23 21)).addr off

/-- True while a role's load from METRO_LO, the one register with a read side effect, is outstanding (R192, R609). -/
def rsLoadOut (x : Role) : Bool :=
  match x.busy with
  | .load w => Ulufy.cls w == 4 && loadAddr x w == Adr.metroLo
  | _ => false

/-- PEND of a unit's cue input clears once its hold or release is done (R38). -/
def settleCue (s : State) (u : Nat) : State :=
  let a := Adr.uibCuein u
  let l := (selectedRoles s u).filter (fun r => (s.role r).started)
  let done := match s.field a 17 16 with
    | 0 => l.all (fun r => (s.role r).onHold)
    | 1 => l.all (fun r => !(s.role r).onHold)
    | _ => false
  if s.flag a 13 && done then s.setFlag a 13 false else s

/-- A role enters hold (R609, R610): its work in progress is abandoned and its reservation cleared. -/
def enterHold (s : State) (r : Nat) : State :=
  let (s, gone) := abandonWork s r 1
  let s := s.modRole r (fun x => { x with onHold := true, resv := none, fetchQ := if gone then [] else x.fetchQ })
  (uibChain (uibOf r)).foldl settleCue (watchHold s (coreOf r))

/-- HOLD_ENTRY. -/
def execHoldEntry (r : RoleId) (s : State) : Host.Outcome State Fault Refusal :=
  let x := s.role r.val
  .next (if x.started && x.holdReq && !x.onHold && !x.frozen && !rsLoadOut x then enterHold s r.val else s)

/-- A ticket register that a released role loses: one that holds CID 0xFFF (R608). -/
def dropDbt (t : Ticket) : Ticket := if t.cid = 0xFFF then Ticket.null else t

/-- A held role is released (R608, R612): it resumes at its PC, with the debug authority gone from its ticket registers. -/
def releaseRole (s : State) (r : Nat) : State :=
  let s := s.modRole r (fun x =>
    let x := (List.range 8).foldl (fun x n => x.setT n (dropDbt (x.tick n))) x
    { x with ht := dropDbt x.ht, tst := dropDbt x.tst, srt := dropDbt x.srt, onHold := false, prompt := false })
  (uibChain (uibOf r)).foldl settleCue (watchHold s (coreOf r))

/-- HOLD_RELEASE. -/
def execHoldRelease (r : RoleId) (s : State) : Host.Outcome State Fault Refusal :=
  let x := s.role r.val
  .next (if x.onHold && !x.holdReq then
      releaseRole (if x.prompt then endPrompt (abandonWork s r.val 1).1 r.val 5 0 0 else s) r.val
    else s)

/-- A write of UIB_FAULT clears summary bits at the unit and beneath it (R42). -/
def execUibFaultClear (u : Fin 256) (v : Word) (s : State) : Host.Outcome State Fault Refusal :=
  .next (if uibPresent u.val then clearFaultBits s u.val v else s)

/-- A write of CLRCNT clears COUNT of the unit (R32). -/
def execUibFaultClrcnt (u : Fin 256) (s : State) : Host.Outcome State Fault Refusal :=
  .next (if uibPresent u.val then s.setField (Adr.uibFault u.val) 31 16 0 else s)

/-- A write of UIB_CUEIN (R37, R38): ACTION 0b00 or 0b01 needs the authority of R36, and any write clears EVCNT. -/
def writeCuein (s : State) (a : Agent) (u : Nat) (v : Word) : State :=
  let p := Adr.uibCuein u
  let s := ((s.setField p 9 0 (bits v 9 0)).setFlag p 12 (bit v 12)).setField p 31 24 0
  let s := if bit v 14 then s.setFlag p 14 false else s
  if bits v 17 16 ≤ 1 && !isSmOrDbt a then s else s.setField p 17 16 (bits v 17 16)

/-- UIB_CUEIN_WRITE. -/
def execUibCueinWrite (a : Agent) (u : Fin 256) (v : Word) (s : State) : Host.Outcome State Fault Refusal :=
  .next (if uibPresent u.val then writeCuein s a u.val v else s)

end Sys2Proof.Machine
end

