-- ==== Sys2Proof/Machine/Cxl.lean ====
section
/-! DEFINITION. The CXL controller (R402 to R424): requests and how they end, failed writes, the mirror, bring-up, errors, and the
power-fail flush. -/

namespace Sys2Proof.Machine

/-! ### Notices and requests -/

/-- A CXL NOTICE (R423): code, port, and window. -/
def cxlNotice (s : State) (code port win : Nat) : State :=
  notice s 243 code (leBytes 1 port ++ leBytes 2 (if port < 2 then (s.reg (Adr.cxlErr port)).toNat % 2 ^ 16 else 0) ++ leBytes 2 win)

/-- Request n of a port. -/
def reqOf (s : State) (p n : Nat) : Option CxlReq := Sparse.get (fun _ => none) s.cxl.reqs (p * 512 + n)
/-- The state with request n of a port replaced. -/
def setReq (s : State) (p n : Nat) (q : Option CxlReq) : State :=
  { s with cxl := { s.cxl with reqs := Sparse.put (fun _ => none) s.cxl.reqs (p * 512 + n) q } }

/-- The lowest free request number of a port; none while all 512 are outstanding (R410). -/
def freeReq (s : State) (p : Nat) : Option Nat := (List.range 512).find? (fun n => (reqOf s p n).isNone)

/-- A load's request for the line of an address (R410, R418); none while no number is free. -/
def loadReq (s : State) (who : CxlWho) (a : Nat) : Option State :=
  match readPort s (winOf a) (winOff a) with
  | none => some s
  | some p => (freeReq s p).map (fun n => setReq s p n (some ⟨who, a / 64 * 64, none, false⟩))

/-- A write's requests for the line of an address, one to each port it goes to (R410, R418); none while a number is lacking. -/
def writeReq (s : State) (who : CxlWho) (a : Nat) : Option State :=
  match writePorts s (winOf a) (winOff a) with
  | [p] => (freeReq s p).map (fun n => setReq s p n (some ⟨who, a / 64 * 64, none, false⟩))
  | [p, q] =>
    match freeReq s p, freeReq s q with
    | some n, some m =>
      some (setReq (setReq s p n (some ⟨who, a / 64 * 64, some m, false⟩)) q m (some ⟨who, a / 64 * 64, some n, false⟩))
    | _, _ => none
  | _ => some s

/-- True while a load of a role has a request outstanding. -/
def loadOutstanding (s : State) (r : Nat) : Bool :=
  s.cxl.reqs.any (fun e => match e.2 with
    | some q => q.who == .load r
    | none => false)

/-! ### Failed writes -/

/-- Unflipped or flipped, an area-9 entry of a line leaves its staging when the line enters the failed-line table (R416). -/
def releaseStaged (s : State) (a : Nat) : State :=
  showFree (s.setStaged 9 ((s.staged 9).filter (fun e => !(e.flipped && e.wing.dw * 8 / 64 == a / 64)))) 9

/-- The line of a failed write enters the failed-line table with WMASK clear (R415), or fails its window when the table is full (R417). -/
def enterFailed (s : State) (a : Nat) : State :=
  let fill := fun (s : State) (i : Nat) =>
    (s.setReg (Adr.cxlFail0 i) (BitVec.ofNat 32 (a % 2 ^ 32 / 64 * 64 + 1))).setReg (Adr.cxlFail1 i) (BitVec.ofNat 32 (a / 2 ^ 32 % 2 ^ 16))
  match failEntry s a with
  | some i => fill s i
  | none =>
    match (List.range 64).find? (fun i => !s.flag (Adr.cxlFail0 i) 0) with
    | some i =>
      let s := fill s i
      (s.setField Adr.cxlFailcnt 6 0 (s.field Adr.cxlFailcnt 6 0 + 1)).incField Adr.cxlFailcnt 31 16
    | none => cxlNotice (s.setFlag (Adr.cxlWin (winOf a)) 15 true) 0x36 0xFF (winOf a)

/-- Poison written to the devices that still respond (R415 step 2). -/
def poisonLine (s : State) (a : Nat) : State :=
  (writePorts s (winOf a) (winOff a)).foldl (fun s p =>
    match dpaOf s p (winOf a) (winOff a / 64 * 64) with
    | none => s
    | some d => (List.range 8).foldl (fun s i => setCwAt s (dpaKey p d / 8 + i) ⟨0, true⟩) s) s

/-- A compressor's write that failed, kept for its close engine (R449). -/
def hcWriteFail (s : State) (h ring : Nat) (a : Nat) : State := { s with hcFail := s.hcFail ++ [(h, ring, a)] }

/-- A write that failed on every copy it was sent to (R415). -/
def failWrite (s : State) (who : CxlWho) (a : Nat) : State :=
  let s := releaseStaged (poisonLine (enterFailed s a) a) a
  let s := match who with
    | .store r pc => lateError s r 1 a (some pc) none
    | .writeback r => lateError s r 1 a none none
    | .curtain r sid => (lateError s r 2 a none (some sid)).incField (Adr.curErr 9) 15 0
    | .hc h ring => hcWriteFail s h ring a
    | .load _ | .dropped => s
  cxlNotice s 0x35 0xFF (winOf a)

/-! ### The mirror -/

/-- The SM's AON record of the good port (R419): 2 for both, none when it is lost. -/
def recordGood (s : State) (p : Option Nat) : State := { s with sm := { s.sm with mirrorRec := p } }

/-- The mirror loses a port (R418): from BOTH to ONLY on the other, from a resync to the survivor. A mirror that loses its last good
port is FAILED. A later copy starts anew. -/
def mirrorLose (s : State) (p : Nat) : State :=
  if winC s ≠ 2 then s
  else
    let s := { s with cxl := { s.cxl with pos := 0 } }
    let only := fun (s : State) (q : Nat) => cxlNotice (recordGood (s.setField Adr.cxlMir 2 0 (2 + q)) (some q)) 0x33 p 2
    match mirState s with
    | 1 => only s (1 - p)
    | 2 => if p = 0 then s.setField Adr.cxlMir 2 0 6 else s
    | 3 => if p = 1 then s.setField Adr.cxlMir 2 0 6 else s
    | 4 => if p = 0 then only s 1 else s.setField Adr.cxlMir 2 0 6
    | 5 => if p = 1 then only s 0 else s.setField Adr.cxlMir 2 0 6
    | _ => s

/-- The copy to a port starts (R419), from the offset that KEEP-ALL interrupted (R629) or from 0. -/
def startResync (s : State) (p : Nat) : State := (s.setField Adr.cxlMir 2 0 (4 + p)).setField Adr.cxlMir 27 8 (s.cxl.pos / 2 ^ 20)

/-- A port returns while the mirror runs on the other: the copy starts (R419). -/
def mirrorReturn (s : State) (p : Nat) : State :=
  if winC s = 2 && mirState s = 3 - p && s.sm.mirrorRec.isSome then startResync s p else s

/-! ### How a request ends -/

/-- How a request ends: normally, with poison, or with an error of a vector-8 detail. -/
inductive ReqEnd where
  | ok
  | poison
  | failed (detail : Byte)
deriving DecidableEq, Repr

/-- The error a load's role takes at its response. -/
def setLoadErr (s : State) (r a : Nat) (e : ReqEnd) : State :=
  match e with
  | .ok => s
  | .poison => s.modRole r (fun x => { x with loadErr := some (2, a) })
  | .failed d => s.modRole r (fun x => { x with loadErr := some (d, a) })

/-- A request of a port ends (R410, R413, R415, R418). -/
def endReq (s : State) (p n : Nat) (e : ReqEnd) : State :=
  match reqOf s p n with
  | none => s
  | some q =>
    let s := setReq s p n none
    match q.who with
    | .dropped => s
    | .load r =>
      if e = .ok then s
      else if winOf q.addr = 2 && winC s = 2 && mirState s = 1 && !q.good && linkUp s (1 - p) then
        match freeReq s (1 - p) with
        | some m => setReq s (1 - p) m (some { q with good := true })
        | none => setLoadErr s r q.addr e
      else setLoadErr s r q.addr e
    | _ =>
      if e = .ok then
        match q.mate with
        | some m => match reqOf s (1 - p) m with
          | some t => setReq s (1 - p) m (some { t with mate := none, good := true })
          | none => s
        | none => s
      else
        match q.mate with
        | some m =>
          let s := mirrorLose s p
          match reqOf s (1 - p) m with
          | some t => setReq s (1 - p) m (some { t with mate := none })
          | none => s
        | none => if q.good then mirrorLose s p else failWrite s q.who q.addr

/-- Every request outstanding on a port ends with an error (R412 bits 12 to 14). -/
def endAll (s : State) (p : Nat) : State :=
  (List.range 512).foldl (fun s n => endReq s p n (.failed 3)) s

/-- Agent id of R316 of a request's maker. -/
def reqAgent (q : Option CxlReq) : Nat :=
  match q with
  | some ⟨.load r, _, _, _⟩ | some ⟨.store r _, _, _, _⟩ | some ⟨.writeback r, _, _, _⟩ | some ⟨.curtain r _, _, _, _⟩ => r
  | _ => 0

/-- CXL_COMPLETION. -/
def execCxlCompletion (p : Fin 2) (req : Fin 512) (status : CxlStatus) (s : State) : Host.Outcome State Fault Refusal :=
  .next (
    match reqOf s p.val req.val with
    | none => cxlError s p.val 10 none 0
    | some q =>
      let ag := reqAgent (some q)
      match status with
      | .ok => endReq s p.val req.val .ok
      | .poison =>
        match q.who with
        | .load _ | .dropped => endReq (poisonReceived s p.val q.addr ag) p.val req.val .poison
        | _ => endReq (cxlError s p.val 11 (some q.addr) ag) p.val req.val (.failed 3)
      | .error => endReq (cxlError s p.val 11 (some q.addr) ag) p.val req.val (.failed 3))

/-- A completion timeout (R412 bit 8, R413, R418). -/
def timeoutReq (s : State) (p n : Nat) : State :=
  match reqOf s p n with
  | none => s
  | some q => endReq (addScore (cxlError s p 8 (some q.addr) (reqAgent (some q))) p 64) p n (.failed 4)

/-- CXL_COMPLETION_TIMEOUT. -/
def execCxlCompletionTimeout (p : Fin 2) (req : Fin 512) (s : State) : Host.Outcome State Fault Refusal :=
  .next (timeoutReq s p.val req.val)

/-! ### Link events -/

/-- PERSIST of a window (R421). The device's GPF phase 2 time is taken as within its limit for a persistent device. -/
def setPersist (s : State) : State :=
  let good := fun p => linkUp s p && decide (4 ≤ s.field (Adr.cxlLink p) 6 3) &&
    (match (if p = 0 then s.cxl.dev0 else s.cxl.dev1) with
      | some d => d.persistent
      | none => false)
  let serving := fun w => if w < 2 then [w] else [0, 1]
  (List.range 3).foldl (fun s w => s.setFlag (Adr.cxlWin w) 14 (s.flag (Adr.cxlWin w) 13 && (serving w).all good)) s

/-- A link leaves L0 with no failure behind it (R549): the port is brought up anew later, and the AON record says how the mirror comes
back. -/
def quietDown (s : State) (p : Nat) : State :=
  if !linkUp s p then s
  else
    let s := (s.setField (Adr.cxlLink p) 15 0 0).setField Adr.cxlMir 2 0 0
    let serves := fun w => if w < 2 then w == p else true
    (List.range 3).foldl (fun s w => if serves w then s.setField (Adr.cxlWin w) 14 13 0 else s) (endAll s p)

/-- A link goes down (R412): every request ends, the mirror loses the port, and the SM sends NOTICE 0x30. -/
def linkDown (s : State) (p : Nat) : State :=
  if !linkUp s p then s
  else
    let s := s.setField (Adr.cxlLink p) 7 0 0
    let s := if s.field (Adr.cxlLink p) 9 8 = 0 then s else s.setField (Adr.cxlLink p) 9 8 0
    let s := s.setField (Adr.cxlLink p) 15 12 0
    let s := setPersist (endAll (mirrorLose s p) p)
    let s := match s.cxl.gpf with
      | .phase _ _ => s.setFlag Adr.cxlGpf 3 true
      | _ => s
    cxlNotice s 0x30 p 0

/-- CXL_LINK_DOWN. -/
def execCxlLinkDown (p : Fin 2) (s : State) : Host.Outcome State Fault Refusal :=
  .next (if linkUp s p.val then linkDown (cxlError s p.val 12 none 0) p.val else s)

/-- A link or protocol error (R412). -/
def linkError (s : State) (p b : Nat) (req : Option Nat) : State :=
  let q := req.bind (reqOf s p)
  let s' := cxlError s p b (q.map (fun q => q.addr)) (reqAgent q)
  if b = 6 || b = 7 then s
  else if b = 1 then addScore (s'.incField (Adr.cxlHealth p) 31 16) p 1
  else if b = 5 then (cxlNotice (setPersist (s'.setFlag (Adr.cxlLink p) 7 true)) 0x32 p 0)
  else if b < 8 then s'
  else if b = 8 then match req with
    | some n => timeoutReq s p n
    | none => addScore s' p 64
  else if b = 9 then match req with
    | some n => endReq (addScore s' p 16) p n .poison
    | none => addScore s' p 16
  else if b = 10 then s'
  else if b = 11 then match req with
    | some n => endReq s' p n (.failed 3)
    | none => s'
  else if b = 13 then
    let s := cxlNotice ((addScore s' p 64).setField (Adr.cxlLink p) 9 8 3) 0x37 p 0
    linkDown s p
  else linkDown s' p

/-- CXL_LINK_ERROR. -/
def execCxlLinkError (p : Fin 2) (b : Fin 15) (req : Option (Fin 512)) (s : State) : Host.Outcome State Fault Refusal :=
  .next (linkError s p.val b.val (req.map (fun n => n.val)))

/-! ### Bring-up -/

/-- True for a port that exists in the mode in force (R403). -/
def portExists (s : State) (p : Nat) : Bool :=
  match s.field Adr.cxlCfg 1 0 with
  | 1 => true
  | 2 => p == 0
  | _ => false

/-- Capacity of a port's device in 256 MiB units. -/
def devCap (s : State) (p : Nat) : Nat :=
  match (if p = 0 then s.cxl.dev0 else s.cxl.dev1) with
  | some d => d.cap.toNat
  | none => 0

/-- Ranges overlap. -/
def overlaps (a n b m : Nat) : Bool := a < b + m && b < a + n && n ≠ 0 && m ≠ 0

/-- Enabled decoder n of a port: base, size, DPA and window use. -/
def decoder (s : State) (p n : Nat) : Option (Nat × Nat × Nat × Nat) :=
  let m := s.reg (Adr.hdmMap p n)
  let c := s.reg (Adr.hdmCtl p n)
  if bit c 14 then some (bits m 11 0, bits m 28 16, bits c 11 0, bits c 13 12) else none

/-- Window offsets that a decoder's size spans, in 256 MiB units: an interleaved one's device bytes lie on both ports (R408). -/
def decSpan (s : State) (w z : Nat) : Nat := if w = 1 && winC s = 1 then 2 * z else z

/-- The lowest rule of R407 that an enabled decoder breaks beside the other enabled ones. The capacity counts where the device is known; a
decoder of window C whose match is not enabled yet breaks none, and waits for it (log 60). -/
def decoderRule (s : State) (p n : Nat) : Option Nat :=
  match decoder s p n with
  | none => none
  | some (b, z, d, w) =>
    let span := decSpan s w z
    let known := if p = 0 then s.cxl.dev0.isSome else s.cxl.dev1.isSome
    let others := fun q => ((List.range 4).filter (fun m => q ≠ p || m ≠ n)).filterMap (decoder s q)
    let offs := (others p ++ (if w = 1 then ((List.range 4).filter (· ≠ n)).filterMap (decoder s (1 - p)) else [])).filter (fun x => x.2.2.2 == w)
    if w = 1 && winC s = 0 then some 1
    else if offs.any (fun x => overlaps b span x.1 (decSpan s w x.2.1)) then some 2
    else if (others p).any (fun x => overlaps d z x.2.2.1 x.2.1) || (known && devCap s p < d + z) then some 3
    else if w = 1 && (match decoder s (1 - p) n with
      | some (b', z', _, w') => !(b == b' && z == z' && w' == 1)
      | none => false) then some 4
    else if 4096 < b + span then some 5
    else none

/-- True where the enabled decoders of both ports keep the rules of R407. -/
def decodersLegal (s : State) : Bool := [0, 1].all (fun p => [0, 1, 2, 3].all (fun n => (decoderRule s p n).isNone))

/-- True for an enabled decoder that can be in force: one of window C needs its match (R407 rule 4). -/
def decoderMatched (s : State) (p n : Nat) : Bool :=
  match decoder s p n with
  | some (_, _, _, w) => w != 1 || (decoder s (1 - p) n).isSome
  | none => false

/-- Window C comes up as a mirror (R419): as the AON record says, and as ONLY0 where the record is lost. While both ports are good, or a
copy is to go on, it waits for the second port unless that one is known to stay down (`alone`). -/
def mirrorUp (s : State) (alone : Bool) : State :=
  let up := fun p => linkUp s p && s.flag (Adr.cxlLink p) 10
  if winC s ≠ 2 || mirState s ≠ 0 then s
  else
    match s.sm.mirrorRec with
    | none => if up 0 then s.setField Adr.cxlMir 2 0 2 else s
    | some g =>
      if up 0 && up 1 then (if g = 2 then s.setField Adr.cxlMir 2 0 1 else startResync s (1 - g))
      else
        let p := if g = 2 then (if up 0 then 0 else 1) else g
        if !up p || (!alone && (g = 2 || s.cxl.pos ≠ 0)) then s
        else recordGood { s.setField Adr.cxlMir 2 0 (2 + p) with cxl := { s.cxl with pos := 0 } } (some p)

/-- The enabled decoders are committed where they are legal, and each window's capacity and READY follow (R404 step 7, R407 to R409).
An illegal set is left as it was. -/
def commitDecoders (s : State) (alone : Bool) : State :=
  if !decodersLegal s then s
  else
    let s := [0, 1].foldl (fun s p => [0, 1, 2, 3].foldl (fun s n =>
      s.setFlag (Adr.hdmCtl p n) 15 (decoderMatched s p n)) s) s
    let sum := fun p w => [0, 1, 2, 3].foldl (fun t n => match decoder s p n with
      | some (_, z, _, w') => if w' = w && decoderMatched s p n then t + z else t
      | none => t) 0
    let cap : Nat → Nat := fun w => if w < 2 then sum w 0 else if winC s = 1 then sum 0 1 + sum 1 1 else sum 0 1
    let s := (List.range 3).foldl (fun s w => s.setField (Adr.cxlWin w) 12 0 (cap w)) s
    let s := if cap 2 = 0 then s else mirrorUp s alone
    let dev := fun (w : Nat) => s.flag (Adr.cxlLink w) 10
    let ready := fun (w : Nat) => if w < 2 then dev w else if winC s = 2 then mirState s ≠ 0 && mirState s ≠ 6 else dev 0 && dev 1
    setPersist ((List.range 3).foldl (fun s w => s.setFlag (Adr.cxlWin w) 13 (ready w && cap w ≠ 0)) s)

/-- Steps 3 to 8 of bring-up on a trained link with a device (R404). -/
def identify (s : State) (p : Nat) : State :=
  match (if p = 0 then s.cxl.dev0 else s.cxl.dev1) with
  | none => s
  | some d =>
    if !linkUp s p then s
    else
      let s := ((s.setFlag (Adr.cxlLink p) 10 true).setField (Adr.cxlLink p) 31 16 d.cap.toNat).setField (Adr.cxlLink p) 9 8
        (if s.flag Adr.cxlCfg 6 then 2 else 0)
      let s := (s.setReg (Adr.cxlSerl p 0) (d.serial.setWidth 32)).setReg (Adr.cxlSerl p 1) ((d.serial >>> 32).setWidth 32)
      commitDecoders s false

/-- CXL_PORT_BRINGUP: the device that answers on a port of the mode in force; none for an absent or refused one (R404). -/
def execCxlPortBringup (p : Fin 2) (dev : Option CxlDevice) (s : State) : Host.Outcome State Fault Refusal :=
  .next (if portExists s p.val && domOn s 54 then
      let s := { s with cxl := if p.val = 0 then { s.cxl with dev0 := dev } else { s.cxl with dev1 := dev } }
      if dev.isNone && !linkUp s p.val then commitDecoders s true else identify s p.val
    else s)

/-- Lanes of a width code. -/
def lanes (w : Nat) : Nat :=
  match w with
  | 0 => 0
  | 1 => 1
  | 2 => 2
  | 3 => 4
  | _ => 8

/-- Training ends (R405): a link in L0 at some speed and width, or one that stays down. -/
def linkTrained (s : State) (p speed width : Nat) : State :=
  let full := if s.field Adr.cxlCfg 1 0 = 2 then 8 else 4
  let top := s.field Adr.cxlCfg 3 2 + 1
  if !portExists s p || !domOn s 54 || top < speed || full < lanes width then s
  else if speed = 0 || width = 0 then commitDecoders s true
  else
    let was := decide (0 < s.field (Adr.cxlLink p) 15 12)
    let down := decide (speed < top) || decide (lanes width < full)
    let s := ((s.setFlag (Adr.cxlLink p) 0 true).setField (Adr.cxlLink p) 2 1 speed).setField (Adr.cxlLink p) 6 3 (lanes width)
    let s := (s.setFlag (Adr.cxlLink p) 7 down).setField (Adr.cxlLink p) 15 12 0
    let s := mirrorReturn (identify s p) p
    let s := if was then cxlNotice s 0x31 p 0 else s
    let s := if down then cxlNotice s 0x32 p 0 else s
    setPersist s

/-- CXL_LINK_TRAINED. -/
def execCxlLinkTrained (p : Fin 2) (speed : Fin 4) (width : Fin 5) (s : State) : Host.Outcome State Fault Refusal :=
  .next (linkTrained s p.val speed.val width.val)

/-- A retrain attempt on a down port (R414): a different serial, or an absent device, sets SERMIS. A match makes the port ready to
train again. -/
def retrainAttempt (s : State) (p : Nat) (serial : Option (BitVec 64)) : State :=
  let n := s.field (Adr.cxlLink p) 15 12
  if linkUp s p || !portExists s p || 3 ≤ n || s.flag (Adr.cxlLink p) 11 || !s.flag (Adr.cxlLink p) 10 then s
  else
    let s := s.setField (Adr.cxlLink p) 15 12 (n + 1)
    let known : BitVec 64 := BitVec.ofNat 64 ((s.reg (Adr.cxlSerl p 0)).toNat + (s.reg (Adr.cxlSerl p 1)).toNat * 2 ^ 32)
    if serial = some known then s else cxlNotice (s.setFlag (Adr.cxlLink p) 11 true) 0x38 p 0

/-- CXL_RETRAIN_ATTEMPT. -/
def execCxlRetrainAttempt (p : Fin 2) (serial : Option (BitVec 64)) (s : State) : Host.Outcome State Fault Refusal :=
  .next (retrainAttempt s p.val serial)

/-! ### Resync and health -/

/-- One line of window C copied to the returning port, its poison with it (R419). -/
def resyncLine (s : State) : State :=
  let st := mirState s
  if st ≠ 4 && st ≠ 5 then s
  else
    let back := st - 4
    let o := s.cxl.pos
    let s := match dpaOf s back 2 o, dpaOf s (1 - back) 2 o with
      | some d, some e =>
        let s := setNatAt s (dpaKey back d) 64 (natAt s (dpaKey (1 - back) e) 64) (2 ^ 64 - 1)
        (List.range 8).foldl (fun s i => setCwAt s (dpaKey back d / 8 + i) (cwAt s (dpaKey (1 - back) e / 8 + i))) s
      | _, _ => s
    let o := o + 64
    let s := { s.setField Adr.cxlMir 27 8 (o / 2 ^ 20) with cxl := { s.cxl with pos := o } }
    if o < winCap s 2 then s else cxlNotice (recordGood (s.setField Adr.cxlMir 2 0 1) (some 2)) 0x34 back 2

/-- RESYNC_LINE_COPY. -/
def execResyncLineCopy (s : State) : Host.Outcome State Fault Refusal := .next (resyncLine s)

/-- HEALTH_SCORE_DECAY: each SCORE is halved (R418). -/
def execHealthScoreDecay (s : State) : Host.Outcome State Fault Refusal :=
  .next ([0, 1].foldl (fun s p => s.setField (Adr.cxlHealth p) 15 0 (s.field (Adr.cxlHealth p) 15 0 / 2)) s)

/-! ### Power fail -/

/-- Level 15 is presented to every started role that is not dark (R271). -/
def presentPfail (s : State) (b : Bool) : State :=
  s.roles.foldl (fun s e => s.modRole e.1 (fun x => { x with pfail := b && x.started && !coreDark s (coreOf e.1) })) s

/-- PFAIL_N asserts (R271, R355, R420): level 15, curtains before their point back out, and the drains begin. Outside RUN and NAP it only
sets PFAILSEEN (R567). -/
def pfailAssert (s : State) : State :=
  if s.cxl.pfail then s
  else if 1 < s.field Adr.pmStat 2 0 then { s.setFlag Adr.pmStat 4 true with cxl := { s.cxl with pfail := true, pfailAt := s.metro } }
  else
    let s := presentPfail s true
    let s := s.scenes.foldl (fun s e =>
      match (s.scene e.1).cur, (s.role e.1).busy with
      | some _, .curtain _ => (abandonWork s e.1 0).1
      | _, _ => s) s
    { s with cxl := { s.cxl with pfail := true, pfailAt := s.metro, gpf := if s.cxl.gpf = .idle then .drain else s.cxl.gpf } }

/-- True once the drains of R420 steps 1 to 4 are done: no flipped entry of window A, B or C, no modified lead line, no effect to
release and no write outstanding. -/
def gpfDrained (s : State) : Bool :=
  !(s.staged 9).any (fun e => e.flipped) && !s.caches.any (fun l => l.dirty) && !s.scenes.any (fun e => e.2.releasing) &&
    !s.cxl.reqs.any (fun e => match e.2 with
      | some q => match q.who with
        | .load _ | .dropped => false
        | _ => true
      | none => false)

/-- A device reports a phase of the flush complete, or its timeout passes (R420). 3 stands for a port with nothing left to report. -/
def gpfPhase (s : State) (port : Nat) (timeout : Bool) : State :=
  let first := fun p => if linkUp s p then 1 else 3
  let start : Option (Nat × Nat) := match s.cxl.gpf with
    | .idle => none
    | .drain => if gpfDrained s then some (first 0, first 1) else none
    | .phase 3 3 => none
    | .phase a b => some (a, b)
  match start with
  | none => s
  | some (a, b) =>
    let n := if port = 0 then a else b
    let s := if timeout && n = 1 then s.setFlag Adr.cxlGpf 2 true else if timeout && n = 2 then s.setFlag Adr.cxlGpf 3 true else s
    let n' := min 3 (n + 1)
    let a := if port = 0 then n' else a
    let b := if port = 0 then b else n'
    let a := if linkUp s 0 then a else 3
    let b := if linkUp s 1 then b else 3
    let s := { s.setFlag Adr.cxlGpf 0 true with cxl := { s.cxl with gpf := .phase a b } }
    if a = 3 && b = 3 then
      let s := ((s.setFlag Adr.cxlGpf 0 false).setFlag Adr.cxlGpf 1 true).setField Adr.cxlGpf 31 16
        (min 0xFFFF (s.metro.toNat - s.cxl.pfailAt.toNat))
      if s.cxl.pfail then s else { s with cxl := { s.cxl with gpf := .idle } }
    else s

/-- GPF_PHASE_COMPLETE. -/
def execGpfPhaseComplete (port : Fin 2) (timeout : Bool) (s : State) : Host.Outcome State Fault Refusal :=
  .next (gpfPhase s port.val timeout)

/-- PFAIL_N deasserts (R271, R422): level 15 is no longer presented; requests resume before step 4, or after step 6. -/
def pfailDeassert (s : State) : State :=
  if !s.cxl.pfail then s
  else
    let s := presentPfail s false
    { s with cxl := { s.cxl with pfail := false, gpf := match s.cxl.gpf with
        | .phase 3 3 | .drain | .idle => .idle
        | g => g } }

/-- PFAIL_DEASSERT. -/
def execPfailDeassert (s : State) : Host.Outcome State Fault Refusal := .next (pfailDeassert s)

end Sys2Proof.Machine
end

