-- ==== Sys2Proof/Machine/Directory.lean ====
section
/-! DEFINITION. The house directory of the lead caches (R210 to R213): lines held, written back, dropped and recalled. -/

namespace Sys2Proof.Machine

/-- Physical lead that carries the lead of a company (LMAP): 0 to 7 a home lead, 8 and 9 the spares. -/
def leadPhys (s : State) (c : Nat) : Nat :=
  match s.field Adr.lmap (2 * c + 1) (2 * c) with
  | 1 => 8
  | 2 => 9
  | _ => c

/-- Physical lead of a lead role. -/
def leadOf (s : State) (r : Nat) : Nat := leadPhys s (companyOf r)

/-- Logical lead roles carried by a physical lead. -/
def rolesOnLead (s : State) (p : Nat) : List Nat :=
  ((List.range 8).filter (fun c => leadPhys s c == p)).flatMap (fun c => [512 + 2 * c, 513 + 2 * c])

/-- True for an address in a CXL window. -/
def inCxl (a : Nat) : Bool :=
  match regionOf a with
  | .cxl _ => true
  | _ => false

/-- The line held by a lead's cache. -/
def cached (s : State) (lead : Nat) (ic : Bool) (line : Nat) : Option CLine :=
  s.caches.find? (fun l => l.lead == lead && l.icache == ic && l.line == line)

/-- True for a held line of a lead's cache. -/
def sameLine (lead : Nat) (ic : Bool) (line : Nat) (l : CLine) : Bool := l.lead == lead && l.icache == ic && l.line == line

/-- The caches with a line put last, which makes it the most recently used. -/
def putLine (s : State) (l : CLine) : State :=
  { s with caches := s.caches.filter (fun m => !sameLine l.lead l.icache l.line m) ++ [l] }

/-- A reservation of a lead's role in a line that leaves its cache is cleared (R211). -/
def dropResv (s : State) (lead line : Nat) : State :=
  (rolesOnLead s lead).foldl (fun s r => match (s.role r).resv with
    | some g => if g * 8 / 64 = line then s.modRole r (fun x => { x with resv := none }) else s
    | none => s) s

/-- A modified line written back with its granule tags (R212): a poisoned word keeps its poison in memory. -/
def writeBack (s : State) (l : CLine) : State :=
  let a := l.line * 64
  if winStoreError s a then failWrite s (.writeback l.writer) a
  else
    let s := (List.range 4).foldl (fun s g =>
      let bad := fun i => l.poison.getD (2 * g + i) false
      let mask := (if bad 0 then 0 else 0xFF) + (if bad 1 then 0 else 0xFF00)
      if mask = 0 then s
      else writeGranule s none (a / 16 + g) (leNat ((l.data.drop (16 * g)).take 16)) mask (l.tags.getD g false)) s
    (writeReq s (.writeback l.writer) a).getD s

/-- A held line is written back and stays, clean (R210). -/
def cleanLine (s : State) (l : CLine) : State :=
  if !l.dirty then s
  else
    let s := writeBack s l
    { s with caches := s.caches.map (fun m => if sameLine l.lead l.icache l.line m then { m with dirty := false } else m) }

/-- A held line leaves its cache, written back when it is modified. -/
def dropLine (s : State) (l : CLine) : State :=
  let s := if l.dirty then writeBack s l else s
  dropResv { s with caches := s.caches.filter (fun m => !sameLine l.lead l.icache l.line m) } l.lead l.line

/-- The directory before a load of a line by an agent that is not the lead named: modified copies are recalled (R210, R211). -/
def recallLoad (s : State) (own : Option Nat) (line : Nat) : State :=
  (s.caches.filter (fun l => l.line == line && l.dirty && own != some l.lead)).foldl
    (fun s l => dropResv (cleanLine s l) l.lead l.line) s

/-- The directory before a store to a line by an agent that is not the lead named: every copy of another lead, and the lead's own
I-cache copy, goes (R210). -/
def recallStore (s : State) (own : Option Nat) (line : Nat) : State :=
  (s.caches.filter (fun l => l.line == line && (l.icache || own != some l.lead))).foldl dropLine s

/-- Lines of CXL memory that an access touches. -/
def cxlLines (a n : Nat) : List Nat :=
  if inCxl a || inCxl (a + n - 1) then (List.range ((a + n - 1) / 64 - a / 64 + 1)).map (a / 64 + ·) else []

/-- The recalls before a load of n bytes. -/
def recallLoads (s : State) (own : Option Nat) (a n : Nat) : State := (cxlLines a n).foldl (fun s l => recallLoad s own l) s
/-- The recalls before a store of n bytes. -/
def recallStores (s : State) (own : Option Nat) (a n : Nat) : State := (cxlLines a n).foldl (fun s l => recallStore s own l) s

end Sys2Proof.Machine
end

