-- ==== Sys2Proof/Machine/Io.lean ====
section
/-! DEFINITION. The field I/O ring (R587 to R601, R649, R665): pads and their latch, serial channels, pulse units, ADCs and comparators. -/

namespace Sys2Proof.Machine

/-- Serial channel ch. -/
def serOf (s : State) (ch : Nat) : SerCh := Sparse.get (fun _ => SerCh.reset) s.ser ch
/-- The state with a serial channel replaced. -/
def setSer (s : State) (ch : Nat) (x : SerCh) : State := { s with ser := Sparse.put (fun _ => SerCh.reset) s.ser ch x }
/-- Pulse unit u. -/
def pulseOf (s : State) (u : Nat) : PulseU := Sparse.get (fun _ => PulseU.reset) s.pulse u
/-- The state with a pulse unit replaced. -/
def setPulse (s : State) (u : Nat) (x : PulseU) : State := { s with pulse := Sparse.put (fun _ => PulseU.reset) s.pulse u x }
/-- ADC a. -/
def adcOf (s : State) (a : Nat) : AdcSt := Sparse.get (fun _ => AdcSt.reset) s.adc a
/-- The state with an ADC replaced. -/
def setAdc (s : State) (a : Nat) (x : AdcSt) : State := { s with adc := Sparse.put (fun _ => AdcSt.reset) s.adc a x }

/-! ### Pads -/

/-- FUNC of a pad: 0 GPIO, 1 serial, 2 pulse unit (R588). -/
def padFunc (s : State) (p : Nat) : Nat := s.field (Adr.padOwn p) 14 13
/-- UNIT of a pad. -/
def padUnit (s : State) (p : Nat) : Nat := s.field (Adr.padOwn p) 19 15

/-- True where a unit of the ring acts: its domain is ON and its clock runs (R542, R545). -/
def ringOn (s : State) (a : Nat) : Bool := powered s a && clockOn s a

/-- Pin group of a serial channel: its own, its spare's route, or none (R592). -/
def groupOf (s : State) (ch : Nat) : Option Nat :=
  if 16 ≤ ch then (if s.flag (Adr.serRoute ch) 4 then some (s.field (Adr.serRoute ch) 3 0) else none)
  else if [16, 17].any (fun k => s.flag (Adr.serRoute k) 4 && s.field (Adr.serRoute k) 3 0 == ch) then none
  else some ch

/-- Pad of a signal of a channel: 0 TX, 1 RX, 2 DE or RTS, 3 CTS (R587). None where the channel has no pins. -/
def serPad (s : State) (ch sig : Nat) : Option Nat :=
  match groupOf s ch with
  | some g => if padFunc s (96 + 4 * g + sig) = 1 && padUnit s (96 + 4 * g + sig) = ch then some (96 + 4 * g + sig) else none
  | none => none

/-- MODE of a channel: 0 off, 1 UART, 2 HDLC, 3 CAN FD. -/
def serMode (s : State) (ch : Nat) : Nat := s.field (Adr.serCfg ch) 1 0

/-- True where a channel runs. -/
def serOn (s : State) (ch : Nat) : Bool :=
  s.flag (Adr.serCfg ch) 2 && serMode s ch ≠ 0 && ringOn s (Adr.serCfg ch)

/-- Output level of a pulse unit: active for DUTY clocks of a PWM period (R597). -/
def pulseLevel (s : State) (u : Nat) : Bool :=
  let ctl := s.reg (Adr.puCtl u)
  let active := bit ctl 2 && bits ctl 1 0 = 1 && decide ((s.reg (Adr.puCnt u)).toNat < (pulseOf s u).duty.toNat)
  active != bit ctl 3

/-- What a pad shows with the latch away (R589, R590, R597, R665). -/
def padLive (s : State) (p : Nat) : PadShow :=
  let w := s.reg (Adr.padCtl p)
  let pull := bits w 3 2
  match padFunc s p with
  | 1 =>
    let ch := padUnit s p
    let cfg := s.reg (Adr.serCfg ch)
    if !serOn s ch then ⟨false, false, pull⟩
    else
      match (p - 96) % 4 with
      | 0 => ⟨true, true, pull⟩
      | 2 =>
        if bits cfg 1 0 = 3 then ⟨false, false, pull⟩
        else if bit cfg 8 then ⟨(serOf s ch).line.isSome, true, pull⟩
        else if bit cfg 9 then ⟨(serOf s ch).rts, true, pull⟩
        else ⟨false, false, pull⟩
      | _ => ⟨false, false, pull⟩
  | 2 => if p % 2 = 0 then ⟨pulseLevel s (padUnit s p), true, pull⟩ else ⟨false, false, pull⟩
  | _ => ⟨bit w 0, bit w 1 && !(bit w 4 && bit w 0), pull⟩

/-- What a pad shows: its latch while it is latched (R524, R526), nothing while its bank has no supply (R649). -/
def padShows (s : State) (p : Nat) : PadShow :=
  if s.vioOff.getLsbD (p / 48) then PadShow.hiz
  else if s.flag (Adr.padCtl p) 6 then Sparse.get (fun _ => PadShow.hiz) s.padLatch p
  else padLive s p

/-- A pad latched in a state. -/
def latchPad (s : State) (p : Nat) (x : PadShow) : State :=
  ({ s with padLatch := Sparse.put (fun _ => PadShow.hiz) s.padLatch p x }).setFlag (Adr.padCtl p) 6 true

/-- The pad latch captures every pad (R524); a latched pad keeps its captured state. -/
def latchPads (s : State) : State :=
  (List.range 192).foldl (fun t p => if s.flag (Adr.padCtl p) 6 then t else latchPad t p (padShows s p)) s

/-- A latched pad is released (R524, R526). -/
def releasePad (s : State) (p : Nat) : State :=
  if s.flag (Adr.padCtl p) 6 then
    ({ s with padLatch := Sparse.put (fun _ => PadShow.hiz) s.padLatch p PadShow.hiz }).setFlag (Adr.padCtl p) 6 false
  else s

/-! ### Producers -/

/-- A step of a producer at its queue (R316, R323): none while it stalls; an unpowered queue discards the word. -/
def produce (s : State) (agent q : Nat) (x : PushW) : Option State :=
  if !domOn s (queueDomain q) then some s
  else
    match x with
    | .opn => if openReady s q agent then some (openPacket s q agent) else none
    | .word w _ => if pushReady s q agent then some (push s q agent w false) else none
    | .cls => some (closePacket s q agent)
    | .done _ => some s

/-- Received bytes that a channel's buffer holds. -/
def rxBytes (l : List PushW) : Nat :=
  (l.map (fun x => match x with
    | .word _ n => n
    | _ => 0)).sum

/-- Payload of a serial event (R601). -/
def serPayload (s : State) (ch count hdr : Nat) : List Byte :=
  leBytes 2 count ++ [BitVec.ofNat 8 hdr, 0] ++ leBytes 2 (s.field (Adr.serRxq ch) 8 0)

/-- A serial event. -/
def serEvent (s : State) (ch e : Nat) (hop : BitVec 4) (payload : List Byte) : State :=
  raiseEvent s (0x100 + ch * 8 + e) hop payload none

/-- RTS of a channel follows its receive buffer (R665). -/
def setRts (s : State) (ch : Nat) : State :=
  let c := serOf s ch
  let n := rxBytes c.rx
  setSer s ch { c with rts := if 56 ≤ n then true else if n ≤ 48 then false else c.rts }

/-- A channel's producer pushes what its queue accepts (R595, R596). -/
def drainRx (s : State) (ch : Nat) : List PushW → State
  | [] => setSer s ch { serOf s ch with rx := [] }
  | x :: rest =>
    match produce s (0x300 + ch) (s.field (Adr.serRxq ch) 8 0) x with
    | none => setSer s ch { serOf s ch with rx := x :: rest }
    | some s =>
      drainRx (match x with
        | .done p => serEvent s ch 1 0 p
        | _ => s) ch rest

/-- A channel's producer runs while SER_RXQ.EN is set. -/
def serPush (s : State) (ch : Nat) : State :=
  setRts (if s.flag (Adr.serRxq ch) 9 && ringOn s (Adr.serCfg ch) then drainRx s ch (serOf s ch).rx else s) ch

/-! ### ADCs -/

/-- An ADC event (R601). -/
def adcEvent (s : State) (a e code ain : Nat) : State :=
  raiseEvent s (0x280 + a * 8 + e) 0 (leBytes 2 code ++ [BitVec.ofNat 8 ain, 0, 0, 0]) none

/-- The sequence goes on once a result is accepted (R598): the next rank, the next sequence under CONT, or the end. -/
def adcNext (s : State) (a : Nat) : State :=
  let x := adcOf s a
  let len := s.field (Adr.adcCtl a) 3 1
  if x.rank < len then setAdc s a ⟨x.rank + 1, none⟩
  else
    let w := s.reg (Adr.adcRes a len)
    let s := adcEvent (setAdc s a ⟨0, none⟩) a 0 (bits w 11 0) (bits w 15 12)
    if s.flag (Adr.adcCtl a) 4 && s.flag (Adr.adcCtl a) 0 then s else s.setFlag (Adr.adcStat a) 0 false

/-- The result of an ADC that waits for its queue is pushed where the queue accepts it (R599). -/
def adcPush (s : State) (a : Nat) : State :=
  match (adcOf s a).wait with
  | none => s
  | some w =>
    match produce s (0x330 + a) (s.field (Adr.adcQ a) 8 0) (.word w 0) with
    | none => s
    | some s => adcNext s a

/-- Producers of the ring that wait for a queue try again as it gains room (R310). -/
def wakeProducers (s : State) (q : Nat) : State :=
  let s := (List.range 18).foldl (fun s ch =>
    if (serOf s ch).rx.isEmpty || s.field (Adr.serRxq ch) 8 0 ≠ q then s else serPush s ch) s
  (List.range 4).foldl (fun s a =>
    if (adcOf s a).wait.isNone || s.field (Adr.adcQ a) 8 0 ≠ q || !ringOn s (Adr.adcCtl a) then s else adcPush s a) s

/-- A sequence starts (R598). -/
def adcStart (s : State) (a : Nat) : State := (setAdc s a ⟨0, none⟩).setFlag (Adr.adcStat a) 0 true

/-- GO (R598, R599): a sequence starts, or the trigger is lost. A GO that starts a sequence clears TRIGLOST. -/
def adcGo (s : State) (a : Nat) : State :=
  if !s.flag (Adr.adcCtl a) 0 then s
  else if s.flag (Adr.adcStat a) 0 then adcEvent (s.incField (Adr.adcStat a) 15 8) a 2 0 0
  else adcStart (s.setField (Adr.adcStat a) 15 8 0) a

/-- ADC_GO. -/
def execAdcGo (a : Fin 4) (s : State) : Host.Outcome State Fault Refusal := .next (if ringOn s (Adr.adcCtl a.val) then adcGo s a.val else s)

/-- A cue trigger (R281, R598): a running sequence leaves it pending. -/
def adcTrigger (s : State) (a : Nat) : State :=
  if (s.cinOf (0x300 + a)).isNone || !ringOn s (Adr.adcCtl a) || !s.flag (Adr.adcCtl a) 0 || s.flag (Adr.adcStat a) 0 then s
  else adcStart (clearCin s (0x300 + a)) a

/-- ADC_TRIGGER. -/
def execAdcTrigger (a : Fin 4) (s : State) : Host.Outcome State Fault Refusal := .next (adcTrigger s a.val)

/-- A comparator sees a conversion of its input (R600). -/
def compare (s : State) (ain code : Nat) : State × Bool :=
  let w := s.reg (Adr.cmpWin ain)
  if !bit w 31 then (s, false)
  else
    let viol := decide (code < bits w 11 0) || decide (bits w 27 16 < code)
    let was := s.flag (Adr.cmpStat ain) 0
    let s := s.setFlag (Adr.cmpStat ain) 0 viol
    if viol && !was then
      (raiseEvent (s.incField (Adr.cmpStat ain) 15 8) (0x2A0 + ain) 0 (leBytes 2 code ++ [BitVec.ofNat 8 ain, 0, 0, 0]) none, viol)
    else (s, viol)

/-- A conversion of an ADC's sequence ends with a code (R599, R600). -/
def adcDone (s : State) (a code : Nat) : State :=
  let x := adcOf s a
  if !s.flag (Adr.adcStat a) 0 || x.wait.isSome || !ringOn s (Adr.adcCtl a) then s
  else
    let ain := s.field (Adr.adcSeq a) (4 * x.rank + 3) (4 * x.rank)
    let (s, viol) := compare s ain code
    let s := s.setReg (Adr.adcRes a x.rank) (BitVec.ofNat 32 (code + ain * 2 ^ 12 + 2 ^ 16))
    let s := adcEvent s a 1 code ain
    let q := s.reg (Adr.adcQ a)
    let w : Word := if s.flag (Adr.adcCtl a) 5 then
        BitVec.ofNat 32 (code + (bits q 24 10 + x.rank) % 2 ^ 15 * 2 ^ 16 + (if viol then 2 ^ 31 else 0))
      else BitVec.ofNat 32 (code + ain * 2 ^ 12)
    if bit q 9 then adcPush (setAdc s a { x with wait := some w }) a else adcNext s a

/-- ADC_CONVERSION_DONE. -/
def execAdcConversionDone (a : Fin 4) (code : BitVec 12) (s : State) : Host.Outcome State Fault Refusal :=
  .next (adcDone s a.val code.toNat)

/-! ### Serial transmitters -/

/-- True while CTS lets a character start (R665): CTS is ignored but for RTSCTS in UART and HDLC mode, and by a channel with no pins. -/
def ctsOk (s : State) (ch : Nat) : Bool :=
  !(s.flag (Adr.serCfg ch) 9 && serMode s ch ≠ 3) ||
    (match serPad s ch 3 with
      | some p => !s.flag (Adr.padCtl p) 5
      | none => true)

/-- A legal CAN FD length at or above a byte count (R594). -/
def canLen (n : Nat) : Nat :=
  if n ≤ 8 then n else if n ≤ 12 then 12 else if n ≤ 16 then 16 else if n ≤ 20 then 20 else if n ≤ 24 then 24 else if n ≤ 32 then 32
  else if n ≤ 48 then 48 else 64

/-- The transmitter of a frame mode collects bytes of the FIFO until END (R594). A frame that passes its limit is discarded whole. -/
def collect (limit : Nat) (can hold : Bool) (c : SerCh) : List (Byte × Bool) → Bool × SerCh
  | [] => (false, { c with fifo := [] })
  | (b, e) :: rest =>
    if c.closed then (false, { c with fifo := (b, e) :: rest })
    else if c.drop then collect limit can hold { c with drop := !e } rest
    else if limit ≤ c.frame.length then (true, (collect limit can hold { c with frame := [], drop := !e } rest).2)
    else
      let f := c.frame ++ [b]
      if e then
        (false, { c with frame := if can then f ++ List.replicate (canLen f.length - f.length) 0 else f, closed := true, held := hold, hop := 0
                         fifo := rest })
      else collect limit can hold { c with frame := f } rest

/-- The transmitter of a channel takes what it can (R594, R665): a character in UART mode, a closed frame that is not held else. -/
def txKick (s : State) (ch : Nat) : State :=
  if !serOn s ch then s
  else if serMode s ch = 1 then
    let c := serOf s ch
    match c.line, c.fifo with
    | none, (b, _) :: rest =>
      if !ctsOk s ch then s
      else
        let s := setSer s ch { c with fifo := rest, line := some [b], lineHop := 0 }
        if rest.isEmpty then serEvent s ch 2 0 (serPayload s ch 0 0) else s
    | _, _ => s
  else
    let can := serMode s ch == 3
    let (tooLong, c) := collect (if can then 64 else 4096) can (s.flag (Adr.serCfg ch) 3) (serOf s ch) (serOf s ch).fifo
    let s := setSer s ch c
    let s := if tooLong then s.setFlag (Adr.serStat ch) 16 true else s
    if c.line.isSome || !c.closed || c.held || !ctsOk s ch then s
    else
      let s := setSer s ch { c with line := some c.frame, lineHop := c.hop, frame := [], closed := false }
      if c.fifo.isEmpty then serEvent s ch 2 0 (serPayload s ch 0 0) else s

/-- A write of SER_TX (R594). -/
def txWrite (s : State) (ch : Nat) (v : Word) : State :=
  let c := serOf s ch
  if 64 ≤ c.fifo.length then s.setFlag (Adr.serStat ch) 16 true
  else if serMode s ch ≤ 1 then
    if bit v 9 then s
    else
      let b : Byte := BitVec.ofNat 8 (bits v 7 0 % (if s.flag (Adr.serCfg ch) 7 then 128 else 256))
      txKick (setSer s ch { c with fifo := c.fifo ++ [(b, false)] }) ch
  else if bit v 9 then
    let keep := c.fifo.reverse.dropWhile (fun e => !e.2)
    setSer s ch (if c.closed then { c with fifo := keep.reverse } else { c with frame := [], drop := false, fifo := keep.reverse })
  else txKick (setSer s ch { c with fifo := c.fifo ++ [(BitVec.ofNat 8 (bits v 7 0), bit v 8)] }) ch

/-- SERIAL_TX_WRITE. -/
def execSerialTxWrite (ch : Fin 18) (v : Word) (s : State) : Host.Outcome State Fault Refusal :=
  .next (if ringOn s (Adr.serTx ch.val) then txWrite s ch.val v else s)

/-- What is on the line is sent (R601): a frame raises event 3; so does a UART character with none after it. -/
def txComplete (s : State) (ch : Nat) : State :=
  let c := serOf s ch
  match c.line with
  | none => s
  | some f =>
    if !ringOn s (Adr.serCfg ch) then s
    else
      let s := setSer s ch { c with line := none, lineHop := 0 }
      let s := if serMode s ch = 1 && !c.fifo.isEmpty then s else serEvent s ch 3 c.lineHop (serPayload s ch f.length 0)
      txKick s ch

/-- SERIAL_TX_COMPLETE. -/
def execSerialTxComplete (ch : Fin 18) (s : State) : Host.Outcome State Fault Refusal := .next (txComplete s ch.val)

/-- The action of a task input that a fire started (R281, R601), where its unit can act. -/
def takeTask (s : State) (id unit : Nat) (act : State → BitVec 4 → State) : State :=
  match s.cinOf id with
  | none => s
  | some c => if ringOn s unit then act (clearCin s id) c.hop else s

/-- SERIAL_FLUSH_RX: task 0. A packet the producer holds open is closed. -/
def execSerialFlushRx (ch : Fin 18) (s : State) : Host.Outcome State Fault Refusal :=
  .next (takeTask s (0x500 + ch.val * 4) (Adr.serCfg ch.val) (fun s _ =>
    let c := serOf s ch.val
    let opened := c.rx.any (· == .cls) && !(c.rx.takeWhile (· != .cls)).any (· == .opn)
    serPush (setSer s ch.val { c with rx := if opened then [.cls] else [] }) ch.val))

/-- SERIAL_FLUSH_TX: task 1. -/
def execSerialFlushTx (ch : Fin 18) (s : State) : Host.Outcome State Fault Refusal :=
  .next (takeTask s (0x501 + ch.val * 4) (Adr.serCfg ch.val) (fun s _ =>
    setSer s ch.val { serOf s ch.val with fifo := [], frame := [], closed := false, held := false, drop := false }))

/-- SERIAL_RELEASE_FRAME: task 2 (R594, R601). -/
def execSerialReleaseFrame (ch : Fin 18) (s : State) : Host.Outcome State Fault Refusal :=
  .next (takeTask s (0x502 + ch.val * 4) (Adr.serCfg ch.val) (fun s hop =>
    let c := serOf s ch.val
    if c.held then txKick (setSer s ch.val { c with held := false, hop := BitVec.ofNat 4 (min 15 (hop.toNat + 1)) }) ch.val else s))

/-! ### Serial receivers -/

/-- True where a receiver samples its line (R592, R596). -/
def rxOn (s : State) (ch : Nat) : Bool := serOn s ch && (serPad s ch 1).isSome

/-- A receive error is counted (R593, R601). -/
def rxError (s : State) (ch count : Nat) : State :=
  serEvent ((s.incField (Adr.serCnt ch) 31 16).setFlag (Adr.serStat ch) 18 true) ch 4 0 (serPayload s ch count 0)

/-- Bytes that found the buffer full are lost (R596). -/
def rxOverrun (s : State) (ch n : Nat) : State :=
  let s := s.setField (Adr.serCnt ch) 15 0 (min 0xFFFF (s.field (Adr.serCnt ch) 15 0 + n))
  let s := setSer (s.setFlag (Adr.serStat ch) 17 true) ch { serOf s ch with lost := true }
  serEvent s ch 5 0 (serPayload s ch n 0)

/-- A UART byte is received (R595, R596): parity error, framing error and break are flags 0 to 2. -/
def rxByte (s : State) (ch : Nat) (b : Byte) (flags : BitVec 3) : State :=
  if !rxOn s ch || serMode s ch ≠ 1 then s
  else
    let c := serOf s ch
    if 64 ≤ rxBytes c.rx then rxOverrun s ch 1
    else
      let d := b.toNat % (if s.flag (Adr.serCfg ch) 7 then 128 else 256)
      let w : Word := BitVec.ofNat 32 (d + flags.toNat * 2 ^ 16 + (if c.lost then 2 ^ 19 else 0))
      let s := setSer s ch { c with rx := c.rx ++ [.word w 1], lost := false }
      let s := serEvent s ch 0 0 (serPayload s ch 1 0)
      let s := if bit flags 0 || bit flags 1 then rxError s ch 1 else s
      let s := if bit flags 2 then serEvent s ch 6 0 (serPayload s ch 1 0) else s
      serPush s ch

/-- SERIAL_RX_BYTE. -/
def execSerialRxByte (ch : Fin 18) (b : Byte) (flags : BitVec 3) (s : State) : Host.Outcome State Fault Refusal :=
  .next (rxByte s ch.val b flags)

/-- SERIAL_RX_OVERRUN. -/
def execSerialRxOverrun (ch : Fin 18) (s : State) : Host.Outcome State Fault Refusal :=
  .next (if rxOn s ch.val && 64 ≤ rxBytes (serOf s ch.val).rx then rxOverrun s ch.val 1 else s)

/-- Data bytes as words, 4 to a word, the first in [7:0] (R595). -/
def packWords : Nat → List Byte → List PushW
  | 0, _ => []
  | n + 1, l => if l.isEmpty then [] else .word (BitVec.ofNat 32 (leNat (l.take 4))) (l.take 4).length :: packWords n (l.drop 4)

/-- Header of a part of a frame (R595). -/
def partHeader (f : RxFrame) (lost first last : Bool) (n : Nat) : Nat :=
  n + (if first then 2 ^ 12 else 0) + (if last then 2 ^ 13 else 0) + (if f.err then 2 ^ 14 else 0) + (if f.abort then 2 ^ 15 else 0) +
    (if lost then 2 ^ 16 else 0) + (if f.rtr then 2 ^ 17 else 0)

/-- The producer's steps for a frame: parts of at most 120 bytes, each a packet under PKT (R595), and event 1 at the end (R601). -/
def framePushes (pkt can : Bool) (q : Nat) (f : RxFrame) (lost : Bool) (data : List Byte) : List PushW :=
  let n := (data.length + 119) / 120
  let n := if n = 0 then 1 else n
  (List.range n).flatMap (fun i =>
    let d := (data.drop (120 * i)).take 120
    let h := partHeader f lost (i = 0) (i + 1 = n) d.length
    (if pkt then [PushW.opn] else []) ++ [.word (BitVec.ofNat 32 h) 0] ++ (if can then [.word f.canId 0] else []) ++ packWords 30 d ++
      (if pkt then [.cls] else [])) ++
    [.done (leBytes 2 data.length ++ [BitVec.ofNat 8 (partHeader f lost (n = 1) true 0 / 2 ^ 13 % 16), 0] ++ leBytes 2 q)]

/-- True where a CAN frame passes an enabled filter (R593). -/
def canAccepts (s : State) (ch : Nat) (id : Word) : Bool :=
  (List.range 8).any (fun k => s.flag (Adr.canFmask ch k) 31 &&
    bits ((id ^^^ s.reg (Adr.canFlt ch k)) &&& s.reg (Adr.canFmask ch k)) 28 0 == 0)

/-- The frame's words join those that wait, and the producer pushes what it can; the bytes that the buffer then cannot hold are lost. -/
def rxFrame (s : State) (ch : Nat) (f : RxFrame) : State :=
  let can := serMode s ch == 3
  if !rxOn s ch || serMode s ch ≤ 1 || (can && !canAccepts s ch f.canId) then s
  else
    let c := serOf s ch
    let data := if f.rtr then [] else f.data
    let go := fun (lost : Bool) (d : List Byte) =>
      serPush (setSer s ch { c with lost := false, rx := c.rx ++ framePushes (s.flag (Adr.serCfg ch) 11) can (s.field (Adr.serRxq ch) 8 0) f lost d }) ch
    let t := go c.lost data
    let excess := rxBytes (serOf t ch).rx - 64
    let t := if excess = 0 then t
      else
        let u := rxOverrun (go true (data.take (data.length - excess))) ch excess
        setSer u ch { serOf u ch with lost := false }
    if f.err then rxError t ch data.length else t

/-- SERIAL_RX_FRAME. -/
def execSerialRxFrame (ch : Fin 18) (f : RxFrame) (s : State) : Host.Outcome State Fault Refusal := .next (rxFrame s ch.val f)

/-- CAN_ERROR_STATE_CHANGE (R593, R601): BUSOFF, event 7, and event 6 on bus-off. -/
def execCanErrorStateChange (ch : Fin 18) (st : CanState) (s : State) : Host.Outcome State Fault Refusal :=
  .next (if !serOn s ch.val || serMode s ch.val ≠ 3 then s
    else
      let off := st == .busOff
      let s := s.setFlag (Adr.serStat ch.val) 19 off
      let s := if off then serEvent s ch.val 6 0 (serPayload s ch.val 0 0) else s
      serEvent s ch.val 7 0 (serPayload s ch.val 0 0))

/-! ### Pad commands -/

/-- A sampled edge of a pad (R589, R590, R649). -/
def padEdge (s : State) (p : Nat) (level : Bool) : State :=
  let w := s.reg (Adr.padCtl p)
  if s.vioOff.getLsbD (p / 48) || !ringOn s (Adr.padCtl p) || bit w 5 == level then s
  else
    let s := s.setFlag (Adr.padCtl p) 5 level
    let s := if (level && bit w 7) || (!level && bit w 8) then
        raiseEvent (s.setField (Adr.padCtl p) 31 16 (bits w 31 16 + 1)) (0x300 + p) 0 [if level then 1 else 0, 0, 0, 0, 0, 0] none
      else s
    if padFunc s p = 1 && p % 4 = 3 && !level then txKick s (padUnit s p) else s

/-- PAD_INPUT_EDGE. -/
def execPadInputEdge (p : Fin 192) (level : Bool) (s : State) : Host.Outcome State Fault Refusal := .next (padEdge s p.val level)

/-- CTS_ASSERT. -/
def execCtsAssert (ch : Fin 18) (s : State) : Host.Outcome State Fault Refusal :=
  .next (match serPad s ch.val 3 with
    | some p => if s.flag (Adr.padCtl p) 5 then padEdge s p false else txKick s ch.val
    | none => s)

/-- PAD_CUE_ACTION (R279, R590): toggle, high or low. -/
def execPadCueAction (p : Fin 192) (s : State) : Host.Outcome State Fault Refusal :=
  .next (match s.cinOf (0x200 + p.val) with
    | none => s
    | some c =>
      if !ringOn s (Adr.padCtl p.val) then s
      else
        let s := clearCin s (0x200 + p.val)
        match c.arg with
        | 0 => s.setFlag (Adr.padCtl p.val) 0 (!s.flag (Adr.padCtl p.val) 0)
        | 1 => s.setFlag (Adr.padCtl p.val) 0 true
        | 2 => s.setFlag (Adr.padCtl p.val) 0 false
        | _ => s)

/-- BANK_VIO_LOSS (R649): the bank's pads read IN = 0. -/
def execBankVioLoss (b : Fin 4) (s : State) : Host.Outcome State Fault Refusal :=
  .next ((List.range 48).foldl (fun s i => s.setFlag (Adr.padCtl (48 * b.val + i)) 5 false)
    { s with vioOff := s.vioOff ||| (1#4 <<< b.val) })

/-- BANK_VIO_RETURN (R649). -/
def execBankVioReturn (b : Fin 4) (s : State) : Host.Outcome State Fault Refusal :=
  .next { s with vioOff := s.vioOff &&& ~~~(1#4 <<< b.val) }

/-! ### Pulse units -/

/-- A pulse unit takes the PERIOD and DUTY written (R597). -/
def pulseLoad (s : State) (u : Nat) : State :=
  setPulse s u { pulseOf s u with per := s.reg (Adr.puPer u), duty := s.reg (Adr.puDuty u) }

/-- True where a pulse unit counts. -/
def pulseRuns (s : State) (u : Nat) : Bool :=
  s.flag (Adr.puCtl u) 2 && s.field (Adr.puCtl u) 1 0 ≠ 0

/-- A pulse unit starts, with the hop count of its events: a PWM or capture unit from a position of 0 (R597, R601). -/
def pulseStart (s : State) (u : Nat) (hop : BitVec 4) : State :=
  let s := pulseLoad (s.setFlag (Adr.puCtl u) 2 true) u
  let s := setPulse s u { pulseOf s u with hop := hop }
  if s.field (Adr.puCtl u) 1 0 = 3 then s else s.setReg (Adr.puCnt u) 0

/-- A pulse-unit event (R601). -/
def pulseEvent (s : State) (u e : Nat) (v : Word) : State :=
  raiseEvent s (0x200 + u * 16 + e) (pulseOf s u).hop (leBytes 4 v.toNat ++ [0, 0]) none

/-- True where a running pulse unit is in a mode and can act. -/
def pulseIn (s : State) (u mode : Nat) : Bool := pulseRuns s u && s.field (Adr.puCtl u) 1 0 == mode && ringOn s (Adr.puCtl u)

/-- PULSE_PERIOD_END. -/
def execPulsePeriodEnd (u : Fin 8) (s : State) : Host.Outcome State Fault Refusal :=
  .next (if pulseIn s u.val 1 then
      pulseEvent ((pulseLoad s u.val).setReg (Adr.puCnt u.val) 0) u.val 0 (s.reg (Adr.puCap u.val))
    else s)

/-- A count-mode match (R597): COUNT reaches PERIOD and resets to 0. -/
def countMatch (s : State) (u : Nat) : State := pulseEvent (s.setReg (Adr.puCnt u) 0) u 2 (pulseOf s u).per

/-- An edge at a unit's capture input (R597): in capture mode the clocks since the last one and the time; in count mode one more edge.
METRO is taken through a Gray count, which may be one behind (R579). -/
def captureEdge (s : State) (u : Nat) (clocks : Word) : State :=
  if pulseIn s u 2 then
    let (s, v) := s.fresh
    let t := if bit v 0 then metroLo s else metroLo s - 1
    let s := ((s.setReg (Adr.puCap u) clocks).setReg (Adr.puCapt u) t).setReg (Adr.puCnt u) 0
    pulseEvent s u 1 clocks
  else if pulseIn s u 3 then
    let n := s.reg (Adr.puCnt u) + 1
    if (pulseOf s u).per.toNat ≤ n.toNat then countMatch s u else s.setReg (Adr.puCnt u) n
  else s

/-- PULSE_CAPTURE_EDGE. -/
def execPulseCaptureEdge (u : Fin 8) (clocks : Word) (s : State) : Host.Outcome State Fault Refusal := .next (captureEdge s u.val clocks)

/-- PULSE_COUNT_MATCH: the edge that brings COUNT to PERIOD. -/
def execPulseCountMatch (u : Fin 8) (s : State) : Host.Outcome State Fault Refusal :=
  .next (if pulseIn s u.val 3 && (pulseOf s u.val).per.toNat ≤ (s.reg (Adr.puCnt u.val)).toNat + 1 then countMatch s u.val else s)

/-- PULSE_CAPTURE_TIMEOUT. -/
def execPulseCaptureTimeout (u : Fin 8) (s : State) : Host.Outcome State Fault Refusal :=
  .next (if pulseIn s u.val 2 then pulseEvent (s.setFlag (Adr.puStat u.val) 1 true) u.val 3 (s.reg (Adr.puCap u.val)) else s)

/-- PULSE_START: task 0. -/
def execPulseStart (u : Fin 8) (s : State) : Host.Outcome State Fault Refusal :=
  .next (takeTask s (0x560 + u.val * 4) (Adr.puCtl u.val) (fun s hop => pulseStart s u.val (BitVec.ofNat 4 (min 15 (hop.toNat + 1)))))

/-- PULSE_STOP: task 1. -/
def execPulseStop (u : Fin 8) (s : State) : Host.Outcome State Fault Refusal :=
  .next (takeTask s (0x561 + u.val * 4) (Adr.puCtl u.val) (fun s _ => s.setFlag (Adr.puCtl u.val) 2 false))

/-- PULSE_CLEAR: task 2. -/
def execPulseClear (u : Fin 8) (s : State) : Host.Outcome State Fault Refusal :=
  .next (takeTask s (0x562 + u.val * 4) (Adr.puCtl u.val) (fun s _ => s.setReg (Adr.puCnt u.val) 0))

/-- PULSE_LOAD: task 3. -/
def execPulseLoad (u : Fin 8) (s : State) : Host.Outcome State Fault Refusal :=
  .next (takeTask s (0x563 + u.val * 4) (Adr.puCtl u.val) (fun s _ => pulseLoad s u.val))

end Sys2Proof.Machine
end

