-- ==== Sys2Proof/Machine/Hc.lean ====
section
/-! DEFINITION. The historian compressors up to the close queue (R425 to R439, R444, R450, R451, R455 to R464): feeds, contexts, corridor
segmentation, channel commands, rings and drains. The close engine and playback stand in Machine/Historian. -/

namespace Sys2Proof.Machine

/-- Compressor h. -/
def hcOf (s : State) (h : Nat) : Hc := Sparse.get (fun _ => Hc.reset) s.hc h
/-- The state with a compressor replaced. -/
def setHc (s : State) (h : Nat) (x : Hc) : State := { s with hc := Sparse.put (fun _ => Hc.reset) s.hc h x }
/-- The state with a compressor changed. -/
def modHc (s : State) (h : Nat) (f : Hc → Hc) : State := setHc s h (f (hcOf s h))
/-- A channel by local index. -/
def chanOf (s : State) (h loc : Nat) : HcChan := Sparse.get (fun _ => HcChan.reset) (hcOf s h).chans loc
/-- The state with a channel replaced. -/
def setChan (s : State) (h loc : Nat) (x : HcChan) : State :=
  modHc s h (fun c => { c with chans := Sparse.put (fun _ => HcChan.reset) c.chans loc x })

/-- Agent id of a compressor (R425). -/
def agentHc (h : Nat) : Nat := 0x3C0 + h
/-- True where a compressor has power and clock. -/
def hcOn (s : State) (h : Nat) : Bool := ringOn s (Adr.hcCtl h)
/-- True where a compressor's stages run (R457, R460). -/
def hcRuns (s : State) (h : Nat) : Bool := hcOn s h && !s.cxl.pfail && s.flag (Adr.hcCtl h) 0
/-- Base of the context table. -/
def ctxBase (s : State) (h : Nat) : Nat := s.field (Adr.hcCtxl h) 31 12 * 2 ^ 12 + s.field (Adr.hcCtxh h) 15 0 * 2 ^ 32
/-- Local indices served. -/
def hcLimit (s : State) (h : Nat) : Nat := s.field (Adr.hcCtxh h) 31 16
/-- Address of a build half (R431). -/
def halfAdr (s : State) (h loc half : Nat) : Nat :=
  s.field (Adr.hcBldl h) 31 15 * 2 ^ 15 + s.field (Adr.hcBldh h) 15 0 * 2 ^ 32 + loc * 0x8000 + half * 0x4000

/-- A compressor event (R458). -/
def hcEvent (s : State) (h e chan ring : Nat) : State :=
  raiseEvent s (0x400 + h * 8 + e) 0 (leBytes 2 chan ++ leBytes 1 ring ++ [0] ++ leBytes 2 (s.reg (Adr.rngProd h (ring % 4))).toNat) none

/-- A compressor NOTICE (R459). -/
def hcNotice (s : State) (h code chan seq : Nat) : State := notice s (244 + h) code (leBytes 2 chan ++ leBytes 4 seq)

/-- A compressor's read of memory, behind the directory (R210). -/
def hcRead (s : State) (h a n : Nat) : State × Except MemErr (List Byte) := readMem (recallLoads s none a n) (agentHc h) a n

/-- One line of a compressor's write, behind the directory (R210): the state, and whether it draws an error response. Ring 4 stands for no ring. -/
def hcLine (s : State) (h ring a : Nat) (l : List Byte) : State × Bool :=
  if !isMemory a || storeError s a then (s, true)
  else
    let s := writeMem (recallStores s none a l.length) none a l false
    match regionOf a with
    | .cxl _ => ((writeReq s (.hc h ring) a).getD s, false)
    | _ => (s, false)

/-- A compressor's write, line by line (n lines at most): the state, and whether a line drew an error response. -/
def hcWrite (s : State) (h ring : Nat) : Nat → Nat → List Byte → State × Bool
  | 0, _, _ => (s, false)
  | n + 1, a, l =>
    if l.isEmpty then (s, false)
    else
      let k := 64 - a % 64
      let (s, e) := hcLine s h ring a (l.take k)
      let (s, f) := hcWrite s h ring n (a + k) (l.drop k)
      (s, e || f)

/-! ### Contexts -/

/-- Word k of a context (R430). -/
def cw (c : BitVec 512) (k : Nat) : Word := c.extractLsb' (32 * k) 32
/-- The context with word k replaced. -/
def setCw (c : BitVec 512) (k : Nat) (v : Nat) : BitVec 512 := setBits c (32 * k + 31) (32 * k) v
/-- The context with bits of word k replaced. -/
def setCwBits (c : BitVec 512) (k hi lo v : Nat) : BitVec 512 := setBits c (32 * k + hi) (32 * k + lo) v

/-- The cached context of a channel. -/
def ctxOf (s : State) (h loc : Nat) : Option (BitVec 512) := ((hcOf s h).cache.find? (fun e => e.1 == loc)).map (fun e => e.2.1)
/-- A cached context replaced. -/
def setCtx (s : State) (h loc : Nat) (c : BitVec 512) : State :=
  modHc s h (fun x => { x with cache := x.cache.map (fun e => if e.1 = loc then (loc, c, true) else e) })
/-- A context written to the table. -/
def storeCtx (s : State) (h loc : Nat) (c : BitVec 512) : State := (hcWrite s h 4 2 (ctxBase s h + loc * 64) (leBytes 64 c.toNat)).1
/-- Every dirty context written back (R457). -/
def cleanCtx (s : State) (h : Nat) : State :=
  let s := ((hcOf s h).cache.filter (fun e => e.2.2)).foldl (fun s e => storeCtx s h e.1 e.2.1) s
  modHc s h (fun x => { x with cache := x.cache.map (fun e => (e.1, e.2.1, false)) })

/-- Room for a context: a 65th evicts one of the 64, a free value says which, and a dirty one is written back (R430). -/
def evictCtx (s : State) (h : Nat) : State :=
  if (hcOf s h).cache.length < 64 then s
  else
    let (s, v) := s.fresh
    match (hcOf s h).cache[bits v 5 0]? with
    | none => s
    | some e =>
      let s := if e.2.2 then storeCtx s h e.1 e.2.1 else s
      modHc s h (fun x => { x with cache := x.cache.filter (fun f => f.1 ≠ e.1) })

/-- A context fetched into the cache (R455); one that cannot be read is lost and rewritten as zero (R449). -/
def fetchCtx (s : State) (h loc : Nat) : State :=
  if (ctxOf s h loc).isSome then s
  else
    let s := evictCtx s h
    match hcRead s h (ctxBase s h + loc * 64) 64 with
    | (s, .ok l) => modHc s h (fun x => { x with cache := x.cache ++ [(loc, BitVec.ofNat 512 (leNat l), false)] })
    | (s, .error _) =>
      let s := storeCtx s h loc 0
      let s := hcNotice (raiseFault s (244 + h) 1 7 0 none) h 0x42 (h * 0x8000 + loc) (chanOf s h loc).seq
      modHc s h (fun x => { x with cache := x.cache ++ [(loc, 0, false)] })

/-! ### Corridor segmentation -/

/-- STATE of a context: 0 empty, 1 anchor, 2 candidate, 3 interiors. -/
def cxState (c : BitVec 512) : Nat := bits (cw c 3) 17 16
/-- The context with its STATE replaced. -/
def setCxState (c : BitVec 512) (v : Nat) : BitVec 512 := setCwBits c 3 17 16 v
/-- Anchor time. -/
def cxTa (c : BitVec 512) : Nat := (cw c 2).toNat + bits (cw c 3) 15 0 * 2 ^ 32
/-- Candidate time. -/
def cxTp (c : BitVec 512) : Nat := cxTa c + (cw c 5).toNat
/-- Time that a new sample is measured from (R429). -/
def cxRef (c : BitVec 512) : Nat := if 2 ≤ cxState c then cxTp c else cxTa c
/-- A context with its anchor replaced. -/
def setAnchor (c : BitVec 512) (t : Nat) (v : Word) : BitVec 512 :=
  setCw (setCwBits (setCw c 2 t) 3 15 0 (t / 2 ^ 32)) 4 v.toNat
/-- A context with its candidate replaced. -/
def setCand (c : BitVec 512) (t : Nat) (v : Word) : BitVec 512 := setCw (setCw c 5 (t - cxTa c)) 6 v.toNat

/-- Lower or upper slope bound: numerator, of 40 bits, and denominator. -/
def slopeOf (c : BitVec 512) (upper : Bool) : Int × Nat :=
  let k := if upper then 9 else 7
  let hi := if upper then bits (cw c 11) 15 8 else bits (cw c 11) 7 0
  ((BitVec.ofNat 40 ((cw c k).toNat + hi * 2 ^ 32)).toInt, (cw c (k + 1)).toNat)
/-- A context with a slope bound replaced. -/
def setSlope (c : BitVec 512) (upper : Bool) (x : Int × Nat) : BitVec 512 :=
  let k := if upper then 9 else 7
  let n := (BitVec.ofInt 40 x.1).toNat
  setCwBits (setCw (setCw c k n) (k + 1) x.2) 11 (if upper then 15 else 7) (if upper then 8 else 0) (n / 2 ^ 32)
/-- Slopes compared by cross-multiplication (R433). -/
def slopeLe (a b : Int × Nat) : Bool := decide (a.1 * b.2 ≤ b.1 * a.2)

/-- close() of R433: the extremes kept, the earlier first, and the POINT at the candidate, which becomes the anchor. `one` is the KIND of a
record that is both extremes. -/
def closeSeg (c : BitVec 512) (one : Nat) : BitVec 512 × List HRec :=
  let ta := cxTa c
  let mn : Option HRec := if bit (cw c 3) 18 then some ⟨5, ta + (cw c 12).toNat, cw c 13⟩ else none
  let mx : Option HRec := if bit (cw c 3) 19 then some ⟨6, ta + (cw c 14).toNat, cw c 15⟩ else none
  let ext := match mn, mx with
    | some a, some b => if a.time = b.time then [{ a with kind := one }] else if a.time < b.time then [a, b] else [b, a]
    | some a, none => [a]
    | none, some b => [b]
    | none, none => []
  let tp := cxTp c
  let c' := setCwBits (setAnchor c tp (cw c 6)) 3 19 18 0
  let c' := [5, 6, 7, 8, 9, 10, 12, 13, 14, 15].foldl (fun c k => setCw c k 0) c'
  (setCwBits c' 11 15 0 0, ext ++ [⟨0, tp, cw c 6⟩])

/-- True where a context keeps one sample as both extremes. -/
def oneExtreme (c : BitVec 512) : Bool := bit (cw c 3) 18 && bit (cw c 3) 19 && cw c 12 == cw c 14

/-- The candidate kept as an extreme (R433): ties keep the earlier sample. -/
def keepExtremes (c : BitVec 512) : BitVec 512 :=
  let v := cw c 6
  let c' := if !bit (cw c 3) 18 || decide (v.toInt < (cw c 13).toInt) then
      setCw (setCw (setCwBits c 3 18 18 1) 12 (cw c 5).toNat) 13 v.toNat else c
  if !bit (cw c 3) 19 || decide ((cw c 15).toInt < v.toInt) then
    setCw (setCw (setCwBits c' 3 19 19 1) 14 (cw c 5).toNat) 15 v.toNat else c'

/-- An accepted sample through the corridor (R433): the new context, and the records emitted. -/
def segment (c : BitVec 512) (t : Nat) (v : Word) (alarm : Bool) (one : Nat) : BitVec 512 × List HRec :=
  let st := cxState c
  let point := fun (g : Bool) => (⟨(if alarm then 1 else 0) + (if g then 2 else 0), t, v⟩ : HRec)
  if st = 0 then (setCxState (setAnchor c t v) 1, [point false])
  else
    let d := t - cxRef c
    let per := (cw c 1).toNat
    let gap := decide (2 ^ 32 ≤ d) || (if bit (cw c 0) 3 then decide (per < d) else per != 0 && decide (per < d))
    let dt := t - cxTa c
    if alarm || gap || 2 ^ 32 ≤ dt then
      let (c, l) := if 2 ≤ st then closeSeg c one else (c, [])
      if alarm || gap then (setCxState (setAnchor c t v) 1, l ++ [point gap])
      else (setCxState (setCand c t v) 2, l)
    else if st = 1 then (setCxState (setCand c t v) 2, [])
    else
      let va := (cw c 4).toInt
      let vp := (cw c 6).toInt
      let e : Int := (bits (cw c 0) 31 8 : Nat)
      let dp := (cw c 5).toNat
      let l : Int × Nat := (vp - e - va, dp)
      let u : Int × Nat := (vp + e - va, dp)
      let lo := if st = 2 then l else if slopeLe (slopeOf c false) l then l else slopeOf c false
      let hi := if st = 2 then u else if slopeLe u (slopeOf c true) then u else slopeOf c true
      let sl : Int × Nat := (v.toInt - va, dt)
      if slopeLe lo sl && slopeLe sl hi then
        let times := if bit (cw c 0) 5 then [(⟨4, cxTp c, 0⟩ : HRec)] else []
        let c := if bit (cw c 0) 4 then keepExtremes c else c
        (setCxState (setCand (setSlope (setSlope c false lo) true hi) t v) 3, times)
      else
        let (c, l) := closeSeg c one
        (setCxState (setCand c t v) 2, l)

/-! ### Build halves -/

/-- True while a half of a channel is with the close engine (R444). -/
def halfBusy (s : State) (h loc half : Nat) : Bool := (hcOf s h).queue.any (fun e => e.loc == loc && e.half == half)

/-- Records that a half holds after some are appended: the first of a new block repeats the last POINT of the block before it (R444). -/
def appended (x : HcChan) (l : List HRec) : List HRec :=
  if l.isEmpty then x.recs else if x.recs.isEmpty then x.last.toList ++ l else x.recs ++ l

/-- Records appended to the filling half and its build area (R431, R444). -/
def appendRecs (s : State) (h loc half : Nat) (l : List HRec) : State :=
  if l.isEmpty then s
  else
    let x := chanOf s h loc
    let all := appended x l
    let new := all.drop x.recs.length
    let s := setChan s h loc { x with recs := all, cont := if x.recs.isEmpty then x.last.isSome else x.cont }
    let s := (hcWrite s h 4 (new.length + 2) (halfAdr s h loc half + 12 * x.recs.length) (new.flatMap rawRec)).1
    s.setReg (Adr.hcRec h) (s.reg (Adr.hcRec h) + BitVec.ofNat 32 new.length)

/-- What the header of a channel's filling half will say. -/
def halfInfo (h loc : Nat) (c : BitVec 512) (x : HcChan) : HalfInfo :=
  ⟨h * 0x8000 + loc, cw c 0, cw c 1, x.cont, h + bits (cw c 0) 7 6 * 2, x.seq, x.kt0, x.kv0⟩

/-- A half that is due: 1,336 records or more than 31,688 bits (R444). -/
def halfDue (i : HalfInfo) (l : List HRec) : Bool := 1336 ≤ l.length || 31688 < (encodeRecs i.unit i.kt0 i.kv0 l).len

/-- The filling half goes to the close queue (R444); the next block starts in the other half. -/
def closeHalf (s : State) (h loc : Nat) : State :=
  match ctxOf s h loc with
  | none => s
  | some c =>
    let x := chanOf s h loc
    if x.recs.isEmpty then s
    else
      let i := halfInfo h loc c x
      let e := encodeRecs i.unit i.kt0 i.kv0 x.recs
      let half := bits (cw c 11) 16 16
      let s := modHc s h (fun y => { y with queue := y.queue ++ [⟨i, loc, half, bits (cw c 0) 7 6, x.recs, 0, false⟩] })
      let s := setChan s h loc ⟨[], e.kt, e.kv, x.seq + 1, x.recs.getLast?, false⟩
      setCtx s h loc (setCwBits c 11 16 16 (1 - half))

/-- KIND of a record that is both extremes: the manual leaves it open, so a free value says. -/
def oneKind (s : State) (c : BitVec 512) : State × Nat :=
  if oneExtreme c then
    let (s, v) := s.fresh
    (s, if bit v 0 then 6 else 5)
  else (s, 5)

/-- The segment of a channel closes at its candidate and its block closes (R432, R444): none while the close queue or the other half makes
the stage wait. -/
def flushChan (s : State) (h loc : Nat) : Option State :=
  let s := fetchCtx s h loc
  match ctxOf s h loc with
  | none => some s
  | some c =>
    let (s, one) := oneKind s c
    let (c', l) := if 2 ≤ cxState c then
        let (c, l) := closeSeg c one
        (setCxState c 1, l)
      else (c, [])
    let x := chanOf s h loc
    let half := bits (cw c 11) 16 16
    if l.isEmpty && x.recs.isEmpty then some s
    else if 8 ≤ (hcOf s h).queue.length || (x.recs.isEmpty && halfBusy s h loc half) then none
    else some (closeHalf (appendRecs (setCtx s h loc c') h loc half l) h loc)

/-! ### Samples -/

/-- A sample discarded under R429: counted, with event 3. -/
def rejectSample (s : State) (h chan ring a hi lo : Nat) : State := hcEvent (s.incField a hi lo) h 3 chan ring

/-- Time of a sample on the grid of a periodic channel (R429 check 5): none where a long sample is off it. -/
def gridTime (c : BitVec 512) (x : HcSample) : Option Nat :=
  if !bit (cw c 0) 3 || cxState c = 0 then some x.time
  else
    let p := (cw c 1).toNat
    let r := cxRef c
    if x.short then some (r + max 1 ((2 * (x.time - r) + p) / (2 * p)) * p)
    else if r < x.time && (x.time - r) % p = 0 then some x.time else none

/-- A sample through the checks of R429 and the corridor: the state, and false where the stage waits for a context, the close queue or the
other half. -/
def doSample (s : State) (h : Nat) (x : HcSample) : State × Bool :=
  let loc := x.chan % 0x8000
  if !x.short && x.chan / 0x8000 ≠ h then (rejectSample s h x.chan 0 (Adr.hcRej2 h) 15 0, true)
  else if hcLimit s h ≤ loc then (rejectSample s h x.chan 0 (Adr.hcRej2 h) 31 16, true)
  else
    match ctxOf s h loc with
    | none => (s, false)
    | some c =>
      let ring := bits (cw c 0) 7 6
      let dec := bits (cw c 0) 2 1 == 2
      if !bit (cw c 0) 0 then (rejectSample s h x.chan ring (Adr.hcRej2 h) 31 16, true)
      else if x.short && dec then (rejectSample s h x.chan ring (Adr.hcRej1 h) 31 16, true)
      else if dec && (badDigit x.value.toNat 8).isSome then (rejectSample s h x.chan ring (Adr.hcRej1 h) 15 0, true)
      else
        match gridTime c x with
        | none => (rejectSample s h x.chan ring (Adr.hcRej0 h) 31 16, true)
        | some t =>
          if cxState c ≠ 0 && t ≤ cxRef c then (rejectSample s h x.chan ring (Adr.hcRej0 h) 15 0, true)
          else
            let v : Word := if dec then BitVec.ofNat 32 (ofDigits 8 x.value.toNat)
              else if x.short || bits (cw c 0) 2 1 = 0 then (x.value.setWidth 16).signExtend 32 else x.value
            let (s', one) := oneKind s c
            let (c', l) := segment c t v x.alarm one
            let y := chanOf s h loc
            let half := bits (cw c 11) 16 16
            let due := !l.isEmpty && halfDue (halfInfo h loc c y) (appended y l)
            if (!l.isEmpty && y.recs.isEmpty && halfBusy s h loc half) || (due && 8 ≤ (hcOf s h).queue.length) then (s, false)
            else
              let s := setCtx s' h loc c'
              let s := s.setReg (Adr.hcSamp h) (s.reg (Adr.hcSamp h) + 1)
              let s := appendRecs s h loc half l
              (if due then (flushChan s h loc).getD s else s, true)

/-- The stage works through its samples. -/
def runWork (s : State) (h : Nat) : List HcSample → State
  | [] => modHc s h (fun c => { c with work := [] })
  | x :: rest =>
    match doSample s h x with
    | (s, true) => runWork s h rest
    | (s, false) => modHc s h (fun c => { c with work := x :: rest })

/-! ### Commands and drains -/

/-- A command of HC_CMD ends (R432, R461): CONFIG writes the context and starts anew. -/
def endCmd (s : State) (h : Nat) : State :=
  match (hcOf s h).cmd with
  | none => s
  | some m =>
    let s := (modHc s h (fun c => { c with cmd := none })).setFlag (Adr.hcCmd h) 19 false
    if m.op ≠ 1 then s
    else
      let s := fetchCtx s h m.loc
      match ctxOf s h m.loc with
      | none => s
      | some c =>
        let n := setCwBits (setCw (setCw (0#512) 0 m.cfg.toNat) 1 m.per.toNat) 11 16 16 (bits (cw c 11) 16 16)
        setChan (setCtx s h m.loc n) h m.loc HcChan.reset

/-- Channels that wait to be flushed, in order. -/
def runTodo (s : State) (h : Nat) : List Nat → State
  | [] => endCmd (modHc s h (fun c => { c with todo := [] })) h
  | loc :: rest =>
    match flushChan s h loc with
    | some s => runTodo s h rest
    | none => modHc s h (fun c => { c with todo := loc :: rest })

/-- A drain is complete once nothing is left in the stages (R457). -/
def endDrain (s : State) (h : Nat) : State :=
  let c := hcOf s h
  if c.drain && !s.flag (Adr.hcCtl h) 2 && c.work.isEmpty && c.queue.isEmpty && c.todo.isEmpty then
    let s := modHc (cleanCtx s h) h (fun c => { c with cache := [] })
    hcEvent (s.setFlag (Adr.hcCtl h) 2 true) h 7 0 0
  else s

/-- A compressor goes on with what waits in it. -/
def hcProgress (s : State) (h : Nat) : State :=
  if !hcOn s h then s
  else
    let s := runTodo s h (hcOf s h).todo
    let s := if (hcOf s h).todo.isEmpty && hcRuns s h then runWork s h (hcOf s h).work else s
    endDrain s h

/-- RSN of a CONFIG that is refused (R432, R461), 0 for one that is not. -/
def configReason (s : State) (h chan : Nat) (cfg per : Word) : Nat :=
  if bits cfg 2 1 = 2 && bits cfg 31 8 ≠ 0 then 1
  else if bits cfg 2 1 = 3 then 2
  else if bit cfg 3 && per = 0 then 3
  else if bit cfg 3 && bit cfg 5 then 4
  else if chan / 0x8000 ≠ h || hcLimit s h ≤ chan % 0x8000 then 5
  else 0

/-- Enabled channels of a compressor, by local index. -/
def enabledChans (s : State) (h : Nat) : List Nat :=
  (List.range (hcLimit s h)).filter (fun i => match ctxOf s h i with
    | some c => bit (cw c 0) 0
    | none => (peekByte s (ctxBase s h + i * 64)).getLsbD 0)

/-- HC_CMD starts an operation on the channel of CHAN (R432, R461). -/
def hcCommand (s : State) (h op : Nat) : State :=
  let a := Adr.hcCmd h
  if !hcOn s h || s.flag a 19 || op = 0 || 5 ≤ op then s
  else
    let chan := s.field a 15 0
    let loc := chan % 0x8000
    let served := chan / 0x8000 = h && loc < hcLimit s h
    let cfg := s.reg (Adr.hcCmdcfg h)
    let per := s.reg (Adr.hcCmdper h)
    let rsn := if op = 1 then configReason s h chan cfg per else 0
    let s := (s.setFlag a 20 (rsn ≠ 0)).setField a 23 21 rsn
    if rsn ≠ 0 then s
    else if op = 3 then
      if !served then s
      else
        let s := fetchCtx s h loc
        match ctxOf s h loc with
        | none => s
        | some c =>
          let x := chanOf s h loc
          setChan (setCtx s h loc (setCxState c 0)) h loc { x with recs := [], last := none, cont := false }
    else
      let l := if op = 4 then enabledChans s h else if served then [loc] else []
      let s := (modHc s h (fun c => { c with cmd := some ⟨op, loc, cfg, per⟩, todo := c.todo ++ l })).setFlag a 19 true
      hcProgress s h

/-- HC_CONFIG. -/
def execHcConfig (h : Fin 2) (s : State) : Host.Outcome State Fault Refusal := .next (hcCommand s h.val 1)

/-- HC_FLUSH. -/
def execHcFlush (h : Fin 2) (s : State) : Host.Outcome State Fault Refusal := .next (hcCommand s h.val 2)

/-- HC_RESET. -/
def execHcReset (h : Fin 2) (s : State) : Host.Outcome State Fault Refusal := .next (hcCommand s h.val 3)

/-- HC_FLUSH_ALL. -/
def execHcFlushAll (h : Fin 2) (s : State) : Host.Outcome State Fault Refusal := .next (hcCommand s h.val 4)

/-- A drain begins (R457). -/
def hcDrain (s : State) (h : Nat) : State :=
  if !hcOn s h then s
  else hcProgress ((modHc s h (fun c => { c with drain := true })).setFlag (Adr.hcCtl h) 2 false) h

/-- HC_DRAIN. -/
def execHcDrain (h : Fin 2) (s : State) : Host.Outcome State Fault Refusal := .next (hcDrain s h.val)

/-- A write of HC_CTL (R460): setting EN clears DRAINED and lets the feed port run again. -/
def writeHcCtl (s : State) (h : Nat) (v : Word) : State :=
  let s := s.setFlag (Adr.hcCtl h) 0 (bit v 0)
  let s := if bit v 0 then (modHc s h (fun c => { c with drain := false })).setFlag (Adr.hcCtl h) 2 false else s
  if bit v 1 then hcDrain s h else hcProgress s h

/-- BLOCK_AGE_CHECK (R444). -/
def ageCheck (s : State) (h : Nat) : State :=
  let sec := s.field (Adr.hcAge h) 15 0
  if sec = 0 || !hcRuns s h then s
  else
    let old := (hcOf s h).chans.filterMap (fun e => match e.2.recs.head? with
      | some x => if x.time + sec * 1000000 < s.metro.toNat && !(hcOf s h).todo.contains e.1 then some e.1 else none
      | none => none)
    hcProgress (modHc s h (fun c => { c with todo := c.todo ++ old })) h

/-- BLOCK_AGE_CHECK. -/
def execBlockAgeCheck (h : Fin 2) (s : State) : Host.Outcome State Fault Refusal := .next (ageCheck s h.val)

/-- CONTEXT_FETCH: the context of the sample that waits arrives (R455). -/
def execContextFetch (h : Fin 2) (s : State) : Host.Outcome State Fault Refusal :=
  .next (match (hcOf s h.val).work with
    | [] => s
    | x :: _ =>
      if hcRuns s h.val && x.chan % 0x8000 < hcLimit s h.val then hcProgress (fetchCtx s h.val (x.chan % 0x8000)) h.val else s)

/-! ### Feeds -/

/-- True for a feed that is ready (R426): its head is a plain word or a filled length slot. -/
def feedReady (s : State) (q : Nat) : Bool :=
  domOn s (queueDomain q) && popReady s q &&
    (match (s.queue q).stages.head? with
      | some g => g.lenSlot || !g.first
      | none => false)

/-- Words of a packet popped, as many as come (R322). -/
def popWords (s : State) (q : Nat) : Nat → State × List Word
  | 0 => (s, [])
  | n + 1 =>
    match pop s q with
    | (s, none) => (s, [])
    | (s, some p) =>
      let (s, l) := popWords s q n
      (s, p.data :: l)

/-- Long samples of a packet (R428). -/
def longSamples (thigh : Nat) : Nat → List Word → List HcSample
  | 0, _ => []
  | n + 1, l =>
    ⟨bits (l.headD 0) 15 0, ((l.drop 1).headD 0).toNat + thigh * 2 ^ 32, (l.drop 2).headD 0, bit (l.headD 0) 16, false⟩ ::
      longSamples thigh n (l.drop 3)

/-- A packet taken whole (R428): its samples, and the words that are not processed. -/
def packetSamples (len : Word) (l : List Word) : List HcSample × Nat :=
  let count := bits len 4 0
  let abn := bit len 5
  let hd := l.headD 0
  let n := min 10 ((l.length - 1) / 3)
  let good := l.length = count && 4 ≤ count && count % 3 = 1
  if bits hd 23 16 ≠ 1 || l.isEmpty || !(good || abn) || n = 0 then ([], l.length)
  else (longSamples (bits hd 15 0) n l.tail, l.length - (1 + 3 * n))

/-- The feed port takes one item from the next ready feed in rotation (R426 to R428): none from another. -/
def feedPop (s : State) (h k : Nat) : State :=
  let q := 324 + 4 * h + k
  let c := hcOf s h
  let next := ((List.range 4).map (fun i => (c.turn + i) % 4)).find? (fun i => feedReady s (324 + 4 * h + i))
  if !hcRuns s h || c.drain || !c.work.isEmpty || !c.todo.isEmpty || next ≠ some k then s
  else
    let s := modHc s h (fun c => { c with turn := (k + 1) % 4 })
    match pop s q with
    | (s, none) => s
    | (s, some p) =>
      let stamp := s.metro.toNat
      let (s, l) :=
        if p.tags / 2 % 2 = 0 then
          (s, [(⟨h * 0x8000 + bits p.data 30 16, stamp, BitVec.ofNat 32 (bits p.data 15 0), bit p.data 31, true⟩ : HcSample)])
        else
          let (s, ws) := popWords s q (bits p.data 4 0)
          let (l, bad) := packetSamples p.data ws
          (s.setField (Adr.hcRej3 h) 15 0 (min 0xFFFF (s.field (Adr.hcRej3 h) 15 0 + bad)), l)
      hcProgress (wakeProducers (modHc s h (fun c => { c with work := l })) q) h

/-- FEED_POP: house queue 324 + q, of the compressor it feeds (R425). -/
def execFeedPop (h : Fin 2) (q : Fin 8) (s : State) : Host.Outcome State Fault Refusal :=
  .next (if q.val / 4 = h.val then feedPop s h.val (q.val % 4) else s)

/-! ### Rings, playback start, power fail -/

/-- Base of a ring (R450). -/
def hcRingBase (s : State) (h ring : Nat) : Nat :=
  s.field (Adr.rngBasel h ring) 31 12 * 2 ^ 12 + s.field (Adr.rngCfg h ring) 15 0 * 2 ^ 32
/-- Slots of a ring. -/
def hcSlots (s : State) (h ring : Nat) : Nat := 2 ^ s.field (Adr.rngCfg h ring) 20 16
/-- Address of the slot of a block count. -/
def slotAdr (s : State) (h ring n : Nat) : Nat := hcRingBase s h ring + (1 + n % hcSlots s h ring) * 0x1000

/-- EN of a ring is set (R450): PROD is taken from a matching control slot, or the slot is written anew. -/
def ringEnable (s : State) (h ring : Nat) : State :=
  if s.flag (Adr.rngCfg h ring) 22 || !hcOn s h then s
  else
    let s := s.setFlag (Adr.rngCfg h ring) 22 true
    let word1 := 0x4B4E + s.field (Adr.rngCfg h ring) 20 16 * 2 ^ 16
    let fresh := fun (s : State) =>
      (hcWrite (s.setReg (Adr.rngProd h ring) 0) h ring 64 (hcRingBase s h ring) (leBytes 4 0 ++ leBytes 4 word1 ++ List.replicate 4088 0)).1
    match hcRead s h (hcRingBase s h ring) 8 with
    | (s, .ok l) =>
      if leNat (l.drop 4) = word1 then s.setReg (Adr.rngProd h ring) (BitVec.ofNat 32 (leNat (l.take 4))) else fresh s
    | (s, .error _) => fresh s

/-- RING_ENABLE. -/
def execRingEnable (h : Fin 2) (ring : Fin 4) (s : State) : Host.Outcome State Fault Refusal := .next (ringEnable s h.val ring.val)

/-- RNG_CONS_WRITE. -/
def execRngConsWrite (h : Fin 2) (ring : Fin 4) (v : Word) (s : State) : Host.Outcome State Fault Refusal :=
  .next (if ringOn s (Adr.rngCons h.val ring.val) then s.setReg (Adr.rngCons h.val ring.val) v else s)

/-- PB_CTL.START (R453, R464): the descriptor is read and the counts of the last request clear. A descriptor that cannot be read asks for
no block. -/
def playStart (s : State) (h : Nat) : State :=
  if !hcOn s h || s.flag (Adr.pbCtl h) 1 then s
  else
    let a := s.field (Adr.pbDescl h) 31 6 * 64 + s.field (Adr.pbDesch h) 15 0 * 2 ^ 32
    let (s, r) := hcRead s h a 64
    let l := match r with
      | .ok l => l
      | .error _ => List.replicate 64 0
    let s := modHc s h (fun c => { c with play := some l })
    ((s.setFlag (Adr.pbCtl h) 1 true).setReg (Adr.pbSkip h) 0).setReg (Adr.pbCnt h) 0

/-- PLAYBACK_START. -/
def execPlaybackStart (h : Fin 2) (s : State) : Host.Outcome State Fault Refusal := .next (playStart s h.val)

/-- PFAIL_N asserts (R457): a close in progress is abandoned, to be built again from its half, and the contexts are written back. -/
def hcPfail (s : State) (h : Nat) : State :=
  if !hcOn s h then s
  else cleanCtx (modHc s h (fun c => { c with queue := match c.queue with
    | e :: l => { e with attempt := 0, wrote := false } :: l
    | [] => [] })) h

/-- PFAIL_ASSERT. -/
def execPfailAssert (s : State) : Host.Outcome State Fault Refusal :=
  .next (if s.cxl.pfail || 1 < s.field Adr.pmStat 2 0 then pfailAssert s else hcPfail (hcPfail (pfailAssert s) 0) 1)

end Sys2Proof.Machine
end

