-- ==== Sys2Proof/Machine/Historian.lean ====
section
/-! DEFINITION. The close engine of a historian compressor with its checker (R448, R449, R451), and playback (R453, R454). -/

namespace Sys2Proof.Machine

/-! ### The close engine -/

/-- Blocks that an attempt at a half writes (R446, R449). -/
def closeParts (e : HcClose) : Nat := if e.attempt = 0 then 1 else rawParts e.recs

/-- Block k of an attempt, released at a ring count. -/
def closeBlock (e : HcClose) (prod k : Nat) : List Byte :=
  if e.attempt = 0 then codedBlock e.info prod e.recs else rawBlock e.info prod k e.recs

/-- RNG_PROD of a ring. -/
def hcProd (s : State) (h ring : Nat) : Nat := (s.reg (Adr.rngProd h ring)).toNat

/-- The half at the front of the close queue replaced, or taken away. -/
def setFront (s : State) (h : Nat) (e : Option HcClose) : State :=
  modHc s h (fun c => { c with queue := e.toList ++ c.queue.drop 1 })

/-- A block dropped (R449): counted, with event 2, NOTICE 0x41 and UIB_FAULT.LATESTORE. -/
def dropBlock (s : State) (h : Nat) (e : HcClose) : State :=
  let s := s.incField (Adr.hcBlkerr h) 31 16
  let s := raiseFault s (244 + h) 2 3 0 (some (slotAdr s h e.ring (hcProd s h e.ring)))
  let s := hcNotice (hcEvent s h 2 e.info.chan e.ring) h 0x41 e.info.chan e.info.seq
  hcProgress (setFront s h none) h

/-- The half is written once more, raw (R449), unless that was its second raw write. -/
def rewriteHalf (s : State) (h : Nat) (e : HcClose) : State :=
  if e.attempt = 2 then dropBlock s h e else setFront s h (some { e with attempt := 2, wrote := false })

/-- A slot's block fails its check (R449): a coded one is emitted raw with REEMIT. -/
def failCheck (s : State) (h : Nat) (e : HcClose) : State :=
  if e.attempt = 0 then
    let s := hcEvent (s.incField (Adr.hcBlkerr h) 15 0) h 1 e.info.chan e.ring
    setFront (hcNotice s h 0x40 e.info.chan e.info.seq) h (some { e with attempt := 1, wrote := false })
  else rewriteHalf s h e

/-- One block written to its slot (R451): event 6 where it overwrites a block that is not consumed. -/
def writeBlock (h : Nat) (e : HcClose) (prod : Nat) (acc : State × Bool) (k : Nat) : State × Bool :=
  let s := acc.1
  let n := (prod + k) % 2 ^ 32
  let old := (n + 2 ^ 33 - hcSlots s h e.ring - (s.reg (Adr.rngCons h e.ring)).toNat) % 2 ^ 32
  let s := if !s.flag (Adr.rngCfg h e.ring) 21 && old < 2 ^ 31 then hcEvent s h 6 e.info.chan e.ring else s
  let (s, bad) := hcWrite s h e.ring 64 (slotAdr s h e.ring n) (closeBlock e prod k)
  (s, acc.2 || bad)

/-- Steps 1 and 2 of R448: the half's records are read from the build area and its blocks written to the next free slots. -/
def writeHalf (s : State) (h : Nat) (e : HcClose) : State :=
  let prod := hcProd s h e.ring
  let parts := closeParts e
  if !s.flag (Adr.rngCfg h e.ring) 22 then dropBlock s h e
  else if s.flag (Adr.rngCfg h e.ring) 21 &&
      hcSlots s h e.ring < (prod + 2 ^ 32 - (s.reg (Adr.rngCons h e.ring)).toNat) % 2 ^ 32 + parts then
    if (hcOf s h).holdWait then s else hcEvent (modHc s h (fun c => { c with holdWait := true })) h 4 e.info.chan e.ring
  else
    let s := modHc s h (fun c => { c with holdWait := false })
    match hcRead s h (halfAdr s h e.loc e.half) (12 * e.recs.length) with
    | (s, .error _) => dropBlock s h e
    | (s, .ok _) =>
      let (s, bad) := (List.range parts).foldl (writeBlock h e prod) (s, false)
      if bad then rewriteHalf s h e else setFront s h (some { e with wrote := true })

/-- True while a write of a compressor to a ring has a request outstanding. -/
def hcOutstanding (s : State) (h ring : Nat) : Bool :=
  s.cxl.reqs.any (fun e => match e.2 with
    | some q => q.who == .hc h ring
    | none => false)

/-- Blocks read back from their slots: none where a read draws an error. -/
def readBlocks (s : State) (h ring prod : Nat) : Nat → State × Option (List (List Byte))
  | 0 => (s, some [])
  | n + 1 =>
    match readBlocks s h ring prod n with
    | (s, none) => (s, none)
    | (s, some l) =>
      match hcRead s h (slotAdr s h ring ((prod + n) % 2 ^ 32)) 4096 with
      | (s, .ok b) => (s, some (l ++ [b]))
      | (s, .error _) => (s, none)

/-- A half is released (R448 step 4): PROD to the control slot and RNG_PROD, with event 0. -/
def releaseHalf (s : State) (h : Nat) (e : HcClose) : State :=
  let parts := closeParts e
  let prod : Word := BitVec.ofNat 32 (hcProd s h e.ring + parts)
  let s := (hcWrite (s.setReg (Adr.rngProd h e.ring) prod) h 4 1 (hcRingBase s h e.ring) (leBytes 4 prod.toNat)).1
  let s := s.setReg (Adr.hcBlks h) (s.reg (Adr.hcBlks h) + BitVec.ofNat 32 parts)
  hcProgress (setFront (hcEvent s h 0 e.info.chan e.ring) h none) h

/-- Steps 3 and 4 of R448, once every write of the blocks has completed: a write that failed, or a block that does not decode to its
records, goes the way of R449. -/
def checkHalf (s : State) (h : Nat) (e : HcClose) : State :=
  if hcOutstanding s h e.ring then s
  else
    let failed := s.hcFail.any (fun f => f.1 == h && f.2.1 == e.ring)
    if failed then rewriteHalf { s with hcFail := s.hcFail.filter (fun f => !(f.1 == h && f.2.1 == e.ring)) } h e
    else
      match readBlocks s h e.ring (hcProd s h e.ring) (closeParts e) with
      | (s, none) => failCheck s h e
      | (s, some l) =>
        if l.all blockGood && l.flatMap blockRecs == e.recs then releaseHalf s h e else failCheck s h e

/-- The close engine works at the front half until it is released, dropped, or waits. -/
def closeSteps (s : State) (h : Nat) : Nat → State
  | 0 => s
  | n + 1 =>
    match (hcOf s h).queue with
    | [] => s
    | e :: l =>
      let s' := if e.wrote then checkHalf s h e else writeHalf s h e
      if (hcOf s' h).queue = e :: l || (hcOf s' h).queue.length ≤ l.length then s' else closeSteps s' h n

/-- CLOSE_ENGINE_HALF. -/
def execCloseEngineHalf (h : Fin 2) (s : State) : Host.Outcome State Fault Refusal :=
  .next (if hcRuns s h.val then closeSteps s h.val 8 else s)

/-! ### Playback -/

/-- An entry of the output (R454): time, SRC and value. -/
structure PlayEntry where
  time : Nat
  src : Nat
  value : Word
deriving DecidableEq, Repr

/-- The value of a segment's line at a time (R454, R220). -/
def lineAt (a b : HRec) (t : Nat) : Word :=
  if b.time ≤ a.time then a.value
  else BitVec.ofInt 32 (a.value.toInt + roundDiv ((b.value.toInt - a.value.toInt) * ((t - a.time : Nat) : Int)) (b.time - a.time))

/-- An entry put in order of time: an interpolated one gives way to another entry of its time, and an EXTREME follows it. -/
def putEntry (x : PlayEntry) : List PlayEntry → List PlayEntry
  | [] => [x]
  | y :: l =>
    if x.time < y.time then x :: y :: l
    else if x.time = y.time && x.src = 0 then (if y.src = 4 then x :: y :: l else y :: l)
    else y :: putEntry x l

/-- What a request asks beside its scan (R453): T_START, T_END and STEP. -/
structure PlayAsk where
  t0 : Nat
  t1 : Nat
  step : Nat
deriving DecidableEq, Repr

/-- Times between two bounds, exclusive, in steps from a base. -/
def stepTimes (base step lo hi : Nat) : List Nat :=
  if step = 0 then []
  else
    let first := if lo < base then 0 else (lo - base) / step + 1
    (List.range ((hi - base + step - 1) / step - first)).map (fun j => base + (first + j) * step)

/-- Interpolated times inside a segment (R454): the grid of a periodic channel under STEP 0, the steps of T_START else. -/
def innerTimes (q : PlayAsk) (unit : Option Nat) (a b : HRec) : List Nat :=
  if q.step ≠ 0 then stepTimes q.t0 q.step (max a.time (q.t0 - 1)) (min b.time (q.t1 + 1))
  else match unit with
    | some p => stepTimes a.time p a.time b.time
    | none => []

/-- Entry of a POINT. -/
def pointEntry (x : HRec) : PlayEntry := ⟨x.time, if x.kind % 2 = 1 then 2 else 1, x.value⟩

/-- Entries of a block's records after its first POINT (R454): a segment's TIME and EXTREME records wait for its closing POINT. -/
def playRecs (q : PlayAsk) (unit : Option Nat) (a : HRec) (held : List HRec) : List HRec → List PlayEntry
  | [] => []
  | x :: l =>
    if 4 ≤ x.kind then playRecs q unit a (held ++ [x]) l
    else if 2 ≤ x.kind then pointEntry x :: playRecs q unit x [] l
    else
      let times := (held.filter (fun y => y.kind == 4)).map (fun y => (⟨y.time, 3, lineAt a x y.time⟩ : PlayEntry))
      let inner := ((innerTimes q unit a x).filter (fun t => a.time < t)).map (fun t => (⟨t, 0, lineAt a x t⟩ : PlayEntry))
      let ext := (held.filter (fun y => 5 ≤ y.kind)).map (fun y => (⟨y.time, 4, y.value⟩ : PlayEntry))
      let body := ext.foldl (fun acc y => putEntry y acc) (inner.foldl (fun acc y => putEntry y acc) times)
      body ++ pointEntry x :: playRecs q unit x [] l

/-- Entries of a block (R454): a POINT that only repeats the last one gives none. -/
def playBlock (q : PlayAsk) (last : Option HRec) (b : List Byte) (recs : List HRec) : List PlayEntry :=
  match recs with
  | [] => []
  | x :: l =>
    let cfg := at_ b 6 1
    let unit := if cfg.testBit 0 then some (max 1 (at_ b 36 4)) else none
    let head := if cfg.testBit 5 && last == some x then [] else [pointEntry x]
    let dec := cfg / 8 % 4 == 2
    let show_ := fun (e : PlayEntry) => if dec then { e with value := BitVec.ofNat 32 (toDigits 8 (e.value.toNat % 10 ^ 8)) } else e
    ((head ++ playRecs q unit x [] l).filter (fun e => q.t0 ≤ e.time && e.time ≤ q.t1)).map show_

/-- The 16 bytes of an entry. -/
def entryBytes (e : PlayEntry) : List Byte := leBytes 6 e.time ++ leBytes 1 e.src ++ [0] ++ leBytes 4 e.value.toNat ++ leBytes 4 0

/-- What playback has done: the state, entries written, and the last record decoded. The raw parts of a block are decoded together.
`full`: the capacity has ended the request. -/
structure PlayAcc where
  s : State
  count : Nat
  last : Option HRec
  parts : List HRec
  full : Bool

/-- One block scanned (R454). -/
def playOne (h ring chan out cap : Nat) (q : PlayAsk) (acc : PlayAcc) (n : Nat) : PlayAcc :=
  if acc.full then acc
  else
    match hcRead acc.s h (slotAdr acc.s h ring n) 4096 with
    | (s, .error _) => { acc with s := s.incField (Adr.pbSkip h) 15 0 }
    | (s, .ok b) =>
      if !blockGood b then { acc with s := s.incField (Adr.pbSkip h) 15 0 }
      else if at_ b 4 2 ≠ chan then { acc with s := s }
      else
        let s := s.incField (Adr.pbSkip h) 31 16
        let recs := acc.parts ++ blockRecs b
        if at_ b 3 1 = 1 && at_ b 30 1 + 1 < at_ b 31 1 then { acc with s := s, parts := recs }
        else
          let es := playBlock q acc.last b recs
          let fit := es.take (cap - acc.count)
          let s := (hcWrite s h 4 (fit.length + 1) (out + 16 * acc.count) (fit.flatMap entryBytes)).1
          let s := if fit.length < es.length then s.setFlag (Adr.pbCtl h) 3 true else s
          ⟨s, acc.count + fit.length, recs.getLast?, [], decide (fit.length < es.length)⟩

/-- A playback request runs to its end (R453, R454). -/
def playDone (s : State) (h : Nat) : State :=
  match (hcOf s h).play with
  | none => s
  | some d =>
    if !hcOn s h then s
    else
      let chan := at_ d 2 2
      let q : PlayAsk := ⟨at_ d 12 6, at_ d 18 6, at_ d 24 4⟩
      let first := at_ d 4 4
      let acc := (List.range (at_ d 8 4)).foldl
        (fun acc i => playOne h (at_ d 0 1 % 4) chan (at_ d 28 6) (at_ d 36 4) q acc ((first + i) % 2 ^ 32)) ⟨s, 0, none, [], false⟩
      let s := acc.s.setReg (Adr.pbCnt h) (BitVec.ofNat 32 acc.count)
      let s := (s.setFlag (Adr.pbCtl h) 1 false).setFlag (Adr.pbCtl h) 2 true
      hcEvent (modHc s h (fun c => { c with play := none })) h 5 chan (at_ d 0 1)

/-- PLAYBACK_DONE. -/
def execPlaybackDone (h : Fin 2) (s : State) : Host.Outcome State Fault Refusal := .next (playDone s h.val)

end Sys2Proof.Machine
end

