-- ==== Sys2Proof/Machine/Integrity.lean ====
section
/-! DEFINITION. The scrubber and the queued rewrites (R389 to R394), SRAM soft repair (R378 to R380), and the end of a shadow FORMAT
(R398). -/

namespace Sys2Proof.Machine

/-! ### Arrays -/

/-- Words of a scrubbed array, by its index of R394: 0 for one that is not scrubbed. -/
def arrayWords (n : Nat) : Nat :=
  if n < 32 then 16384 else if n < 144 then 32768 else if n < 176 then 5120 else if n = 176 then 65536 else 0

/-- Base address of an SRAM bank (R378). -/
def bankBase (b : Nat) : Nat :=
  if b < 32 then b * 0x20000
  else if b < 128 then 0x1000000 + (b - 32) / 12 * 0x400000 + (b - 32) % 12 * 0x40000
  else 0x3000000 + (b - 128) * 0x40000

/-- Address of a word of a scrubbed array; none for a prompt book whose slot carries no core, and for the SM's SRAM, which no address
of the map reaches. -/
def arrayAddr (s : State) (n i : Nat) : Option Nat :=
  if n < 144 then some (bankBase n + 8 * i)
  else if n < 176 then
    let t := n - 144
    ((List.range 4).find? (fun k => carrier s (t * 4 + k) == i / 1024)).map (fun k => 0x4000000 + (t * 4 + k) * 0x2000 + i % 1024 * 8)
  else none

/-- True where a word of a scrubbed array is in a domain, or behind a gate, that is ON. -/
def arrayOn (s : State) (n i : Nat) : Bool :=
  if n < 144 then powered s (bankBase n)
  else if n < 176 then domOn s (n - 144) && gateSetting s (n - 144) (i / 1024) == 0
  else domOn s 52

/-! ### Reading a word for its error state -/

/-- What the scrubber found in a word. -/
inductive Found where
  | good | corr | unc
deriving DecidableEq, Repr

/-- A granule whose tag copies disagree is rewritten and counted (R385, R34). -/
def scrubTag (s : State) (a : Nat) : State :=
  if Sparse.get (fun _ => false) s.tagBad (a / 16) then
    let s := setTagAt s (a / 16) (tagAt s (a / 16))
    raiseFault (countMec s (mecIndex a) (mecWord s a) false false) (ownerUib a) 11 2 0 none
  else s

/-- The scrubber's grant at a word (R392): a correctable word is written back, an uncorrectable one is poisoned. -/
def scrubDw (s : State) (a : Nat) : State × Found :=
  let c := cwAt s (a / 8)
  let s := { s with fixQ := s.fixQ.filter (· ≠ a / 8) }
  if c.poison then (s, .unc)
  else if c.bits = 0 then (s, .good)
  else if c.bits ≤ 2 then (setCwAt (corrected s a (c.bits == 2)) (a / 8) Cw.clean, .corr)
  else if c.bits = 3 then (uncorrectable s a 2, .unc)
  else
    let (s, v) := s.fresh
    if bit v 64 then (uncorrectable s a 2, .unc)
    else (setNatAt (setCwAt (corrected s a (bit v 65)) (a / 8) Cw.clean) a 8 (bits v 63 0) 0xFF, .corr)

/-! ### Repair -/

/-- STATE of a repair entry (R378). -/
def repState (s : State) (n : Nat) : Nat := s.field (Adr.repEntry n) 23 22

/-- Entries that repair a bank with a type. -/
def repOf (s : State) (bank ty : Nat) : List Nat :=
  (List.range 32).filter (fun n => repState s n ≠ 0 && s.field (Adr.repEntry n) 7 0 == bank && s.field (Adr.repEntry n) 8 8 == ty)

/-- An entry and a spare free for a repair of a bank (R378). -/
def repFree (s : State) (bank ty : Nat) : Option (Nat × Nat) :=
  match (List.range 32).find? (fun n => repState s n == 0),
    (List.range (if ty = 0 then 16 else 4)).find? (fun k => (repOf s bank ty).all (fun n => s.field (Adr.repEntry n) 21 18 ≠ k)) with
  | some n, some k => some (n, k)
  | _, _ => none

/-- A repair begins: an entry in COPY (R379); REP_STAT.FULL where there is no place. Answers the entry. -/
def startRepair (s : State) (bank ty adr : Nat) : State × Option Nat :=
  match repFree s bank ty with
  | none => (s.setFlag Adr.repStat 16 true, none)
  | some (n, k) =>
    (s.setReg (Adr.repEntry n) (BitVec.ofNat 32 (bank + ty * 2 ^ 8 + adr % 512 * 2 ^ 9 + k * 2 ^ 18 + 2 ^ 22)), some n)

/-- Word indices of its bank that a repair entry's spare covers: first and count. -/
def repRange (s : State) (n : Nat) : Nat × Nat :=
  let w := s.reg (Adr.repEntry n)
  if bit w 8 then (0, arrayWords (bits w 7 0)) else (bits w 16 9 * 128, 128)

/-- The words that a repair copies are read, corrected and rewritten, poison unchanged (R379). -/
def copyWords (s : State) (n : Nat) : State :=
  let base := bankBase (s.field (Adr.repEntry n) 7 0) / 8 + (repRange s n).1
  (s.cw.filter (fun e => decide (base ≤ e.1) && decide (e.1 < base + (repRange s n).2))).foldl (fun s e => (scrubDw s (e.1 * 8)).1) s

/-- A repair's copy is done (R379, R380): the entry is ACTIVE, and PERSISTED once its fuse record is programmed. A record that fails is
used up. -/
def completeRepair (s : State) (n : Nat) (fused : Bool) : State :=
  if repState s n ≠ 1 then s
  else
    let s := (copyWords s n).setField (Adr.repEntry n) 23 22 2
    if 128 ≤ s.sm.records.length then s
    else if fused then (addFuseRecord s 1 (s.field (Adr.repEntry n) 21 0)).setField (Adr.repEntry n) 23 22 3
    else (addFuseRecord s 0 0).setFlag Adr.repStat 17 true

/-- SRAM_REPAIR_COMPLETE. -/
def execSramRepairComplete (n : Fin 32) (fused : Bool) (s : State) : Host.Outcome State Fault Refusal :=
  .next (completeRepair s n.val fused)

/-! ### The scrubber -/

/-- Corrected words found in a row in this pass. -/
def rowCount (s : State) (k : Nat) : Nat := Sparse.get (fun _ => 0) s.scrub.rows k

/-- The repair policy on a word the scrubber found bad (R379): a row with an uncorrectable word, or with 4 corrected words in a pass, is
repaired unless an entry repairs it already. -/
def repairPolicy (s : State) (n i : Nat) (f : Found) : State :=
  if 144 ≤ n || f = .good then s
  else
    let k := n * 256 + i / 128
    let s := if f = .corr then { s with scrub := { s.scrub with rows := Sparse.put (fun _ => 0) s.scrub.rows k (rowCount s k + 1) } } else s
    let known := (repOf s n 0).any (fun e => s.field (Adr.repEntry e) 16 9 == i / 128)
    if (f = .unc || 4 ≤ rowCount s k) && !known then (startRepair s n 0 (i / 128)).1 else s

/-- The position after a word (R391): the end of the last array ends the pass. -/
def nextPos (s : State) (n i : Nat) : State :=
  if i + 1 < arrayWords n then s.setReg Adr.scrubPos (BitVec.ofNat 32 (n + (i + 1) * 2 ^ 8))
  else if n < 176 then s.setReg Adr.scrubPos (BitVec.ofNat 32 (n + 1))
  else
    let s := (s.setReg Adr.scrubPos 0).incField Adr.scrubPass 15 0
    { s.setField Adr.scrubPass 31 16 (min 0xFFFF s.scrub.unc) with scrub := ⟨0, []⟩ }

/-- A word interval of the scrubber (R391, R392): a word that is not powered is skipped, a marked one waits. An uncorrectable word counts
in its pass once, where it is found and poisoned (R386). -/
def scrubWord (s : State) : State :=
  if !s.flag Adr.scrubCtl 0 then s
  else
    let n := s.field Adr.scrubPos 7 0
    let i := s.field Adr.scrubPos 23 8
    match arrayAddr s n i with
    | none => nextPos s n i
    | some a =>
      if !arrayOn s n i || !domOn s 64 then nextPos s n i
      else if marked s a then s
      else
        let was := (cwAt s (a / 8)).poison
        let (s, f) := scrubDw (if i % 2 = 0 && n < 144 then scrubTag s a else s) a
        let s := if f = .unc && !was then { s with scrub := { s.scrub with unc := s.scrub.unc + 1 } } else s
        nextPos (repairPolicy s n i f) n i

/-- SCRUB_WORD. -/
def execScrubWord (s : State) : Host.Outcome State Fault Refusal := .next (scrubWord s)

/-- The first queued rewrite of a corrected word (R389); it waits while its domain is not ON or its line is marked. -/
def rewriteFirst (s : State) : State :=
  match s.fixQ with
  | [] => s
  | dw :: rest =>
    if !powered s (dw * 8) || marked s (dw * 8) then s
    else
      let s := { s with fixQ := rest }
      if (cwAt s dw).poison || 2 < (cwAt s dw).bits then s else setCwAt s dw Cw.clean

/-- CORRECTION_REWRITE. -/
def execCorrectionRewrite (s : State) : Host.Outcome State Fault Refusal := .next (rewriteFirst s)

/-! ### FORMAT -/

/-- Window offset that a port's device address serves in a window; none where no committed decoder of the window holds it. -/
def offsetOf (s : State) (p w d : Nat) : Option Nat :=
  (List.range 4).findSome? (fun n =>
    let m := s.reg (Adr.hdmMap p n)
    let c := s.reg (Adr.hdmCtl p n)
    let inter := w == 2 && winC s == 1
    let serves := if w = 2 then bits c 13 12 == 1 else bits c 13 12 == 0 && p == w
    let d0 := bits c 11 0 * 2 ^ 28
    if bit c 15 && serves && d0 ≤ d && d < d0 + bits m 28 16 * 2 ^ 28 then
      let rel := d - d0
      some (bits m 11 0 * 2 ^ 28 + (if inter then rel / 256 * 512 + p * 256 + rel % 256 else rel))
    else none)

/-- True where a key of the memory holds a byte of a window's data or shadow. -/
def formatted (s : State) (w k : Nat) : Bool :=
  decide (2 ^ 48 ≤ k) &&
    (match offsetOf s ((k - 2 ^ 48) / 2 ^ 41) w ((k - 2 ^ 48) % 2 ^ 41) with
      | some o => decide (o < winCap s w / 16 * 15)
      | none => false)

/-- The FORMAT of a window is done (R398): every granule reads zero with a valid shadow word, which is zero too, and its failed lines are
whole again (R416). -/
def formatDone (s : State) (w : Nat) : State :=
  if !s.flag (Adr.shdCfg w) 1 then s
  else
    let s' := { s with mem := s.mem.filter (fun e => !formatted s w e.1), cw := s.cw.filter (fun e => !formatted s w (e.1 * 8)) }
    let s' := (List.range 64).foldl (fun s i =>
      if s.flag (Adr.cxlFail0 i) 0 && s.field (Adr.cxlFail1 i) 15 8 == w + 1 then freeFail s i else s) s'
    s'.setFlag (Adr.shdCfg w) 1 false

/-- SHADOW_FORMAT_DONE. -/
def execShadowFormatDone (w : Fin 3) (s : State) : Host.Outcome State Fault Refusal := .next (formatDone s w.val)

end Sys2Proof.Machine
end

