-- ==== Sys2Proof/Machine/Power.lean ====
section
/-! DEFINITION. The power controller (R539 to R543, R568): what a domain or a core gate loses when it leaves ON, requests and the segment
test's end, UIB power requests (R30, R31) and UIB cue inputs (R37, R38), and wakes up to the point where the exit is due (R550, R558 to
R564). -/

namespace Sys2Proof.Machine

/-! ### What leaves with the power -/

/-- Registers that the fuses or the AON block stand behind, or that bring-up programs anew: they keep their values when their block loses
power (R363, R372, R378, R404, R536). -/
def keptReg (a : Nat) : Bool :=
  match regAt a with
  | some x =>
    match x.d.reg with
    | .tmap | .lmap | .slackbase | .repEntry | .repStat | .rstCause | .xcStat | .cxlCfg | .hdmMap | .hdmCtl => true
    | _ => false
  | none => false

/-- Registers and queues of a domain return to reset (R541); a pad's latch and its pin level stay (R524). -/
def loseRegs (s : State) (d : Nat) : State :=
  let t := { s with regs := s.regs.filter (fun e => domainOf e.1 ≠ some d || keptReg e.1) }
  let s := if d = 59 then (List.range 192).foldl (fun t p => t.setField (Adr.padCtl p) 6 5 (s.field (Adr.padCtl p) 6 5)) t else t
  (List.range 336).foldl (fun s q => if queueDomain q = d then s.setQueue q Queue.reset else s) s

/-- True where an on-chip address is in a domain and not in a bank that is kept (R541). -/
def lostByte (banks : List Nat) (d a : Nat) : Bool :=
  domainOf a == some d && onChip a && !banks.contains (match regionOf a with
    | .book l => 144 + l / 4
    | _ => bankOf a)

/-- SRAM of a domain is lost: at ON it is zero with valid codes and clear tags (R519, R553). -/
def loseSram (s : State) (d : Nat) (banks : List Nat) : State :=
  { s with
    mem := s.mem.filter (fun e => !lostByte banks d e.1), tags := s.tags.filter (fun e => !lostByte banks d (e.1 * 16))
    tagBad := s.tagBad.filter (fun e => !lostByte banks d (e.1 * 16)), cw := s.cw.filter (fun e => !lostByte banks d (e.1 * 8))
    fixQ := s.fixQ.filter (fun k => !lostByte banks d (k * 8)) }

/-- A core's roles, scenes and beat count are lost (R58, R541). -/
def loseCore (s : State) (core : Nat) : State :=
  let s := (rolesOf core).foldl (fun s r => ((backOut s r).setRole r Role.reset).setScene r Scene.reset) s
  s.setCore core Core.reset

/-- What a domain holds beside its registers, queues and SRAM is lost. -/
def loseUnits (s : State) (d : Nat) : State :=
  if d < 32 then [0, 1, 2, 3].foldl (fun s k => loseCore s (4 * d + k)) s
  else if d < 40 then (s.setWriter (d - 32) []).setStaged (d - 32) []
  else if d < 50 then
    let s := { s with caches := s.caches.filter (fun l => l.lead ≠ d - 40) }
    (List.range 8).foldl (fun s c =>
      if d - 40 = (match s.field Adr.lmap (2 * c + 1) (2 * c) with
        | 0 => c
        | 1 => 8
        | 2 => 9
        | _ => 10) then loseCore s (128 + c) else s) s
  else if d = 51 then { s.setStaged 8 [] with latches := [], cin := [], uibIn := [] }
  else if d = 54 then
    let s := [0, 1].foldl linkDown s
    let s := [0, 1].foldl (fun s p => [0, 1, 2, 3].foldl (fun s n => s.setFlag (Adr.hdmCtl p n) 15 false) s) s
    { s.setStaged 9 [] with cxl := { s.cxl with reqs := [], pos := 0 }, hcFail := [] }
  else if d = 57 || d = 58 then modHc s (d - 57) (fun c => { Hc.reset with chans := c.chans })
  else if d = 59 then { s with pulse := [] }
  else if d = 60 then { s with ser := s.ser.filter (fun e => 9 ≤ e.1) }
  else if d = 61 then { s with ser := s.ser.filter (fun e => e.1 < 9) }
  else if d = 62 then { s with adc := [] }
  else if d = 63 then { s with trace := Trace.reset, tap := { Tap.reset with ir := s.tap.ir, cells := s.tap.cells, capt := s.tap.capt } }
  else if d = 64 then { s with scrub := ⟨0, []⟩ }
  else s

/-- Writes held for stopped clocks whose domain leaves ON end with an error response (R585). -/
def offHeld (s : State) (d : Nat) : State :=
  s.heldW.foldl (fun s e => match e.2 with
    | some w =>
      if domainOf w.addr = some d then
        let s := { s with heldW := Sparse.put (fun _ => none) s.heldW e.1 none }
        let s := (s.setFlag (Adr.xcStat e.1) 1 false).setFlag (Adr.xcStat e.1) 3 true
        match w.by_ with
        | .role _ _ => lateError s w.role 1 w.addr (some w.pc) none
        | _ => s
      else s
    | none => s) s

/-- Loads that wait for a stopped clock of a domain that leaves ON end with an error at their response (R585). -/
def offLoads (s : State) (d : Nat) : State :=
  (List.range 64).foldl (fun s x =>
    let mine := s.regs.any (fun e => clockDom e.1 == some x && domainOf e.1 == some d)
    if mine && s.flag (Adr.xcStat x) 2 then (s.setFlag (Adr.xcStat x) 2 false).setFlag (Adr.xcStat x) 3 true else s) s

/-- A domain leaves ON, or one setting that is not ON for another (R541). -/
def leaveOn (s : State) (d v : Nat) (banks : List Nat) : State :=
  let s := if domSetting s d = 0 then offLoads (offHeld s d) d else s
  let s := if v = 1 then s else loseUnits (loseSram (loseRegs s d) d (if v = 3 then banks else [])) d
  setDomState s d v

/-- Banks that PM_BANKRET keeps (R568), while PM_MODE.BANKS is 1. -/
def keptBanks (s : State) : List Nat :=
  if s.flag Adr.pmMode 2 then (List.range 192).filter (fun n => s.flag (Adr.pmBankret (n / 32)) (n % 32)) else []

/-- A request for a setting of a domain (R540, R541): ON is reached at DOMAIN_ON_COMPLETE, any other setting at once. -/
def requestDom (s : State) (d v : Nat) : State :=
  let s := setDomSet s d v
  if v = 0 || domSetting s d = v then s else leaveOn s d v (keptBanks s)

/-- A request for a setting of a physical player slot's gate (R540). -/
def requestGate (s : State) (t p v : Nat) : State :=
  let n := t * 5 + p
  let s := { s with sm := { s.sm with gateReq := s.sm.gateReq.filter (· ≠ n) } }
  if gateSetting s t p = v then s
  else if v = 0 then { s with sm := { s.sm with gateReq := s.sm.gateReq ++ [n] } }
  else
    let s := s.setField (Adr.coreGate t) (2 * p + 1) (2 * p) v
    if v = 1 then s
    else
      match (List.range 4).find? (fun k => carrier s (4 * t + k) == p) with
      | some k => loseCore s (4 * t + k)
      | none => s

/-- A write of DOMAIN_SET by the SM or DBT (R568): each domain whose setting changes is switched. -/
def writeDomainSet (s : State) (k : Nat) (v : Word) : State :=
  (List.range 16).foldl (fun s i =>
    let d := 16 * k + i
    if 66 ≤ d || bits v (2 * i + 1) (2 * i) = s.field (Adr.domainSet k) (2 * i + 1) (2 * i) then s
    else requestDom s d (bits v (2 * i + 1) (2 * i))) s

/-! ### UIB power requests -/

/-- A write of UIB_PWRREQ (R30, R31). -/
def writePwrreq (s : State) (u : Nat) (v : Word) : State :=
  let a := Adr.uibPwrreq u
  if s.field a 3 2 = 1 then s.setFlag a 4 true
  else
    let s := if bit v 4 then s.setFlag a 4 false else s
    let q := bits v 1 0
    ((s.setField a 1 0 q).setField a 15 8 0).setField a 3 2 (if q = 0 then 0 else 1)

/-- UIB_PWRREQ_WRITE. -/
def execUibPwrreqWrite (u : Fin 256) (v : Word) (s : State) : Host.Outcome State Fault Refusal :=
  .next (if uibPresent u.val && domOn s 51 then writePwrreq s u.val v else s)

/-- The end of a UIB power request (R30, R38). -/
def endPwrreq (s : State) (u status : Nat) : State :=
  let a := Adr.uibPwrreq u
  let s := ((s.setField a 1 0 0).setField a 15 8 status).setField a 3 2 (if status = 0 then 2 else 3)
  if s.field (Adr.uibCuein u) 17 16 = 2 then s.setFlag (Adr.uibCuein u) 13 false else s

/-- A fire at a UIB's cue input acts (R37, R38). -/
def uibCue (s : State) (u : Nat) : State :=
  match s.uibInOf u with
  | [] => s
  | _ :: rest =>
    let a := Adr.uibCuein u
    let s := (s.setUibIn u rest).incField a 31 24
    let act := s.field a 17 16
    if act = 3 then s
    else if s.flag a 13 then s.setFlag a 14 true
    else
      let s := s.setFlag a 13 true
      match act with
      | 0 => settleCue (holdUnit s u true) u
      | 1 => settleCue (holdUnit s u false) u
      | _ =>
        let s := writePwrreq s u 1
        if s.field (Adr.uibPwrreq u) 3 2 = 1 then s else s.setFlag a 13 false

/-- UIB_CUE_ACTION. -/
def execUibCueAction (u : Fin 256) (s : State) : Host.Outcome State Fault Refusal := .next (uibCue s u.val)

/-! ### Wakes -/

/-- The house state in force: 0 RUN, 1 NAP, 2 KEEP, 3 KEEP-ALL, 4 WALK-THROUGH, 5 OFF. -/
def houseNow (s : State) : Nat := s.field Adr.pmStat 2 0

/-- A wake in a house state other than RUN (R558, R564): the first is recorded and its exit is due; a later one is merged. -/
def startWake (s : State) (src detail : Nat) : State :=
  if houseNow s = 0 then s
  else if s.sm.wakeDue then s.incField Adr.wakeStat 7 4
  else
    let tod := (s.metro.toNat + s.sm.timeOff.toNat) % 2 ^ 64
    let n := satInc (s.field Adr.wakeRecord 31 16) 0xFFFF
    let s := s.setReg Adr.wakeRecord (BitVec.ofNat 32 (src + detail % 256 * 2 ^ 4 + houseNow s * 2 ^ 12 + n * 2 ^ 16))
    let s := (s.setReg (Adr.wakeTimel 0) (BitVec.ofNat 32 tod)).setReg (Adr.wakeTimel 1) (BitVec.ofNat 32 (tod / 2 ^ 32))
    let s := s.setField Adr.wakeStat 7 4 0
    { s with sm := { s.sm with wakeDue := true } }

/-- An edge wake (R550): latched while an entry is under way. -/
def edgeWake (s : State) (src detail : Nat) : State :=
  if s.sm.entering ≠ .no && houseNow s = 0 then
    match s.sm.wakeLatch with
    | none => { s with sm := { s.sm with wakeLatch := some (src, detail) } }
    | some _ => s.incField Adr.wakeStat 7 4
  else startWake s src detail

/-- WAKE_I2C_MATCH (R559). -/
def execWakeI2cMatch (read : Bool) (s : State) : Host.Outcome State Fault Refusal :=
  .next (
    if houseNow s = 0 && s.sm.entering = .no then s.incField Adr.wakeI2c 15 8
    else if s.flag Adr.wakeI2c 7 then edgeWake s 1 (if read then 1 else 0) else s)

/-- A debounced level of a wake pin (R560): a wake where its edge or level is enabled, and in RUN and NAP a cue event. The manual gives the
event no payload, so that is a free value. -/
def wakeEdge (s : State) (n : Nat) (level : Bool) : State :=
  let w := s.reg (Adr.wakePin n)
  let was := bit w 6
  let s := s.setFlag (Adr.wakePin n) 6 level
  let acts := match bits w 3 1 with
    | 0 | 3 => level && !was
    | 1 | 4 => !level && was
    | _ => level != was
  if !acts then s
  else
    let s := if houseNow s ≤ 1 then
        let (s, v) := s.fresh
        raiseEvent s (0x3C0 + n) 0 (leBytes 6 v.toNat) none
      else s
    if bit w 0 then (if bits w 3 1 ≤ 2 then edgeWake s 2 n else startWake s 2 n) else s

/-- WAKE_PIN. -/
def execWakePin (n : Fin 16) (level : Bool) (s : State) : Host.Outcome State Fault Refusal := .next (wakeEdge s n.val level)

/-- RTC_ALARM_MATCH (R561). -/
def execRtcAlarmMatch (s : State) : Host.Outcome State Fault Refusal :=
  .next (match s.sm.alarm with
    | none => s
    | some t =>
      if (s.metro.toNat + s.sm.timeOff.toNat) % 2 ^ 64 < t.toNat then s
      else startWake ({ s with sm := { s.sm with alarm := none } }.setFlag Adr.wakeStat 0 true) 3 0)

/-- SPI_WAKE (R562). -/
def execSpiWake (s : State) : Host.Outcome State Fault Refusal := .next (edgeWake s 7 0)

/-- A level wake that is active: an enabled pin at its level, or RTCALM (R550). -/
def levelWake (s : State) : Option (Nat × Nat) :=
  if s.flag Adr.wakeStat 0 then some (3, 0)
  else
    ((List.range 16).find? (fun n =>
      let w := s.reg (Adr.wakePin n)
      bit w 0 && ((bits w 3 1 == 3 && bit w 6) || (bits w 3 1 == 4 && !bit w 6)))).map (fun n => (2, n))

/-! ### Clocks -/

/-- Clock domains that take a PLL from REFCLK, or REFCLK itself (R571). -/
def fromRefclk (d : Nat) : Bool :=
  d = 2 || d = 3 || (15 ≤ d && d ≤ 36) || (40 ≤ d && d ≤ 50) || d = 59 || d = 60 || d = 63

/-- True where a clock domain runs in a house state (R545). -/
def clockInState (st d : Nat) : Bool :=
  if d = 0 || d = 37 || d = 38 || d = 39 || (55 ≤ d && d ≤ 58) || d = 61 || d = 62 then true
  else if d = 1 || d = 51 || d = 52 || d = 53 then st ≠ 5
  else if d = 42 || d = 54 then st ≤ 1
  else st = 0

/-- Clock domains stop as the state and REFCLK say (R545, R654). -/
def stopClocks (s : State) (st : Nat) : State :=
  (List.range 64).foldl (fun s d =>
    if clockInState st d && (s.time.refclk || !fromRefclk d) then s else s.setFlag (Adr.xcStat d) 0 false) s

/-- REFCLK_LOSS (R654). -/
def execRefclkLoss (s : State) : Host.Outcome State Fault Refusal :=
  .next (if s.time.refclk then stopClocks { s with time := { s.time with refclk := false } } (houseNow s) else s)

end Sys2Proof.Machine
end

