-- ==== Sys2Proof/Machine/RegRead.lean ====
section
/-! DEFINITION. Reads of the device region (R10, R11, R24): the value that a word shows, and the reads that have a side effect or an open
value. -/

namespace Sys2Proof.Machine

/-- The part's time of day in µs (R518). -/
def todNow (s : State) : Nat := (s.metro.toNat + s.sm.timeOff.toNat) % 2 ^ 64

/-- Times of a physical core's faults (R365). -/
def faultsOf (s : State) (p : Nat) : List Nat := Sparse.get (fun _ => []) s.sm.faultTimes p

/-- Faults of a physical core in the last days (R365). -/
def faultsWithin (s : State) (p days : Nat) : Nat :=
  ((faultsOf s p).filter (fun t => decide (todNow s ≤ t + days * 86400000000))).length


/-- Sessions open (R478). -/
def sessionCount (s : State) : Nat := (s.sm.sessions.filter (fun e => e.2.isSome)).length

/-! ### UIB words -/

/-- Power of a domain as UIB_STATE shows it (R28, R541): 0 ON, 1 RETAIN, 2 OFF; BANKS shows whether any bank is kept. -/
def domPwr (s : State) (d : Nat) : Nat :=
  match domSetting s d with
  | 3 => if (keptBanks s).any (fun b => (b < 144 && domainOf (bankBase b) == some d) || (d == 52 && b == 176)) then 1 else 2
  | v => v

/-- Domains of a unit's own (R539); a core's gate is not among them. -/
def unitDomains (u : Nat) : List Nat :=
  if u = 0 then [51, 64]
  else if u ≤ 8 then [32 + (u - 1)]
  else if u ≤ 47 then [u - 16]
  else if u < 192 then []
  else if u = 240 || u = 241 then [48 + (u - 240)]
  else if u = 242 then [52]
  else if u = 243 then [54, 55, 56]
  else if u = 244 || u = 245 then [57 + (u - 244)]
  else if u = 246 then [51]
  else if u = 247 then [53]
  else if u = 248 then [59, 60, 61, 62]
  else if u = 249 then [65]
  else if u = 250 then [50]
  else []

/-- Powers of a unit's own domains or gate: 0 ON, 1 RETAIN, 2 OFF (R28, R540). -/
def ownPwr (s : State) (u : Nat) : List Nat :=
  let code := fun v => if v = 3 then 1 else v
  if 64 ≤ u && u ≤ 199 then
    (if u < 192 && !domOn s ((u - 64) / 4) then [domPwr s ((u - 64) / 4)] else [code (coreSetting s (coreOfUib u))])
  else if 208 ≤ u && u ≤ 239 then (if domOn s (u - 208) then [gateSetting s (u - 208) 4] else [domPwr s (u - 208)])
  else (unitDomains u).map (domPwr s)

/-- Powers at and beneath a unit. -/
def allPwr (s : State) (u : Nat) : List Nat := (uibBeneath u).flatMap (ownPwr s)

/-- The value common to a list, or the mixed code. -/
def common (mixed : Nat) (l : List Nat) : Nat :=
  match l with
  | [] => 0
  | v :: t => if t.all (· == v) then v else mixed

/-- True where a role waits without bound (R28, R47). -/
def roleWaits (s : State) (r : Nat) : Bool :=
  let x := s.role r
  match x.busy with
  | .push _ | .pop _ | .waiting | .waitcue _ => true
  | .load w =>
    loadOutstanding s r || (Ulufy.cls w == 4 && (match regionOf (loadAddr x w) with
      | .cxl _ => true
      | _ => (clockDom (loadAddr x w)).isSome))
  | _ => false

/-- STATE of a logical core (R28). -/
def coreState (s : State) (core : Nat) : Nat :=
  let none := if core < 128 then carrier s core = 7 else s.field Adr.lmap (2 * (core - 128) + 1) (2 * (core - 128)) = 3
  let live := (rolesOf core).filter (fun r => (s.role r).started)
  if none then 9
  else if coreSetting s core = 1 || coreSetting s core = 3 then 1
  else if coreSetting s core = 2 then 0
  else if coreDark s core then 6
  else if live.isEmpty then 0
  else if live.all (fun r => (s.role r).onHold) then 5
  else if live.all (fun r => (s.role r).onHold || roleWaits s r) then 4
  else 3

/-- True where a physical spare carries a logical unit, and where it is retired (R44): its UIB index is 208 to 241. -/
def spareIn (s : State) (u : Nat) : Bool :=
  if u < 240 then (List.range 4).any (fun k => carrier s ((u - 208) * 4 + k) == 4)
  else (List.range 8).any (fun c => s.field Adr.lmap (2 * c + 1) (2 * c) == 1 + (u - 240))

/-- STATE of a unit that is no group (R28, R44). -/
def ownState (s : State) (u : Nat) : Nat :=
  if uibIsCore u then coreState s (coreOfUib u)
  else if 208 ≤ u && u ≤ 241 then
    if (if u < 240 then s.flag (Adr.tmap (u - 208)) 20 else s.flag Adr.lmap (16 + 8 + (u - 240))) then 9
    else if spareIn s u then 8 else 7
  else if common 3 (ownPwr s u) = 0 then 3 else 0

/-- True for the units that combine children (R41). -/
def uibIsGroup (u : Nat) : Bool := u ≤ 47

/-- STATE of a unit (R28, R41). -/
def unitState (s : State) (u : Nat) : Nat :=
  if uibIsGroup u then common 15 ((coresBeneath u).map (coreState s)) else ownState s u

/-- UIB_STATE (R28, R41, R44). -/
def uibStateWord (s : State) (u : Nat) : Word :=
  let under := uibBeneath u
  let single := under.filter (fun v => !uibIsGroup v)
  let has := fun n => single.any (fun v => ownState s v == n)
  let pw := allPwr s u
  let cores := (coresBeneath u).filter (fun c => 128 ≤ c || carrier s c ≠ 7)
  let scene := cores.any (fun c => (rolesOf c).any (fun r => recFlag s r 8))
  let cast := (List.range 32).any (fun t =>
    (s.flag (Adr.scnCast t) 0 && cores.any (fun c => c == 4 * t || c == 4 * t + 1)) ||
    (s.flag (Adr.scnCast t) 1 && cores.any (fun c => c == 4 * t + 2 || c == 4 * t + 3)))
  let spare := under.any (fun v => (208 ≤ v && v ≤ 241 && spareIn s v) || (64 ≤ v && v < 192 && carrier s (v - 64) == 4) ||
    (192 ≤ v && v ≤ 199 && (let k := s.field Adr.lmap (2 * (v - 192) + 1) (2 * (v - 192)); k == 1 || k == 2)))
  let f := fun (b : Bool) n => if b then 2 ^ n else 0
  BitVec.ofNat 32 (unitState s u + f (pw.contains 2) 4 + f (pw.contains 1) 5 + f (has 3) 6 + f (has 4) 7 + f (has 5) 8 + f (has 6) 9 +
    f scene 10 + f cast 11 + f spare 12 + common 3 pw * 2 ^ 16)

/-- UIB_ID (R26). -/
def uibIdWord (u : Nat) : Word :=
  let kind := if u = 0 then 0 else if u ≤ 8 then 1 else if u ≤ 47 then 2 else if u ≤ 191 then 3 else if u ≤ 199 then 4
    else if u ≤ 239 then 6 else if u ≤ 241 then 7 else 5
  let co := if u = 0 then 0 else if u ≤ 8 then u - 1 else if u ≤ 47 then (u - 16) / 4 else if u ≤ 191 then (u - 64) / 16
    else if u ≤ 199 then u - 192 else if u ≤ 239 then (u - 208) / 4 else 0
  let tr := if 16 ≤ u && u ≤ 47 then (u - 16) % 4 else if 64 ≤ u && u ≤ 191 then (u - 64) / 4 % 4
    else if 208 ≤ u && u ≤ 239 then (u - 208) % 4 else 0
  let cr := if 64 ≤ u && u ≤ 191 then (u - 64) % 4 else 0
  BitVec.ofNat 32 (kind + u * 2 ^ 8 + co * 2 ^ 16 + tr * 2 ^ 19 + cr * 2 ^ 21)

/-- UIB_INFO (R27). -/
def uibInfoWord (u : Nat) : Word :=
  if u = 0 then BitVec.ofNat 32 (0x7160 + 2 * 2 ^ 16 + 2 ^ 20 + Config.order.toNat * 2 ^ 24)
  else if (64 ≤ u && u ≤ 191) || (208 ≤ u && u ≤ 239) then 0x42
  else if (192 ≤ u && u ≤ 199) || u = 240 || u = 241 then 0x22
  else 0

/-- UIB_CHILDREN (R39). -/
def uibChildrenWord (u : Nat) : Word :=
  let w := fun a n b m => BitVec.ofNat 32 (a + n * 2 ^ 8 + b * 2 ^ 16 + m * 2 ^ 24)
  if u = 0 then w 1 8 240 11
  else if u ≤ 8 then w (16 + 4 * (u - 1)) 4 (192 + (u - 1)) 1
  else if 16 ≤ u && u ≤ 47 then w (64 + 4 * (u - 16)) 4 (208 + (u - 16)) 1
  else 0

/-! ### The value of a word -/

/-- SCN_STAT of a player role (R359). -/
def scnStatWord (s : State) (r : Nat) : Word :=
  let f := fun (b : Bool) n => if b then 2 ^ n else 0
  let c := s.scene r
  BitVec.ofNat 32 (f (recFlag s r 8) 0 + f (recFlag s r 10) 1 + f (recFlag s r 9) 2 + f c.releasing 3 + c.wings.length % 256 * 2 ^ 4 +
    c.effects % 64 * 2 ^ 12 + journalCount s r % 512 * 2 ^ 18)

/-- Role of the n-th instance of a register array of a unit: a troupe's 16 roles, or a lead's two. -/
def roleAt (u n : Nat) : Nat := if u ≤ 8 then 512 + 2 * (u - 1) + n else (u - 16) * 16 + n

/-- A word with a field that counts or shows something the part keeps elsewhere. -/
def showField (w : Word) (hi lo v : Nat) : Word := setBits w hi lo v

/-- The value that a word of the device region shows. -/
def regValue (s : State) (a : Nat) : Word :=
  let v := s.reg a
  match regAt a with
  | none => 0
  | some x =>
    let u := x.unit
    let i := x.ix.headD 0
    match x.d.reg with
    | .uibId => uibIdWord u
    | .uibInfo => uibInfoWord u
    | .uibState => uibStateWord s u
    | .uibFault => faultBits s u ||| (v &&& 0xFFFF0000)
    | .uibHold => if holdable u then setBit v 1 (unitHeld s u) else 0
    | .uibChildpresent => BitVec.ofNat 32 (childPresent u)
    | .uibBlock => if blockLen u = 0 then 0 else BitVec.ofNat 32 (blockBase u)
    | .uibBlocklen => BitVec.ofNat 32 (blockLen u)
    | .uibChildren => uibChildrenWord u
    | .qcount => qcountWord s u
    | .smStat => showField v 6 3 (sessionCount s)
    | .scnStat => scnStatWord s (roleAt u i)
    | .scnId => showField v 25 16 (roleAt u i)
    | .cswStat => showField v 6 0 (s.writer (u - 1)).length
    | .slack => showField v 23 16 (min 255 (faultsWithin s ((u - 16) * 5 + i) 30))
    | .lslack => showField v 23 16 (min 255 (faultsWithin s (160 + i) 30))
    | .repStat => showField (showField v 5 0 ((List.range 32).filter (fun n => repState s n ≠ 0)).length) 15 8 s.sm.records.length
    | .cxlDir => showField v 13 0 (s.caches.filter (fun l => l.dirty)).length
    | .trStat => showField v 24 16 s.trace.fifo.length
    | .prPc | .lprPc => (s.role (roleAt u i)).pc
    | .serStat =>
      let c := serOf s i
      setBit (showField (showField v 6 0 c.fifo.length) 14 8 (min 64 (rxBytes c.rx))) 20 c.line.isSome
    | .puStat => setBit v 0 (pulseRuns s i)
    | .metroLo => metroLo s
    | .fuseData => Sparse.get (fun _ => 0) s.sm.ownerFuse (s.field Adr.fuseAddr 5 0)
    | _ => v

/-- True where PU_CNT is the position in a period that runs, which moves with every clock (R597). -/
def pwmPosition (s : State) (a : Nat) : Bool :=
  match regAt a with
  | some x => x.d.reg == .puCnt && pulseRuns s (x.ix.headD 0) && s.field (Adr.puCtl (x.ix.headD 0)) 1 0 == 1
  | none => false

/-- A read by a load: METRO_LO latches METRO_HI (R62), and the position in a running PWM period is a free value (log 8). -/
def devRead (s : State) (a : Nat) : State × Word :=
  if a = Adr.metroLo then readMetroLo s
  else if pwmPosition s a then
    let (s, v) := s.fresh
    (s, BitVec.ofNat 32 v.toNat)
  else (s, regValue s a)

end Sys2Proof.Machine
end

