-- ==== Sys2Proof/Machine/SceneCtl.lean ====
section
/-! DEFINITION. Writes of SCN_CTL by the stage manager and through DBT (R359, R611). -/

namespace Sys2Proof.Machine

/-- True where a write of SCN_CTL can act on a role: it has an open scene, and it is held or owns beats (R611). -/
def sceneCtlActs (s : State) (r : Nat) : Bool :=
  let x := s.role r
  !isLead r && recFlag s r 8 && (x.onHold || (x.started && !x.frozen && coreOn s (coreOf r) && !coreDark s (coreOf r)))

/-- What a role runs as a prompt ends with its scene (R613): it is cancelled. -/
def endForScene (s : State) (r : Nat) : State :=
  let s := (abandonWork s r 3).1
  if (s.role r).prompt then endPrompt s r 5 0 0 else s

/-- ABANDON by the SM or through DBT (R611): the scene is abandoned with no replay and no vector. -/
def ctlAbandon (s : State) (r : Nat) : State := if sceneCtlActs s r then dropScene (endForScene s r) r 6 else s

/-- REPLAY by the SM or through DBT (R611): the scene is abandoned for replay; a held role replays from its release on. -/
def ctlReplay (s : State) (r : Nat) : State := if sceneCtlActs s r then replayScene (endForScene s r) r 7 0x10 7 else s

/-- CLRCNT (R359): SCN_ABN.COUNT clears. -/
def clearAbnCount (s : State) (r : Nat) : State := s.setField (Adr.scnAbn (troupeOf r) (troupeIx r)) 31 16 0

/-- A write of a role's SCN_CTL (R359): ABANDON and REPLAY of the SM or through DBT, and CLRCNT. A role's own ABANDON in its scene acts
at the store's issue. -/
def writeScnCtl (s : State) (a : Agent) (r : Nat) (v : Word) : State :=
  let s := if bit v 0 && isSmOrDbt a then ctlAbandon s r else s
  let s := if bit v 1 && isSmOrDbt a then ctlReplay s r else s
  if bit v 2 then clearAbnCount s r else s

end Sys2Proof.Machine
end

