-- ==== Sys2Proof/Machine/RegWrite.lean ====
section
/-! DEFINITION. Writes of the device region (R10): the fields that a register table lets a write change, and what a write of each register
does beside. -/

namespace Sys2Proof.Machine

/-! ### Prompts up to their beat -/

/-- PR_INSTR of a role. -/
def promptWord (s : State) (r : Nat) : Word :=
  if isLead r then s.reg (Adr.lprInstr (companyOf r) (roleIn r)) else s.reg (Adr.prInstr (troupeOf r) (troupeIx r))

/-- A write of GO (R613 to R615): a prompt of a role that is not held does not run; a REP and classes 0xD to 0xF are refused. What it
starts runs in the role's next owned beat. -/
def beginPrompt (s : State) (r : Nat) : State :=
  let x := s.role r
  let c := Ulufy.cls (promptWord s r)
  if !x.onHold then s.setFlag (prStatAdr r) 3 true
  else if x.prompt then s
  else if c = 11 || 13 ≤ c then s.setFlag (prStatAdr r) 4 true
  else (s.modRole r (fun x => { x with prompt := true, busy := .idle })).setFlag (prStatAdr r) 0 true

/-- CANCEL (R613): a running prompt is abandoned. -/
def promptCancel (s : State) (r : Nat) : State :=
  if (s.role r).prompt then endPrompt (abandonWork s r 1).1 r 5 0 0 else s

/-! ### Fields -/

/-- True for a value that a field takes. -/
def Legal.ok (l : Legal) (v : Nat) : Bool :=
  match l with
  | .any => true
  | .range lo hi => decide (lo ≤ v) && decide (v ≤ hi)
  | .queue lo hi => decide (v < 336) && !(decide (lo ≤ v) && decide (v ≤ hi))

/-- One field of a word written (R10): RW takes a legal value, W1C clears, WO holds nothing. -/
def putField (v : Word) (w : Word) (f : FieldD) : Word :=
  let hi := f.lo + f.width - 1
  match f.acc with
  | .rw => if f.legal.ok (bits v hi f.lo) then setBits w hi f.lo (bits v hi f.lo) else w
  | .w1c => w &&& ~~~(v &&& fieldMask 32 hi f.lo)
  | .wo => w

/-- A word with every writable field written. -/
def putFields (l : List FieldD) (w v : Word) : Word := l.foldl (putField v) w

/-- True for an agent that may write a register. -/
def mayWrite (w : Writer) (a : Agent) : Bool :=
  match w, a with
  | .plain, _ => true
  | .smDbt, a => isSmOrDbt a
  | .sm, .sm => true
  | .dbt, .link => true
  | .dbt, .role _ d => d
  | _, _ => false

/-! ### Single registers -/

/-- A write of CS_CONS (R294): a count that would pass PROD is refused. -/
def writeCons (s : State) (r l : Nat) (v : Word) : State :=
  let a := Adr.csCons (companyOf r) (companyIx r) (l - 1)
  let new := bits v 15 0
  if ringFill s r l < (new + 2 ^ 16 - ringCons s r l) % 2 ^ 16 then s.setFlag (ringStatAdr r l) 17 true else s.setField a 15 0 new

/-- A write of CS_BASEL or CS_CFG (R299): a new place or size clears the counts and what is owed. -/
def writeDescriptor (s : State) (r l a : Nat) (w : Word) : State :=
  let c := companyOf r
  let i := companyIx r
  let moved := if a = Adr.csCfg c i (l - 1) then bits (s.reg a) 19 0 != bits w 19 0 else s.reg a != w
  let s := s.setReg a w
  if moved then
    let s := (s.setField (Adr.csProd c i (l - 1)) 15 0 0).setField (Adr.csCons c i (l - 1)) 15 0 0
    (s.setFlag (ringStatAdr r l) 16 false).setOvf (ringKey r l) Ovf.reset
  else s

/-- Role of a company role index of R299. -/
def companyRole (c i : Nat) : Nat := if i < 64 then c * 64 + i else 512 + 2 * c + (i - 64)

/-- True for a call-sheet route, or LOOP report, that R285 refuses. -/
def badSheet (w : Word) : Bool := bit w 16 && (527 < bits w 9 0 || !(1 ≤ bits w 15 12 && bits w 15 12 ≤ 12))

/-- True for a word of a routing register that R285 refuses. -/
def badRoute (g : Reg) (w : Word) : Bool :=
  match g with
  | .chSrc => bit w 16 && bits w 11 0 ≠ 0 && (evLatch (bits w 11 0)).isNone
  | .chCs | .cxLooprpt => badSheet w
  | .chRt => bit w 16 && !legalRoute (bits w 12 0) (bits w 18 17)
  | _ => false

/-- A write of SER_CFG (R593): fields other than EN only while EN is 0, and CAN FD only on channels 12 to 15. -/
def writeSerCfg (s : State) (ch : Nat) (w v : Word) : State :=
  let a := Adr.serCfg ch
  let old := s.reg a
  let new := if bit old 2 then setBit old 2 (bit v 2)
    else if bits v 1 0 = 3 && !(12 ≤ ch && ch ≤ 15) then setBits w 1 0 (bits old 1 0) else w
  serPush (txKick (s.setReg a new) ch) ch

/-- True for a bit timing that keeps the ranges of its row (R593). -/
def canTimingOk (w : Word) : Bool :=
  decide (1 ≤ bits w 12 5) && decide (1 ≤ bits w 19 13) && decide (1 ≤ bits w 26 20) && decide (bits w 26 20 ≤ bits w 19 13)

/-- A write of PU_CTL (R597): setting EN starts the unit as a register write does. -/
def writePuCtl (s : State) (u : Nat) (w : Word) : State :=
  let was := s.flag (Adr.puCtl u) 2
  let s := s.setReg (Adr.puCtl u) w
  if bit w 2 && !was then pulseStart s u 0 else s

/-- A write of PU_PER or PU_DUTY: it takes effect at once unless a PWM period runs (R597). -/
def writePuShape (s : State) (u a : Nat) (w : Word) : State :=
  let s := s.setReg a w
  if pulseRuns s u && s.field (Adr.puCtl u) 1 0 = 1 then s else pulseLoad s u

/-- A write of ADC_CTL (R598, R599): setting EN forgets what was converted, CONT starts a sequence, clearing EN ends one. -/
def writeAdcCtl (s : State) (n : Nat) (w v : Word) : State :=
  let was := s.flag (Adr.adcCtl n) 0
  let s := s.setReg (Adr.adcCtl n) w
  let s := if bit w 0 && !was then (List.range 8).foldl (fun s k => s.setFlag (Adr.adcRes n k) 16 false) s else s
  let s := if bit w 0 then s else setAdc (s.setFlag (Adr.adcStat n) 0 false) n AdcSt.reset
  let s := if bit v 6 then adcGo s n else s
  if bit w 0 && bit w 4 && !s.flag (Adr.adcStat n) 0 then adcStart s n else s

/-- True for a queue that an ADC's results may go to (R599). -/
def adcQueueOk (s : State) (n q : Nat) : Bool := q < 320 || (324 ≤ q && q < 332 && s.flag (Adr.adcCtl n) 5)

/-- A write of TMR_CTL (R302): MODE stands while the timer runs; STOP comes before START. -/
def writeTmrCtl (s : State) (n : Nat) (w v : Word) : State :=
  let a := Adr.tmrCtl n
  let w := if s.flag (Adr.tmrStat n) 0 then setBits w 1 0 (s.field a 1 0) else w
  let s := s.setReg a w
  let s := if bit v 17 then stopTimer s n else s
  if bit v 16 then startTimer s n 0 else s

/-- A write of PR_CTL (R613): CANCEL before GO. -/
def writePrCtl (s : State) (r a : Nat) (w v : Word) : State :=
  let s := s.setReg a w
  let s := if bit v 1 then promptCancel s r else s
  if bit v 0 then beginPrompt s r else s

/-- A write of HC_CMD (R461): ignored while a command runs. -/
def writeHcCmd (s : State) (h : Nat) (w v : Word) : State :=
  if s.flag (Adr.hcCmd h) 19 then s else hcCommand (s.setReg (Adr.hcCmd h) w) h (bits v 18 16)

/-- A write of RNG_BASEL or RNG_CFG (R462): only EN changes while EN is 1. -/
def writeRng (s : State) (h ring a : Nat) (w : Word) : State :=
  if s.flag (Adr.rngCfg h ring) 22 then
    (if a = Adr.rngCfg h ring && !bit w 22 then s.setFlag a 22 false else s)
  else
    let s := s.setReg a (setBit w 22 (a ≠ Adr.rngCfg h ring && bit w 22))
    if a = Adr.rngCfg h ring && bit w 22 then ringEnable s h ring else s

/-- A write of a decoder register through DBT or by the SM (R407): a set that breaks a rule is left as it was. -/
def writeDecoder (s : State) (a : Nat) (w : Word) : State :=
  let t := s.setReg a w
  if decodersLegal t then commitDecoders t false else s

/-- A write of CXL_CFG (R403): CTO takes effect, the rest at the next PORST_N. -/
def writeCxlCfg (s : State) (w : Word) : State :=
  let s := s.setField Adr.cxlCfg 10 8 (bits w 10 8)
  { s with sm := { s.sm with cxlNext := some (bits w 1 0, bits w 3 2, bits w 5 4, bits w 6 6) } }

/-- A write of FUSE_CTL (R535): GO starts the programming of DATA into WORD. -/
def writeFuseCtl (s : State) (w v : Word) : State :=
  if s.flag Adr.fuseCtl 1 then s
  else
    let s := s.setReg Adr.fuseCtl w
    if bit v 0 then s.setFlag Adr.fuseCtl 1 true else s

/-- A word of PM_BANKRET keeps bits for banks 0 to 143 and the SM keep bank (R568). -/
def bankretMask (k : Nat) : Word := if k < 4 then 0xFFFFFFFF else if k = 4 then 0xFFFF else 0x10000

/-- A write that TWD_CTL takes (R621): a counter that starts is loaded with its period. -/
def writeTwdCtl (s : State) (t k : Nat) (w : Word) : State :=
  let was := s.flag (Adr.twdCtl t k) 16
  let s := s.setReg (Adr.twdCtl t k) w
  if bit w 16 && !was then s.setField (Adr.twdStat t k) 15 0 (bits w 15 0) else s

/-- A write of TWD_SVC reloads the counter (R621). -/
def writeTwdSvc (s : State) (t k : Nat) : State := s.setField (Adr.twdStat t k) 15 0 (s.field (Adr.twdCtl t k) 15 0)

/-- A write of SCN_CAST (R348): a pair's bit stays while a role of its cores is started. -/
def writeCast (s : State) (t : Nat) (w : Word) : State :=
  let a := Adr.scnCast t
  let busy := fun k => (rolesOf (4 * t + k) ++ rolesOf (4 * t + k + 1)).any (fun r => (s.role r).started)
  let w := if busy 0 then setBit w 0 (s.flag a 0) else w
  s.setReg a (if busy 2 then setBit w 1 (s.flag a 1) else w)

/-- FLUSH of a queue (R319): producers that waited for room go on. -/
def flushQueue (s : State) (q : Nat) : State := wakeProducers (flush s q) q

/-! ### The registers of each block -/

/-- Writes of UIB words: none where the UIB's own registers are not concerned. -/
def writeUib (s : State) (a : Agent) (x : RegAt) (adr : Nat) (v : Word) : Option State :=
  match x.d.reg with
  | .uibPwrreq => some (writePwrreq s x.unit v)
  | .uibFault =>
    let s := clearFaultBits s x.unit v
    some (if bit v 15 then s.setField adr 31 16 0 else s)
  | .uibHold => some (writeHold s x.unit v)
  | .uibCuein => some (writeCuein s a x.unit v)
  | .uibChildmask => some (s.setReg adr (v &&& BitVec.ofNat 32 (childPresent x.unit)))
  | _ => none

/-- Writes of queue ports, the house, company and troupe blocks that do more than set fields. `w` is the word with its fields set. -/
def writeHouse (s : State) (a : Agent) (x : RegAt) (adr : Nat) (w v : Word) : Option State :=
  let u := x.unit
  let i := x.ix.headD 0
  let j := (x.ix.drop 1).headD 0
  let r := roleAt u i
  match x.d.reg with
  | .qctl => some (if bit v 0 then flushQueue s u else s)
  | .qerrcnt => some (if bit v 31 then s.setReg adr 0 else s)
  | .curClr => some (if bit v 0 then (s.setReg (Adr.curCnt i) 0).setReg (Adr.curErr i) 0 else s)
  | .mecCnt | .shdCnt => some (if bit v 31 then s.setReg adr 0 else s)
  | .fuseAddr | .fuseData => some (if s.flag Adr.fuseCtl 1 then s else s.setReg adr w)
  | .fuseCtl => some (writeFuseCtl s w v)
  | .xcStat => some (s.setReg adr (if bit v 31 then setBits (setBits w 15 8 0) 30 16 0 else w))
  | .xcArb => some (if bit v 31 then s.setReg adr 0 else s)
  | .trCtl => some (
      let s' := s.setReg adr w
      if bit w 0 && !s.flag adr 0 then { s' with trace := { s'.trace with syncOwed := true, sent := 0 } } else s')
  | .trStat => some (if bit v 31 then s.setField adr 15 0 0 else s)
  | .csBasel | .csCfg => some (writeDescriptor s (companyRole (u - 1) i) (j + 1) adr w)
  | .csCons => some (writeCons s (companyRole (u - 1) i) (j + 1) v)
  | .csStat => some (s.setReg adr (if bit v 31 then setBits w 15 0 0 else w))
  | .cswStat => some (if bit v 15 then (s.setField adr 14 8 0).setField adr 31 16 0 else s)
  | .prCtl | .lprCtl => some (writePrCtl s r adr w v)
  | .prPc | .lprPc => some (if (s.role r).onHold then s.modRole r (fun x => { x with pc := v, fetchQ := [] }) else s)
  | .spotHits => some (if bit v 31 then s.setReg adr 0 else s)
  | .scnCtl => some (writeScnCtl s a r v)
  | .scnCast => some (writeCast s (u - 16) w)
  | .twdCtl => some (writeTwdCtl s (u - 16) i w)
  | .twdSvc => some (writeTwdSvc s (u - 16) i)
  | _ => none

/-- Writes of the CXL controller, the compressors and the crossbar that do more than set fields. -/
def writeFabric (s : State) (a : Agent) (x : RegAt) (adr : Nat) (w v : Word) : Option State :=
  let h := x.unit - 244
  let i := x.ix.headD 0
  match x.d.reg with
  | .cxlCfg => some (writeCxlCfg s w)
  | .hdmMap | .hdmCtl => some (writeDecoder s adr w)
  | .cxlWin => some (if a = .sm then s.setReg adr w else s)
  | .hcCtl => some (writeHcCtl s h v)
  | .hcCtxl | .hcCtxh | .hcBldl | .hcBldh => some (if s.flag (Adr.hcCtl h) 0 then s else s.setReg adr w)
  | .hcCmd => some (writeHcCmd s h w v)
  | .rngBasel | .rngCfg => some (writeRng s h i adr w)
  | .hcClr => some (if bit v 0 then
      [Adr.hcRej0 h, Adr.hcRej1 h, Adr.hcRej2 h, Adr.hcRej3 h, Adr.hcBlkerr h].foldl (fun s a => s.setReg a 0) s else s)
  | .pbCtl => some (let s := s.setReg adr w; if bit v 0 then playStart s h else s)
  | .chSrc | .chCs | .chRt | .cxLooprpt => some (if badRoute x.d.reg w then s.setFlag Adr.cxStat 0 true else s.setReg adr w)
  | .chClr => some (if bit v 0 then (s.setField (Adr.chStat i) 15 0 0).setField (Adr.chStat i) 31 24 0 else s)
  | .cxLoop | .cqCin | .wcCin | .tmrCin | .padCin | .adcCin | .serTask | .puTask =>
    some (s.setReg adr (if (if x.d.reg = .cxLoop then bit v 0 else bit v 1) then setBits w 15 8 0 else w))
  | _ => none

/-- Writes of the field I/O ring and the AON block that do more than set fields. -/
def writeRing (s : State) (a : Agent) (x : RegAt) (adr : Nat) (w v : Word) : Option State :=
  let i := x.ix.headD 0
  match x.d.reg with
  | .padCtl => some (s.setReg adr (if bit v 14 then setBits w 31 16 0 else w))
  | .serCfg => some (writeSerCfg s i w v)
  | .serRxq => some (serPush (s.setReg adr w) i)
  | .serTx => some (txWrite s i v)
  | .serStat => some (let s := s.setReg adr w; if bit v 31 then s.setReg (Adr.serCnt i) 0 else s)
  | .canNbt => some (if canTimingOk w then s.setReg adr w else s)
  | .puCtl => some (writePuCtl s i w)
  | .puPer | .puDuty => some (writePuShape s i adr w)
  | .adcCtl => some (writeAdcCtl s i w v)
  | .adcQ => some (s.setReg adr (if adcQueueOk s i (bits v 8 0) then w else setBits w 8 0 (s.field adr 8 0)))
  | .tmrCtl => some (writeTmrCtl s i w v)
  | .tmrStat => some (s.setReg adr (if bit v 1 then setBits w 15 8 0 else w))
  | .pmStat => some (s.setReg adr (if bit v 31 && isSmOrDbt a then setBits w 15 8 0 else w))
  | .pmBankret => some (s.setReg adr (w &&& bankretMask i))
  | .domainSet => some (writeDomainSet s i v)
  | _ => none

/-- A write of a register by an agent that may write it. -/
def writeReg (s : State) (a : Agent) (x : RegAt) (adr : Nat) (v : Word) : State :=
  let w := putFields x.d.fields (s.reg adr) v
  (((writeUib s a x adr v).orElse fun _ => writeHouse s a x adr w v).orElse fun _ =>
    (writeFabric s a x adr w v).orElse fun _ => writeRing s a x adr w v).getD (s.setReg adr w)

/-- A write of a word of the device region by an agent: one that no register table defines, or that the agent may not write, is ignored
(R10, R40). -/
def devWrite (s : State) (a : Agent) (adr : Nat) (v : Word) : State :=
  match regAt adr with
  | none => s
  | some x => if mayWrite x.d.writer a then writeReg s a x adr v else s

end Sys2Proof.Machine
end

