-- ==== Sys2Proof/Machine/Cache.lean ====
section
/-! DEFINITION. The lead caches (R207 to R213, R411): lines filled and evicted, and the memory accesses of roles through the
caches and the directory of Machine/Directory. -/

namespace Sys2Proof.Machine

/-- Own lead of a role, none for a player. -/
def ownLead (s : State) (r : Nat) : Option Nat := if isLead r then some (leadOf s r) else none

/-- Line i of the list that a lead misses in its D-cache, where the line can be reached. -/
def missing (s : State) (r a n : Nat) : List Nat :=
  if !isLead r then [] else (cxlLines a n).filter (fun l => !winLoadError s (l * 64) && (cached s (leadOf s r) false l).isNone)

/-- A lead's read of bytes that lie in one line it holds. -/
def readLine (s : State) (l : CLine) (a n : Nat) : State × Except MemErr (List Byte) :=
  let o := a % 64
  match (List.range 8).find? (fun i => l.poison.getD i false && decide (i * 8 < o + n) && decide (o < i * 8 + 8)) with
  | some i => (putLine s l, .error ⟨2, l.line * 64 + i * 8⟩)
  | none => (putLine s l, .ok ((l.data.drop o).take n))

/-- A read of bytes within one 8-byte word or one granule, by a role. -/
def readPart (s : State) (r a n : Nat) : State × Except MemErr (List Byte) :=
  if !inCxl a then readMem s r a n
  else
    let s := recallLoads s (ownLead s r) a n
    if isLead r then
      match cached s (leadOf s r) false (a / 64) with
      | some l => readLine s l a n
      | none => readMem s r a n
    else readMem s r a n

/-- A role's read of bytes from memory, split at a line boundary; the first error ends it. -/
def readBytes (s : State) (r a n : Nat) : State × Except MemErr (List Byte) :=
  if n = 0 then (s, .ok [])
  else if a / 64 = (a + n - 1) / 64 then readPart s r a n
  else
    let k := 64 - a % 64
    match readPart s r a k with
    | (s, .error e) => (s, .error e)
    | (s, .ok l) =>
      match readPart s r (a + k) (n - k) with
      | (s, .error e) => (s, .error e)
      | (s, .ok m) => (s, .ok (l ++ m))

/-- The tag of a granule as a role's TLOAD finds it (R212, R235). -/
def readTagBy (s : State) (r a : Nat) : Bool :=
  if isLead r && inCxl a then
    match cached s (leadOf s r) false (a / 64) with
    | some l => l.tags.getD (a % 64 / 16) false
    | none => readTag s a
  else readTag s a

/-- Bytes written into a held line: the granules' tags follow, a whole word written clears its poison (R212). -/
def writeLine (s : State) (l : CLine) (r a : Nat) (b : List Byte) (tag : Bool) : State :=
  let o := a % 64
  let n := b.length
  let data := (l.data.take o) ++ b ++ (l.data.drop (o + n))
  let tags := (List.range 4).map (fun g => if o < 16 * g + 16 && 16 * g < o + n then tag else l.tags.getD g false)
  let poison := (List.range 8).map (fun i => if o ≤ 8 * i && 8 * i + 8 ≤ o + n then false else l.poison.getD i false)
  putLine s { l with data := data, tags := tags, poison := poison, dirty := true, writer := r }

/-- Lines held modified in the lead D-caches (CXL_DIR.DIRTY, R411). -/
def dirtyCount (s : State) : Nat := (s.caches.filter (fun l => l.dirty)).length

/-- A write of bytes within one line by a role. A lead writes a line it holds; every other write goes to memory, past the directory. -/
def writePart (s : State) (keep : Option Nat) (r a : Nat) (b : List Byte) (tag : Bool) : State :=
  if !inCxl a then writeMem s keep a b tag
  else
    let s := recallStores s (ownLead s r) a b.length
    if isLead r then
      match cached s (leadOf s r) false (a / 64) with
      | some l =>
        let s := (List.range ((a + b.length - 1) / 8 - a / 8 + 1)).foldl (fun s i => clearResv s keep (a / 8 + i)) s
        writeLine s l r a b tag
      | none => writeMem s keep a b tag
    else writeMem s keep a b tag

/-- A write of bytes by a role, split at a line boundary. -/
def writeBytes (s : State) (keep : Option Nat) (r a : Nat) (b : List Byte) (tag : Bool) : State :=
  if b.isEmpty then s
  else if a / 64 = (a + b.length - 1) / 64 then writePart s keep r a b tag
  else
    let k := 64 - a % 64
    writePart (writePart s keep r a (b.take k) tag) keep r (a + k) (b.drop k) tag

/-! ### Fills and write-backs -/

/-- A line read from CXL for a lead's cache, with its tags and poisoned words (R212); none where its window gives an error. -/
def fetchLine (s : State) (lead : Nat) (ic : Bool) (line : Nat) : State × Option CLine :=
  if winLoadError s (line * 64) then (s, none)
  else
    let s := recallLoad s (if ic then none else some lead) line
    let got := (List.range 8).foldl (fun (p : State × List Byte × List Bool) i =>
      match readDw p.1 (512 + lead % 8 * 2) (line * 8 + i) with
      | (s, .ok v) => (s, p.2.1 ++ leBytes 8 v, p.2.2 ++ [false])
      | (s, .error _) => (s, p.2.1 ++ leBytes 8 0, p.2.2 ++ [true])) (s, [], [])
    (got.1, some ⟨lead, ic, line, false, got.2.1, (List.range 4).map (fun g => readTag s (line * 64 + 16 * g)), got.2.2, 0⟩)

/-- Ways and sets of a cache (R209). The set is the line number modulo the sets (log 15). -/
def ways (ic : Bool) : Nat := if ic then 4 else 8
def sets (ic : Bool) : Nat := if ic then 256 else 128

/-- A line enters a cache: the least recently used line of a full set is evicted (R209). -/
def insertLine (s : State) (l : CLine) : State :=
  let set := s.caches.filter (fun m => m.lead == l.lead && m.icache == l.icache && m.line % sets l.icache == l.line % sets l.icache)
  let s := if set.length < ways l.icache then s
    else match set with
      | v :: _ => dropLine s v
      | [] => s
  putLine s l

/-- DIRTY_WRITEBACK: the least recently used modified line, from DIRTYMAX − 64 on or while the power fails (R411, R213). -/
def dirtyWriteback (s : State) : State :=
  if dirtyCount s + 64 < s.field Adr.cxlDir 29 16 && !s.cxl.pfail then s
  else
    match s.caches.find? (fun l => l.dirty) with
    | some l => cleanLine s l
    | none => s

/-- DIRTY_WRITEBACK. -/
def execDirtyWriteback (s : State) : Host.Outcome State Fault Refusal := .next (dirtyWriteback s)

end Sys2Proof.Machine
end

