-- ==== Sys2Proof/Machine/Spot.lean ====
section
/-! DEFINITION. Spot units: matches, links, actions and patches (R616 to R620). -/

namespace Sys2Proof.Machine

/-- The kinds of event a spot unit sees, by their SPOT_CTL bit: X, R, W, TL. -/
def spotX : Nat := 1
def spotR : Nat := 2
def spotW : Nat := 3
def spotTL : Nat := 4

/-- First address of a unit's range. -/
def spotStart (s : State) (c n : Nat) : Nat := (s.reg (Adr.spotStartl c n)).toNat + s.field (Adr.spotStarth c n) 15 0 * 2 ^ 32
/-- Last address of a unit's range. -/
def spotEnd (s : State) (c n : Nat) : Nat := (s.reg (Adr.spotEndl c n)).toNat + s.field (Adr.spotEndh c n) 15 0 * 2 ^ 32

/-- True where a unit's CID and role masks admit a role (R617). -/
def spotAdmits (s : State) (n r : Nat) : Bool :=
  let c := companyOf r
  let cid := ((s.role r).tick 0).cid.toNat
  let w := s.reg (Adr.spotCid c n)
  let v := s.reg (Adr.spotRole c n)
  (cid ^^^ bits w 11 0) &&& bits w 27 16 == 0 && (companyIx r ^^^ bits v 6 0) &&& bits v 14 8 == 0

/-- True where a unit matches an event of a role: kind, address range, data, CID and role (R617). -/
def spotMatch (s : State) (n r kind lo len : Nat) (data : List Word) : Bool :=
  let c := companyOf r
  let ctl := s.reg (Adr.spotCtl c n)
  bit ctl 0 && !bit ctl 7 && bit ctl kind && decide (spotStart s c n < lo + len) && decide (lo ≤ spotEnd s c n) &&
    data.any (fun d => (d ^^^ s.reg (Adr.spotData c n)) &&& s.reg (Adr.spotDmask c n) == 0) && spotAdmits s n r

/-- True where a matching unit fires by its LINK (R618), given the matches of it and of unit n − 1. -/
def spotFires (s : State) (c n : Nat) (here below : Bool) : Bool :=
  match (if n = 0 then 0 else s.field (Adr.spotCtl c n) 6 5) with
  | 1 => here && below
  | 2 => here && !below && s.flag (Adr.spotCtl c n) 24
  | _ => here

/-- The actions of a firing unit (R619), with the role's latch free where CUE is set. -/
def spotAct (s : State) (n r : Nat) : State :=
  let c := companyOf r
  let ctl := s.reg (Adr.spotCtl c n)
  let s := s.incField (Adr.spotHits c n) 30 0
  let s := if !bit ctl 8 then s
    else match bits ctl 10 9 with
      | 0 => writeHold s (uibOf r) (BitVec.ofNat 32 (1 + 2 ^ (4 + roleIn r)))
      | 1 => writeHold s (uibOf r) (BitVec.ofNat 32 0xF1)
      | 2 => writeHold s (1 + c) (BitVec.ofNat 32 1)
      | _ => s
  let s := if !bit ctl 11 then s
    else
      let w := s.reg (Adr.spotRec c n)
      noticeTo s (bits w 9 0) (bits w 15 12) (1 + c) 0x60 (leBytes 1 n ++ leBytes 2 r ++ leBytes 4 (metroLo s).toNat)
  let s := if bit ctl 12 then traceRole s 4 4 r (n + c * 16) else s
  if bit ctl 13 then fireCue s r (bits ctl 23 14) false else s

/-- The units that fire on an event, lowest first (R618). -/
def spotFiring (s : State) (r kind lo len : Nat) (data : List Word) : List Nat :=
  (List.range 16).filter (fun n => spotFires s (companyOf r) n (spotMatch s n r kind lo len data)
    (n ≠ 0 && spotMatch s (n - 1) r kind lo len data))

/-- True where an event must wait: two units, or one with the role's latch full, would fire a CUE (R275, R619). -/
def spotWaits (s : State) (r kind lo len : Nat) (data : List Word) : Bool :=
  let l := (spotFiring s r kind lo len data).filter (fun n => s.flag (Adr.spotCtl (companyOf r) n) 13)
  !l.isEmpty && roleLatchFull s r

/-- True where an event holds a role. -/
def spotHolds (s : State) (r kind lo len : Nat) (data : List Word) : Bool :=
  (spotFiring s r kind lo len data).any (fun n => s.flag (Adr.spotCtl (companyOf r) n) 8)

/-- The arming of LINK 0b10 units after an event (R618): a match of the unit below arms, a fire disarms. -/
def spotArm (s : State) (r kind lo len : Nat) (data : List Word) (fired : List Nat) (s' : State) : State :=
  let c := companyOf r
  (List.range 16).foldl (fun t n =>
    if n = 0 || s.field (Adr.spotCtl c n) 6 5 ≠ 2 then t
    else if spotMatch s (n - 1) r kind lo len data then t.setFlag (Adr.spotCtl c n) 24 true
    else if fired.contains n then t.setFlag (Adr.spotCtl c n) 24 false
    else t) s'

/-- The spot units of a role's company see an event (R617 to R619). -/
def spotEvent (s : State) (r kind lo len : Nat) (data : List Word) : State :=
  let l := spotFiring s r kind lo len data
  spotArm s r kind lo len data l (l.foldl (fun s n => spotAct s n r) s)

/-- The word a fetch brings at an address, after the units in patch mode (R620). -/
def patchWord (s : State) (r a : Nat) (w : Word) : Word :=
  let c := companyOf r
  if bit ((s.role r).tick 0).perm permW then w
  else
    match (List.range 16).find? (fun n => s.flag (Adr.spotCtl c n) 0 && s.flag (Adr.spotCtl c n) 7 && spotStart s c n == a &&
        spotAdmits s n r) with
    | some n => s.reg (Adr.spotData c n)
    | none => w

end Sys2Proof.Machine
end

