-- ==== Sys2Proof/Machine/Flags.lean ====
section
/-! DEFINITION. Conditions (R89) and the flag computations of ST (R107 to R118, R125). -/

namespace Sys2Proof.Machine

/-- The condition of an instruction word on ST (R89). -/
def condHolds (st : Word) (c : Nat) : Bool :=
  let fc := bit st 0
  let z := bit st 1
  let n := bit st 2
  let v := bit st 3
  match c with
  | 0 => z
  | 1 => !z
  | 2 => !fc
  | 3 => fc
  | 4 => fc && !z
  | 5 => !fc || z
  | 6 => n != v
  | 7 => n == v
  | 8 => !z && n == v
  | 9 => z || n != v
  | 10 => n
  | 11 => !n
  | 12 => v
  | 13 => !v
  | 14 => true
  | _ => bit st 5

/-- ST with Z and N of a 32-bit result (R108). -/
def stZN (st res : Word) : Word := setBit (setBit st 1 (res == 0)) 2 (bit res 31)

/-- The one addition of the add family (R109): the result, carry out, half carry and overflow. -/
structure Sum where
  res : Word
  c : Bool
  h : Bool
  v : Bool
deriving DecidableEq, Repr

/-- x + y + cin as R109 forms it. -/
def addWith (x y : Word) (cin : Bool) : Sum :=
  let k := if cin then 1 else 0
  let r := x.toNat + y.toNat + k
  let res : Word := BitVec.ofNat 32 r
  ⟨res, decide (2 ^ 32 ≤ r), decide (16 ≤ x.toNat % 16 + y.toNat % 16 + k), bit x 31 == bit y 31 && bit res 31 != bit x 31⟩

/-- x − y − (1 − cin): the addition of the complement (R109). -/
def subWith (x y : Word) (cin : Bool) : Sum := addWith x (~~~y) cin

/-- ST after an add-family instruction that writes its flags: C, Z, N, V, H (R109). -/
def stSum (st : Word) (r : Sum) : Word := setBit (setBit (setBit (stZN st r.res) 0 r.c) 3 r.v) 4 r.h

/-- The four shifts of R110. -/
inductive Shift where
  | lsl | lsr | asr | ror
deriving DecidableEq, Repr

/-- Result and C of a shift by n (R110); no C for n = 0. -/
def shift (k : Shift) (a : Word) (n : Nat) : Word × Option Bool :=
  if n = 0 then (a, none)
  else
    match k with
    | .lsl => (if n < 32 then a <<< n else 0, some (if n ≤ 32 then bit a (32 - n) else false))
    | .lsr => (if n < 32 then a >>> n else 0, some (if n ≤ 32 then bit a (n - 1) else false))
    | .asr => (if n < 32 then a.sshiftRight n else a.sshiftRight 31, some (if n < 32 then bit a (n - 1) else bit a 31))
    | .ror =>
      let res := a.rotateRight (n % 32)
      (res, some (bit res 31))

/-- ST after a shift that writes its flags (R110). -/
def stShift (st : Word) (p : Word × Option Bool) : Word :=
  match p.2 with
  | some c => setBit (stZN st p.1) 0 c
  | none => stZN st p.1

/-- Number of leading zero bits (R108). -/
def clz (a : Word) : Nat := ((List.range 32).find? (fun i => bit a (31 - i))).getD 32

/-! ### Packed decimal -/

/-- One digit of a decimal add or subtract with the carry or borrow (R114). -/
def decDigit (sub : Bool) (x y k : Nat) : Nat × Nat :=
  if sub then
    if x < y + k then ((x + 10 + 16 - y - k) % 16, 1) else (x - y - k, 0)
  else
    let t := x + y + k
    if 10 ≤ t then ((t - 10) % 16, 1) else (t, 0)

/-- Packed-decimal add or subtract of 8 digits with a carry or borrow in (R114): the result and the carry or borrow out. -/
def decAdd (sub : Bool) (a b k : Nat) : Nat × Nat :=
  (List.range 8).foldl (fun (p : Nat × Nat) i =>
    let d := decDigit sub (digit a i) (digit b i) p.2
    (p.1 + d.1 * 16 ^ i, d.2)) (0, k)

end Sys2Proof.Machine
end

