-- ==== Sys2Proof/Machine/Operands.lean ====
section
/-! DEFINITION. Operand forms: the fields of the formats (R92, R93), the registers, tickets and offsets an instruction names, with the
substitutions of a prompt (R613), and the registers a word reads or writes (R215). -/

namespace Sys2Proof.Machine

/-- Fields gd, ga, gb of formats A, D, S and L. -/
def fGd (w : Word) : Nat := bits w 17 13
def fGa (w : Word) : Nat := bits w 12 8
def fGb (w : Word) : Nat := bits w 7 3
/-- Fields of formats I and X. -/
def iGd (w : Word) : Nat := bits w 19 15
def iGa (w : Word) : Nat := bits w 14 10
def xGb (w : Word) : Nat := bits w 9 5
/-- imm10 of format I, sign-extended and zero-extended (R111). -/
def immS (w : Word) : Word := (BitVec.ofNat 10 (bits w 9 0)).signExtend 32
def immZ (w : Word) : Word := BitVec.ofNat 32 (bits w 9 0)
/-- Fields of format M. -/
def mTk (w : Word) : Nat := bits w 23 21
def mSz (w : Word) : Nat := bits w 20 19
def mGd (w : Word) : Nat := bits w 18 14
def mGa (w : Word) : Nat := bits w 13 9
/-- Fields of format T. -/
def tTd (w : Word) : Nat := bits w 18 16
def tTa (w : Word) : Nat := bits w 15 13
def tGb (w : Word) : Nat := bits w 12 8
def tImm (w : Word) : Nat := bits w 7 0
/-- Fields of format Q. -/
def qGd (w : Word) : Nat := bits w 18 14
def qGa (w : Word) : Nat := bits w 13 9
def qTk (w : Word) : Nat := bits w 8 6
def qImm (w : Word) : Nat := bits w 5 0
/-- Fields imm8 of format S and mod of formats A and L. -/
def sImm (w : Word) : Nat := bits w 7 0
def lMod (w : Word) : Nat := bits w 2 0
/-- Byte offset of a branch: the sign-extended instruction offset times 4 (R72). -/
def branchOff (w : Word) : Word := (BitVec.ofNat 24 (bits w 23 0)).signExtend 32 <<< 2

/-- PR_CTL of a role. -/
def promptCtl (s : State) (r : Nat) : Word :=
  if isLead r then s.reg (Adr.lprCtl (companyOf r) (roleIn r)) else s.reg (Adr.prCtl (troupeOf r) (troupeIx r))
/-- PR_ADDR of a role. -/
def promptAddr (s : State) (r : Nat) : Word :=
  if isLead r then s.reg (Adr.lprAddr (companyOf r) (roleIn r)) else s.reg (Adr.prAddr (troupeOf r) (troupeIx r))

/-- G[ga] as an instruction reads it: PR_ADDR in a prompt with ADDR set (R613). -/
def gaVal (s : State) (r n : Nat) : Word :=
  let x := s.role r
  if x.prompt && bit (promptCtl s r) 3 then promptAddr s r else x.greg n

/-- A ticket register as an instruction reads it: DBT in a prompt with USEDBT set (R613). -/
def tickVal (s : State) (r n : Nat) : Ticket :=
  let x := s.role r
  if x.prompt && bit (promptCtl s r) 2 then x.dbt else x.tick n

/-- True for DBT and the tickets derived from it (R238): an access through one is made with DBT. -/
def Ticket.isDbt (t : Ticket) : Bool := t.tag && t.cid == 0xFFF

/-- The iteration number j of a repeat, 0 outside one (R171, R173). -/
def repJ (x : Role) : Nat := if x.rep.isSome then x.rc.toNat - 1 else 0

/-- Bytes of an M-format access. -/
def mSize (w : Word) : Nat := 2 ^ mSz w
/-- Offset of an M-format access in its ticket (R93, R131, R173). -/
def mOff (s : State) (r : Nat) (w : Word) : Nat :=
  let step := (BitVec.ofNat 9 (bits w 8 0)).signExtend 32 + BitVec.ofNat 32 (repJ (s.role r))
  (gaVal s r (mGa w) + step <<< mSz w).toNat
/-- First register of an M-format access (R173). -/
def mReg (s : State) (r : Nat) (w : Word) : Nat :=
  let j := repJ (s.role r)
  (mGd w + (if mSz w = 3 then 2 * j else j)) % 32
/-- Port offset of class 0x7, and offset of an exclusive of a size (R140). -/
def qOff (s : State) (r : Nat) (w : Word) (size : Nat) : Nat := (gaVal s r (qGa w) + BitVec.ofNat 32 (qImm w * size)).toNat
/-- Offset of TLOAD and TSTORE (R151), modulo 2^32 (log 18). -/
def tOff (s : State) (r : Nat) (w : Word) : Nat :=
  ((s.role r).greg (tGb w) + (BitVec.ofNat 8 (tImm w)).signExtend 32 <<< 4).toNat

/-- A register pair, low word first; a quad likewise (R214). -/
def pairVal (lo hi : Word) : Nat := lo.toNat + hi.toNat * 2 ^ 32

/-- The four registers from n on. -/
def quad (n : Nat) : List Nat := [n, n + 1, n + 2, n + 3]

/-- G registers that a word reads or writes, as R215 asks. -/
def regsOf (op : Op) (w : Word) : List Nat :=
  match Ulufy.cls w with
  | 0 | 2 => [fGd w, fGa w, fGb w]
  | 1 => [iGd w, iGa w]
  | 3 => [iGa w, xGb w]
  | 4 | 5 => if mSz w = 3 then [mGd w, mGd w + 1, mGa w] else [mGd w, mGa w]
  | 6 =>
    match op with
    | .tnarrow => [tGb w, tGb w + 1]
    | .tload | .tstore | .tget => [tGb w]
    | _ => []
  | 7 =>
    match op with
    | .qpopt | .ldxp | .stxp => [qGd w, qGd w + 1, qGa w]
    | _ => [qGd w, qGa w]
  | 9 => [31]
  | 10 => if op = .rett then [31] else [fGd w, fGa w]
  | 11 => [bits w 21 17]
  | 12 =>
    match op with
    | .dmul16 | .ddiv16 | .mul64 | .mul64u | .div64 | .div64u =>
      quad (fGd w) ++ [fGa w, fGa w + 1, fGb w, fGb w + 1]
    | .hpint => fGd w :: quad (fGa w)
    | .hprice => [fGd w, fGd w + 1, fGa w, fGa w + 1, fGb w]
    | _ => [fGd w, fGa w, fGb w]
  | _ => []

/-- Destination registers of a long operation (R214). -/
def longDests (w : Word) : List Nat :=
  match bits w 23 18 with
  | 0x08 | 0x0C => [fGd w]
  | 0x0D => [fGd w, fGd w + 1]
  | _ => quad (fGd w)

/-- True where an instruction reads or writes a destination of a long operation in flight (R215). -/
def longHazard (x : Role) (op : Op) (w : Word) : Bool :=
  x.longOps.any (fun o => (longDests o.word).any (fun n => n % 32 ≠ 0 && (regsOf op w).any (fun m => m % 32 == n % 32)))

end Sys2Proof.Machine
end

