-- ==== Sys2Proof/Machine/Issue.lean ====
section
/-! DEFINITION. Fetch and issue: the two words a role holds (R137), the order of checks (R95), retirement (R80, R90, R331), repeats
(R171 to R177) and the entries of the journal, the wings buffer and the effects list (R328 to R330, R351). -/

namespace Sys2Proof.Machine

/-! ### Fetch -/

/-- A lead's fetch of four bytes from CXL memory, through its I-cache (R209): none where a line must be filled first. -/
def fetchCached (s : State) (r a : Nat) : Option (State × Except MemErr (List Byte)) :=
  let ls := cxlLines a 4
  if ls.any (fun l => winLoadError s (l * 64)) then some (s, .error ⟨3, a / 8 * 8⟩)
  else
    match ls.map (cached s (leadOf s r) true) with
    | [some l] => some (readLine s l a 4)
    | [some l, some m] =>
      let k := 64 - a % 64
      match readLine s l a k with
      | (s, .error e) => some (s, .error e)
      | (s, .ok b) =>
        match readLine s m (a + k) (4 - k) with
        | (s, .error e) => some (s, .error e)
        | (s, .ok c) => some (s, .ok (b ++ c))
    | _ => none

/-- A fetch of the word at a PC (steps 1 to 3 of R95): none while it must wait for a flip (R340) or a line. -/
def fetchAt (s : State) (r : Nat) (pc : Word) : Option (State × Fetched) :=
  let x := s.role r
  let a := instrAddr x pc
  if bits pc 1 0 ≠ 0 then some (s, .fault 4 0 (BitVec.ofNat 48 a))
  else
    match (x.tick 0).check pc.toNat 4 [permX] true (x.tick 0).isDbt with
    | some d => some (s, .fault 3 d (BitVec.ofNat 48 a))
    | none =>
      if marked s a || marked s (a + 3) then none
      else
        match (if isLead r && inCxl a then fetchCached s r a else some (readBytes s r a 4)) with
        | none => none
        | some (s, .error e) => some (s, .fault 8 e.detail (BitVec.ofNat 48 e.addr))
        | some (s, .ok b) => some (s, .word (patchWord s r a (BitVec.ofNat 32 (leNat b))))

/-- The role holds the words at some PCs: those it does not hold yet are fetched (R137). -/
def holdWords (s : State) (r : Nat) (pcs : List Word) : State :=
  pcs.foldl (fun s pc =>
    if (s.role r).fetchQ.any (fun h => h.pc == pc) then s
    else
      match fetchAt s r pc with
      | none => s
      | some (s, g) => s.modRole r (fun x => { x with fetchQ := x.fetchQ ++ [⟨pc, g⟩] }))
    (s.modRole r (fun x => { x with fetchQ := x.fetchQ.filter (fun h => pcs.contains h.pc) }))

/-- The word that a role's next issue takes: one it holds, or a fetch. -/
def nextWord (s : State) (r : Nat) : Option (State × Fetched) :=
  let x := s.role r
  match x.fetchQ.find? (fun h => h.pc == x.pc) with
  | some h => some (s, h.got)
  | none => fetchAt s r x.pc

/-! ### The journal -/

/-- True while a role's scene reads its journal (R351). -/
def replaying (s : State) (r : Nat) : Bool := (s.role r).sc && recFlag s r 10

/-- True where the journal's next entry is an entry marker due now (R351); a WAIT in progress retires as the entry is taken (R166). -/
def markerDue (s : State) (r : Nat) : Bool :=
  replaying s r &&
    (let j := (s.scene r).jpos
     let n := (s.scene r).retired + (if (s.role r).busy = .waiting then 1 else 0)
     decide (j < journalCount s r) && journalKind s r j == 2 && bits (journalValue s r j) 23 0 == n)

/-- The next journal entry taken (R351): its value, and REPLAY clear when the journal is used up. -/
def takeEntry (s : State) (r : Nat) : State × Word :=
  let c := s.scene r
  let v := journalValue s r c.jpos
  let s := s.setScene r { c with jpos := c.jpos + 1 }
  (if c.jpos + 1 = journalCount s r then setRecFlag s r 10 false else s, v)

/-- True where the next n entries are there and have the kinds given. -/
def entriesMatch (s : State) (r : Nat) : List Nat → Nat → Bool
  | [], _ => true
  | k :: ks, j => decide (j < journalCount s r) && journalKind s r j == k && entriesMatch s r ks (j + 1)

/-- True where the journal has room for n entries. -/
def journalRoom (s : State) (r n : Nat) : Bool := journalCount s r + n ≤ 256

/-- Values added to the journal of a role whose scene is open. -/
def journalAll (s : State) (r : Nat) (l : List (Nat × Word)) : State :=
  if (s.role r).sc then l.foldl (fun s e => journalAdd s r e.1 e.2) s else s

/-! ### Readiness and retirement -/

/-- True where a role can take an instruction row: started, powered, not held, frozen or prompted, nothing in progress but an
instruction that loses slots, no repeat, and no journaled entry due first. -/
def ready (s : State) (r : Nat) : Bool :=
  let x := s.role r
  let idle := match x.busy with
    | .idle | .blocked _ => true
    | _ => false
  x.started && !x.onHold && !x.frozen && coreOn s (coreOf r) && !coreDark s (coreOf r) && !x.prompt && x.rep.isNone && idle &&
    !markerDue s r

/-- Products land and age as a role issues (R78, R120), and recognition opens after an EOI (R255). -/
def ageProducts (x : Role) : Role :=
  let x := match x.prodOld with
    | some p => { x with mpl := p.setWidth 32, mph := (p >>> 32).setWidth 32 }
    | none => x
  { x with prodOld := x.prodNew, prodNew := none, eoiClosed := false }

/-- The first issue of a role since the release of reset is timed in BOOT_STAT.FIRSTMS (R536). -/
def noteFirst (s : State) : State :=
  match s.boot.since with
  | none => s
  | some t => { s.setField Adr.bootStat 31 16 (min 0xFFFE ((s.metro - t).toNat / 1000)) with boot := { s.boot with since := none } }

/-- An issue begins: products age, and the two words ahead are held (R137). -/
def startIssue (s : State) (r : Nat) : State :=
  let s := noteFirst (s.modRole r ageProducts)
  let pc := (s.role r).pc
  holdWords s r [pc + 4, pc + 8]

/-- One more instruction retired in an open scene (R331). -/
def countRetired (s : State) (r : Nat) : State :=
  if (s.role r).sc && !isLead r then s.setScene r { s.scene r with retired := (s.scene r).retired + 1 } else s

/-- An instruction that a scene would have buffered or journaled retires outside one: CLEAN falls (R334). -/
def unclean (s : State) (r : Nat) : State := if (s.role r).sc || isLead r then s else setRecFlag s r 9 false

/-- The end of a repeat (R171, R175): the role goes on at the REP + 8, and an atomic repeat's stores are released together. -/
def endRepeat (s : State) (r : Nat) : State :=
  let s := countRetired s r
  s.modRole r (fun x =>
    let x := clearConsec x x.pc
    { x with rep := none, busy := .idle, pc := x.pc + 8, posted := match x.rep with
      | some p => x.posted ++ p.heldStores
      | none => x.posted })

/-- Retirement: of a prompt, which does not advance PC (R614), of a repeat's iteration, or of an instruction. A jump gives its target. -/
def finish (s : State) (r : Nat) (target : Option Word) : State :=
  let x := s.role r
  if x.prompt then
    let s := match target with
      | some p => s.modRole r (fun x => { x with pc := p, fetchQ := [] })
      | none => s
    endPrompt s r 1 0 0
  else if x.rep.isSome then
    let s := countRetired s r
    let s := s.modRole r (fun x => { x with rc := x.rc - 1, busy := .idle })
    if (s.role r).rc = 0 then endRepeat s r else s
  else
    let s := countRetired s r
    let s := s.modRole r (fun x => { (clearConsec x x.pc) with busy := .idle, pc := target.getD (x.pc + 4) })
    match target with
    | some p => holdWords s r [p, p + 4]
    | none => s

/-- An instruction that loses slots before it takes effect: its command tries it again. -/
def block (s : State) (r : Nat) (w : Word) : State := s.modRole r (fun x => { x with busy := .blocked w })

/-- An instruction in progress. -/
def busyWith (s : State) (r : Nat) (b : Busy) : State := s.modRole r (fun x => { x with busy := b })

/-- Address that vectors 2, 5, 6, 10 and 13 report (R262): T0.BASE + PC. -/
def pcAddr (s : State) (r : Nat) : Option Nat := some (instrAddr (s.role r) (s.role r).pc)

/-- A fault of the instruction that is executing. -/
def faultAt (s : State) (r vec detail : Nat) (w : Word) : State := syncFault s r vec detail w (pcAddr s r)

/-- The scene fault of an instruction that R178 forbids. -/
def sceneFault (s : State) (r detail : Nat) (w : Word) : State := faultAt s r 10 detail w

/-- An abandoned scene's fault, at the executing instruction (R335). -/
def abandonAt (s : State) (r detail cause : Nat) (w : Word) : State :=
  abandonFault s r detail cause w (instrAddr (s.role r) (s.role r).pc)

/-- Replay divergence at the executing instruction (R351). -/
def diverge (s : State) (r : Nat) (w : Word) : State := abandonAt s r 0x0C 0x0A w

/-- The instruction takes journal entries of the given kinds: from the journal in a replay, else from what `live` makes. A prompt in a
replay is refused (R615). -/
def withJournal (s : State) (r : Nat) (w : Word) (kinds : List Nat) (replayed : State → List Word → State)
    (live : State → State) : State :=
  if !replaying s r then
    if (s.role r).sc && !journalRoom s r kinds.length then abandonAt s r 0x0A 3 w else live s
  else if (s.role r).prompt then endPrompt s r 4 0 0
  else if !entriesMatch s r kinds (s.scene r).jpos then diverge s r w
  else
    let p := kinds.foldl (fun (p : State × List Word) _ =>
      let q := takeEntry p.1 r
      (q.1, p.2 ++ [q.2])) (s, [])
    replayed p.1 p.2

/-- The body of an instruction: what it does from step 6 of R95 on. -/
abbrev Body := State → Nat → Word → State

/-- True where a role may issue a word now: no destination of a long operation is touched (R215), no cue action of a spot unit must
wait for the role's latch, and no hold asked by one is still to be entered (R619). -/
def mayIssue (s : State) (r : Nat) (op : Op) (w : Word) : Bool :=
  let a := instrAddr (s.role r) (s.role r).pc
  !longHazard (s.role r) op w && !spotWaits s r spotX a 4 [w] && !(spotHolds s r spotX a 4 [w] && (s.role r).holdReq)

/-- Steps 5 and 6 of a word that the role issues. A spot unit's hold comes before the issue (R619). -/
def run (s : State) (r : Nat) (w : Word) (body : Body) : State :=
  let a := instrAddr (s.role r) (s.role r).pc
  let held := spotHolds s r spotX a 4 [w]
  let s := spotEvent s r spotX a 4 [w]
  if held && (s.role r).holdReq then s
  else
    let s := startIssue s r
    if condHolds (s.role r).st (bits w 31 28) then body s r w else finish s r none

/-- RA falls as a word that is not a REP issues (R169). -/
def dropRa (s : State) (r : Nat) (w : Word) : State :=
  if Ulufy.cls w = 11 then s else s.modRole r (fun x => { x with st := setBit x.st 8 false })

/-- An instruction row: the role issues the word it holds (R95, R137). A row whose word is not that word, or spells another
instruction, and a role that cannot issue, leave the state unchanged (log 3). -/
def issue (s0 : State) (r : Nat) (op : Op) (w : Word) (body : Body) : State :=
  if !ready s0 r then s0
  else
    match (s0.role r).busy with
    | .blocked v => if v ≠ w then s0
      else
        match Ulufy.decode (isLead r) false w with
        | .ok o => if o = op then body s0 r w else s0
        | .error _ => s0
    | _ =>
      match nextWord s0 r with
      | none => s0
      | some (s, .fault vec d a) => syncFault s r vec.toNat d.toNat 0 (some a.toNat)
      | some (s, .word v) =>
        if v ≠ w then s0
        else
          match Ulufy.decode (isLead r) false w with
          | .error d => let s := dropRa s r w; faultAt s r 2 d.toNat w
          | .ok o => if o = op && mayIssue s0 r op w then run (dropRa s r w) r w body else s0

end Sys2Proof.Machine
end

