-- ==== Sys2Proof/Machine/Alu.lean ====
section
/-! DEFINITION. The compute instructions of classes 0x0 and 0x1 (R104 to R111). -/

namespace Sys2Proof.Machine

/-- A G register and ST written, and the instruction retired: what every compute instruction ends in. -/
def writeResult (s : State) (r n : Nat) (v st : Word) : State :=
  finish (s.modRole r (fun x => { (x.setG n v) with st := st })) r none

/-- A class 0x0 instruction that writes gd, and ST where F is 1 (R107). -/
def aluResult (s : State) (r : Nat) (w v st : Word) : State :=
  writeResult s r (fGd w) v (if bit w 0 then st else (s.role r).st)

/-- A compare: only ST is written. -/
def flagsOnly (s : State) (r : Nat) (st : Word) : State := writeResult s r 0 0 st

/-- The operands a and b of class 0x0 (R108). -/
def opA (s : State) (r : Nat) (w : Word) : Word := gaVal s r (fGa w)
def opB (s : State) (r : Nat) (w : Word) : Word := (s.role r).greg (fGb w)

/-- An add or subtract of class 0x0: result and flags of the one addition (R109). -/
def aluSum (s : State) (r : Nat) (w : Word) (x : Sum) : State := aluResult s r w x.res (stSum (s.role r).st x)

/-- A logical operation of class 0x0: Z and N follow the result. -/
def aluLogic (s : State) (r : Nat) (w v : Word) : State := aluResult s r w v (stZN (s.role r).st v)

/-- A shift of class 0x0 by b[7:0] (R110). -/
def aluShift (s : State) (r : Nat) (w : Word) (k : Shift) : State :=
  let p := shift k (opA s r w) (bits (opB s r w) 7 0)
  aluResult s r w p.1 (stShift (s.role r).st p)

/-- ADD (R108). -/
def doAdd : Body := fun s r w => aluSum s r w (addWith (opA s r w) (opB s r w) false)
/-- ADD. -/
def execAdd (r : RoleId) (w : Word) (s : State) : Host.Outcome State Fault Refusal := .next (issue s r.val .add w doAdd)

/-- ADDC (R108). -/
def doAddc : Body := fun s r w => aluSum s r w (addWith (opA s r w) (opB s r w) (s.role r).fC)
/-- ADDC. -/
def execAddc (r : RoleId) (w : Word) (s : State) : Host.Outcome State Fault Refusal := .next (issue s r.val .addc w doAddc)

/-- SUB (R108). -/
def doSub : Body := fun s r w => aluSum s r w (subWith (opA s r w) (opB s r w) true)
/-- SUB. -/
def execSub (r : RoleId) (w : Word) (s : State) : Host.Outcome State Fault Refusal := .next (issue s r.val .sub w doSub)

/-- SUBC (R108). -/
def doSubc : Body := fun s r w => aluSum s r w (subWith (opA s r w) (opB s r w) (s.role r).fC)
/-- SUBC. -/
def execSubc (r : RoleId) (w : Word) (s : State) : Host.Outcome State Fault Refusal := .next (issue s r.val .subc w doSubc)

/-- AND (R108). -/
def doAnd : Body := fun s r w => aluLogic s r w (opA s r w &&& opB s r w)
/-- AND. -/
def execAnd (r : RoleId) (w : Word) (s : State) : Host.Outcome State Fault Refusal := .next (issue s r.val .and w doAnd)

/-- OR (R108). -/
def doOr : Body := fun s r w => aluLogic s r w (opA s r w ||| opB s r w)
/-- OR. -/
def execOr (r : RoleId) (w : Word) (s : State) : Host.Outcome State Fault Refusal := .next (issue s r.val .or w doOr)

/-- XOR (R108). -/
def doXor : Body := fun s r w => aluLogic s r w (opA s r w ^^^ opB s r w)
/-- XOR. -/
def execXor (r : RoleId) (w : Word) (s : State) : Host.Outcome State Fault Refusal := .next (issue s r.val .xor w doXor)

/-- ANDN (R108). -/
def doAndn : Body := fun s r w => aluLogic s r w (opA s r w &&& ~~~(opB s r w))
/-- ANDN. -/
def execAndn (r : RoleId) (w : Word) (s : State) : Host.Outcome State Fault Refusal := .next (issue s r.val .andn w doAndn)

/-- MOV (R108). -/
def doMov : Body := fun s r w => aluLogic s r w (opA s r w)
/-- MOV. -/
def execMov (r : RoleId) (w : Word) (s : State) : Host.Outcome State Fault Refusal := .next (issue s r.val .mov w doMov)

/-- NOT (R108). -/
def doNot : Body := fun s r w => aluLogic s r w (~~~(opA s r w))
/-- NOT. -/
def execNot (r : RoleId) (w : Word) (s : State) : Host.Outcome State Fault Refusal := .next (issue s r.val .not w doNot)

/-- LSL (R108). -/
def doLsl : Body := fun s r w => aluShift s r w .lsl
/-- LSL. -/
def execLsl (r : RoleId) (w : Word) (s : State) : Host.Outcome State Fault Refusal := .next (issue s r.val .lsl w doLsl)

/-- LSR (R108). -/
def doLsr : Body := fun s r w => aluShift s r w .lsr
/-- LSR. -/
def execLsr (r : RoleId) (w : Word) (s : State) : Host.Outcome State Fault Refusal := .next (issue s r.val .lsr w doLsr)

/-- ASR (R108). -/
def doAsr : Body := fun s r w => aluShift s r w .asr
/-- ASR. -/
def execAsr (r : RoleId) (w : Word) (s : State) : Host.Outcome State Fault Refusal := .next (issue s r.val .asr w doAsr)

/-- ROR (R108). -/
def doRor : Body := fun s r w => aluShift s r w .ror
/-- ROR. -/
def execRor (r : RoleId) (w : Word) (s : State) : Host.Outcome State Fault Refusal := .next (issue s r.val .ror w doRor)

/-- CMP (R108). -/
def doCmp : Body := fun s r w => flagsOnly s r (stSum (s.role r).st (subWith (opA s r w) (opB s r w) true))
/-- CMP. -/
def execCmp (r : RoleId) (w : Word) (s : State) : Host.Outcome State Fault Refusal := .next (issue s r.val .cmp w doCmp)

/-- CMPA (R108). -/
def doCmpa : Body := fun s r w => flagsOnly s r (stSum (s.role r).st (addWith (opA s r w) (opB s r w) false))
/-- CMPA. -/
def execCmpa (r : RoleId) (w : Word) (s : State) : Host.Outcome State Fault Refusal := .next (issue s r.val .cmpa w doCmpa)

/-- TST (R108). -/
def doTst : Body := fun s r w => flagsOnly s r (stZN (s.role r).st (opA s r w &&& opB s r w))
/-- TST. -/
def execTst (r : RoleId) (w : Word) (s : State) : Host.Outcome State Fault Refusal := .next (issue s r.val .tst w doTst)

/-- TSTX (R108). -/
def doTstx : Body := fun s r w => flagsOnly s r (stZN (s.role r).st (opA s r w ^^^ opB s r w))
/-- TSTX. -/
def execTstx (r : RoleId) (w : Word) (s : State) : Host.Outcome State Fault Refusal := .next (issue s r.val .tstx w doTstx)

/-- MINS (R108). -/
def doMins : Body := fun s r w => aluLogic s r w (if (opA s r w).slt (opB s r w) then opA s r w else opB s r w)
/-- MINS. -/
def execMins (r : RoleId) (w : Word) (s : State) : Host.Outcome State Fault Refusal := .next (issue s r.val .mins w doMins)

/-- MAXS (R108). -/
def doMaxs : Body := fun s r w => aluLogic s r w (if (opA s r w).slt (opB s r w) then opB s r w else opA s r w)
/-- MAXS. -/
def execMaxs (r : RoleId) (w : Word) (s : State) : Host.Outcome State Fault Refusal := .next (issue s r.val .maxs w doMaxs)

/-- MINU (R108). -/
def doMinu : Body := fun s r w => aluLogic s r w (if (opA s r w).ult (opB s r w) then opA s r w else opB s r w)
/-- MINU. -/
def execMinu (r : RoleId) (w : Word) (s : State) : Host.Outcome State Fault Refusal := .next (issue s r.val .minu w doMinu)

/-- MAXU (R108). -/
def doMaxu : Body := fun s r w => aluLogic s r w (if (opA s r w).ult (opB s r w) then opB s r w else opA s r w)
/-- MAXU. -/
def execMaxu (r : RoleId) (w : Word) (s : State) : Host.Outcome State Fault Refusal := .next (issue s r.val .maxu w doMaxu)

/-- CLZ (R108). -/
def doClz : Body := fun s r w => aluLogic s r w (BitVec.ofNat 32 (clz (opA s r w)))
/-- CLZ. -/
def execClz (r : RoleId) (w : Word) (s : State) : Host.Outcome State Fault Refusal := .next (issue s r.val .clz w doClz)

/-- SXB (R108). -/
def doSxb : Body := fun s r w => aluLogic s r w (((opA s r w).setWidth 8).signExtend 32)
/-- SXB. -/
def execSxb (r : RoleId) (w : Word) (s : State) : Host.Outcome State Fault Refusal := .next (issue s r.val .sxb w doSxb)

/-- SXH (R108). -/
def doSxh : Body := fun s r w => aluLogic s r w (((opA s r w).setWidth 16).signExtend 32)
/-- SXH. -/
def execSxh (r : RoleId) (w : Word) (s : State) : Host.Outcome State Fault Refusal := .next (issue s r.val .sxh w doSxh)

/-- ZXH (R108). -/
def doZxh : Body := fun s r w => aluLogic s r w (((opA s r w).setWidth 16).setWidth 32)
/-- ZXH. -/
def execZxh (r : RoleId) (w : Word) (s : State) : Host.Outcome State Fault Refusal := .next (issue s r.val .zxh w doZxh)

/-! ### Immediates -/

/-- The operand a of class 0x1. -/
def opI (s : State) (r : Nat) (w : Word) : Word := gaVal s r (iGa w)

/-- A class 0x1 instruction that writes gd and no flag. -/
def immResult (s : State) (r : Nat) (w v : Word) : State := writeResult s r (iGd w) v (s.role r).st

/-- ADDI (R111). -/
def doAddi : Body := fun s r w => immResult s r w (opI s r w + immS w)
/-- ADDI. -/
def execAddi (r : RoleId) (w : Word) (s : State) : Host.Outcome State Fault Refusal := .next (issue s r.val .addi w doAddi)

/-- ADDIF (R111). -/
def doAddif : Body := fun s r w => let x := addWith (opI s r w) (immS w) false; writeResult s r (iGd w) x.res (stSum (s.role r).st x)
/-- ADDIF. -/
def execAddif (r : RoleId) (w : Word) (s : State) : Host.Outcome State Fault Refusal := .next (issue s r.val .addif w doAddif)

/-- CMPI (R111). -/
def doCmpi : Body := fun s r w => flagsOnly s r (stSum (s.role r).st (subWith (opI s r w) (immS w) true))
/-- CMPI. -/
def execCmpi (r : RoleId) (w : Word) (s : State) : Host.Outcome State Fault Refusal := .next (issue s r.val .cmpi w doCmpi)

/-- ANDI (R111). -/
def doAndi : Body := fun s r w => immResult s r w (opI s r w &&& immS w)
/-- ANDI. -/
def execAndi (r : RoleId) (w : Word) (s : State) : Host.Outcome State Fault Refusal := .next (issue s r.val .andi w doAndi)

/-- ORI (R111). -/
def doOri : Body := fun s r w => immResult s r w (opI s r w ||| immZ w)
/-- ORI. -/
def execOri (r : RoleId) (w : Word) (s : State) : Host.Outcome State Fault Refusal := .next (issue s r.val .ori w doOri)

/-- XORI (R111). -/
def doXori : Body := fun s r w => immResult s r w (opI s r w ^^^ immZ w)
/-- XORI. -/
def execXori (r : RoleId) (w : Word) (s : State) : Host.Outcome State Fault Refusal := .next (issue s r.val .xori w doXori)

/-- TSTI (R111). -/
def doTsti : Body := fun s r w => flagsOnly s r (stZN (s.role r).st (opI s r w &&& immZ w))
/-- TSTI. -/
def execTsti (r : RoleId) (w : Word) (s : State) : Host.Outcome State Fault Refusal := .next (issue s r.val .tsti w doTsti)

/-- LSLI (R111). -/
def doLsli : Body := fun s r w => immResult s r w (shift .lsl (opI s r w) (bits w 4 0)).1
/-- LSLI. -/
def execLsli (r : RoleId) (w : Word) (s : State) : Host.Outcome State Fault Refusal := .next (issue s r.val .lsli w doLsli)

/-- LSRI (R111). -/
def doLsri : Body := fun s r w => immResult s r w (shift .lsr (opI s r w) (bits w 4 0)).1
/-- LSRI. -/
def execLsri (r : RoleId) (w : Word) (s : State) : Host.Outcome State Fault Refusal := .next (issue s r.val .lsri w doLsri)

/-- ASRI (R111). -/
def doAsri : Body := fun s r w => immResult s r w (shift .asr (opI s r w) (bits w 4 0)).1
/-- ASRI. -/
def execAsri (r : RoleId) (w : Word) (s : State) : Host.Outcome State Fault Refusal := .next (issue s r.val .asri w doAsri)

/-- RORI (R111). -/
def doRori : Body := fun s r w => immResult s r w (shift .ror (opI s r w) (bits w 4 0)).1
/-- RORI. -/
def execRori (r : RoleId) (w : Word) (s : State) : Host.Outcome State Fault Refusal := .next (issue s r.val .rori w doRori)

/-- SHIN (R111). -/
def doShin : Body := fun s r w => immResult s r w ((opI s r w) <<< 10 ||| immZ w)
/-- SHIN. -/
def execShin (r : RoleId) (w : Word) (s : State) : Host.Outcome State Fault Refusal := .next (issue s r.val .shin w doShin)

end Sys2Proof.Machine
end

