-- ==== Sys2Proof/Machine/Pins.lean ====
section
/-! DEFINITION. Claims of pads and peripherals (R588, R592, R634): the claim table, PAD_OWN and SER_ROUTE, and routes that lose EN with what
they name (R505, R508). -/

namespace Sys2Proof.Machine

/-- CID that holds an item of a peripheral kind: 1 serial channel, 2 pulse unit, 3 ADC or 16 + comparator, 4 timer. -/
def claimOf (s : State) (kind item : Nat) : Option Nat :=
  (s.sm.claims.find? (fun c => c.1 == kind && c.2.1 == item)).map (fun c => c.2.2)

/-- CID that holds a pad. -/
def padCid (s : State) (p : Nat) : Option Nat :=
  if s.flag (Adr.padOwn p) 12 then some (s.field (Adr.padOwn p) 11 0) else none

/-- True for an item number that a kind has. -/
def itemOk (s : State) (kind item : Nat) : Bool :=
  match kind with
  | 0 => item < 192
  | 1 => if item % 256 < 16 then item < 16 else item % 256 < 18 && item / 256 < 16 && serMode s (item / 256) ≠ 3
  | 2 => item < 8
  | 3 => item < 4 || (16 ≤ item && item < 32)
  | 4 => item < 64
  | _ => false

/-- Pads that a claim of an item takes, with their function and unit (R587, R588, R592). -/
def itemPads (kind item : Nat) : List (Nat × Nat × Nat) :=
  match kind with
  | 0 => [(item, 0, 0)]
  | 1 =>
    let ch := item % 256
    let g := if ch < 16 then ch else item / 256
    (List.range 4).map (fun i => (96 + 4 * g + i, 1, ch))
  | 2 => [(160 + 2 * item, 2, item), (161 + 2 * item, 2, item)]
  | _ => []

/-- Another CID's hold on an item or on a pad its claim takes. -/
def claimConflict (s : State) (cid kind item : Nat) : Option Nat :=
  let others := (if kind = 0 then [] else (claimOf s kind (item % 256)).toList) ++
    (itemPads kind item).filterMap (fun p => padCid s p.1)
  others.find? (· ≠ cid)

/-- PAD_OWN of a pad. -/
def setPadOwn (s : State) (p cid func unit : Nat) : State :=
  s.setReg (Adr.padOwn p) (BitVec.ofNat 32 (cid + 2 ^ 12 + func * 2 ^ 13 + unit * 2 ^ 15))

/-- A frame in progress on a channel whose pins go elsewhere is cut off and counted (R592). -/
def cutFrame (s : State) (ch : Nat) : State :=
  let c := serOf s ch
  if c.line.isSome then setSer (s.incField (Adr.serCnt ch) 31 16) ch { c with line := none } else s

/-- A claim of one item, no other CID in the way: the claim table first, then PAD_OWN (R635). A pad that the CID holds already keeps its
function. -/
def claimItem (cid kind : Nat) (s : State) (item : Nat) : State :=
  let k := item % 256
  let s := if kind = 0 || (claimOf s kind k).isSome then s
    else { s with sm := { s.sm with claims := s.sm.claims ++ [(kind, k, cid)] } }
  let s := (itemPads kind item).foldl (fun s p =>
    if kind = 0 && (padCid s p.1).isSome then s else setPadOwn s p.1 cid p.2.1 p.2.2) s
  if kind = 1 && 16 ≤ k then
    let g := item / 256
    let s := if s.flag (Adr.serRoute k) 4 && s.field (Adr.serRoute k) 3 0 = g then s else cutFrame s g
    s.setReg (Adr.serRoute k) (BitVec.ofNat 32 (g + 16))
  else s

/-- All of the items, or none where another CID holds one (R588). -/
def claimItems (s : State) (cid kind : Nat) (items : List Nat) : State × Option Nat :=
  match items.findSome? (claimConflict s cid kind) with
  | some owner => (s, some owner)
  | none => (items.foldl (claimItem cid kind) s, none)

/-- True where a CID holds an item. -/
def holdsItem (s : State) (cid kind item : Nat) : Bool :=
  if kind = 0 then padCid s item == some cid else claimOf s kind (item % 256) == some cid

/-! ### Routes -/

/-- Consumer ids of an item: its pads' outputs, its tasks, its trigger or its timer (R279). -/
def itemConsumers (s : State) (kind item : Nat) : List Nat :=
  let k := item % 256
  match kind with
  | 0 => [0x200 + item]
  | 1 => (List.range 4).map (fun i => 0x500 + 4 * k + i) ++
    ((List.range 192).filter (fun p => padFunc s p == 1 && padUnit s p == k)).map (fun p => 0x200 + p)
  | 2 => (List.range 4).map (fun i => 0x560 + 4 * k + i) ++ [0x200 + 160 + 2 * k, 0x200 + 161 + 2 * k]
  | 3 => if k < 4 then [0x300 + k] else []
  | _ => [0x400 + k]

/-- EN clears in every route whose target meets a test, and in every call-sheet route whose role meets one (R505, R508). -/
def clearRoutes (s : State) (target role : Nat → Bool) : State :=
  (List.range 1024).foldl (fun s ch =>
    let s := (List.range 4).foldl (fun s k =>
      let a := Adr.chRt ch k
      if s.flag a 16 && target (s.field a 12 0) then s.setFlag a 16 false else s) s
    let a := Adr.chCs ch
    if s.flag a 16 && role (s.field a 9 0) then s.setFlag a 16 false else s) s

/-! ### Releases -/

/-- One item is released with every pad its claim took (R588); a spare gives its pads back to the channel whose group it took (R592). -/
def releaseItem (kind : Nat) (s : State) (item : Nat) : State :=
  let k := item % 256
  if kind = 0 then s.setReg (Adr.padOwn item) 0
  else
    let s := { s with sm := { s.sm with claims := s.sm.claims.filter (fun c => !(c.1 == kind && c.2.1 == k)) } }
    let own := fun f p => padFunc s p == f && padUnit s p == k
    match kind with
    | 1 =>
      let g := s.field (Adr.serRoute k) 3 0
      let s := ((List.range 192).filter (own 1)).foldl (fun s p =>
        match claimOf s 1 g with
        | some cid => if 16 ≤ k then setPadOwn s p cid 1 g else s.setReg (Adr.padOwn p) 0
        | none => s.setReg (Adr.padOwn p) 0) s
      if 16 ≤ k then s.setReg (Adr.serRoute k) 0 else s
    | 2 => ((List.range 192).filter (own 2)).foldl (fun s p => s.setReg (Adr.padOwn p) 0) s
    | _ => s

/-- The items of a release leave their routes and their owner. -/
def releaseItems (s : State) (kind : Nat) (items : List Nat) : State :=
  let ids := items.flatMap (itemConsumers s kind)
  items.foldl (releaseItem kind) (clearRoutes s (fun t => ids.contains t) (fun _ => false))

/-- Every claim of a CID ends (R505). -/
def releaseCid (s : State) (cid : Nat) : State :=
  let s := (s.sm.claims.filter (fun c => c.2.2 == cid)).foldl (fun s c => releaseItem c.1 s c.2.1) s
  ((List.range 192).filter (fun p => padCid s p == some cid)).foldl (releaseItem 0) s

/-- CID whose claim owns a register (rule 6 of R241, R588, R634); none for one that no claim owns. -/
def registerOwner (s : State) (a : Nat) : Option Nat :=
  let o := a - Adr.padCtl 0
  if a < Adr.padCtl 0 then
    none
  else if a < Adr.padCtl 192 then padCid s (o / 4)
  else if Adr.padCin 0 ≤ a && a < Adr.padCin 192 then padCid s ((o - 0x800) / 4)
  else if Adr.serCfg 0 ≤ a && a < Adr.serCfg 18 then claimOf s 1 ((o - 0x1000) / 0x100)
  else if Adr.puCtl 0 ≤ a && a < Adr.puCtl 8 then claimOf s 2 ((o - 0x3000) / 0x40)
  else if Adr.adcCtl 0 ≤ a && a < Adr.adcCtl 4 then claimOf s 3 ((o - 0x3400) / 0x40)
  else if Adr.cmpWin 0 ≤ a && a < Adr.cmpWin 16 then claimOf s 3 (16 + (o - 0x3600) / 0x10)
  else if Adr.tmrCtl 0 ≤ a && a < Adr.tmrCtl 64 then claimOf s 4 ((a - Adr.tmrCtl 0) / 0x20)
  else none

end Sys2Proof.Machine
end

