-- ==== Sys2Proof/Machine/Decimal.lean ====
section
/-! DEFINITION. Packed decimal, multiply and divide (R112 to R130). -/

namespace Sys2Proof.Machine

/-- The invalid-digit check of the instructions that check digits (R115): the detail of vector 5, for a and then b. -/
def digitFault (a b : Nat) : Option Nat :=
  match badDigit a 8, badDigit b 8 with
  | some i, _ => some (0x10 + i)
  | none, some i => some (0x18 + i)
  | none, none => none

/-- ST after a decimal result: D where given, Z, and E where a digit was invalid. -/
def stDec (st : Word) (d : Option Bool) (res : Word) (bad : Bool) : Word :=
  let st := match d with
    | some b => setBit st 5 b
    | none => st
  let st := setBit st 1 (res == 0)
  if bad then setBit st 6 true else st

/-- A decimal add or subtract (R114, R115). -/
def decSum (s : State) (r : Nat) (w : Word) (sub : Bool) (k : Bool) : State :=
  let a := (opA s r w).toNat
  let b := (opB s r w).toNat
  let bad := digitFault a b
  match bad, (s.role r).dt with
  | some d, true => faultAt s r 5 d w
  | _, _ =>
    let p := decAdd sub a b (if k then 1 else 0)
    let res : Word := BitVec.ofNat 32 p.1
    writeResult s r (fGd w) res (stDec (s.role r).st (some (p.2 == 1)) res bad.isSome)

/-- The byte adjust of DADJ (R116). -/
def dadjByte (x : Nat) (h c : Bool) : Nat × Bool :=
  let adj := if 9 < x % 16 || h then 6 else 0
  if 0x99 < x || c then ((x + adj + 0x60) % 256, true) else ((x + adj) % 256, false)

/-- A digit funnel shift (R117). -/
def funnel (s : State) (r : Nat) (w v : Word) : State :=
  writeResult s r (fGd w) v (setBit (s.role r).st 1 (v == 0))

/-- Result and flags of BIN2D (R118). -/
def bin2d (a : Word) : Word × Bool := (BitVec.ofNat 32 (toDigits 8 (a.toNat % 10 ^ 8)), decide (10 ^ 8 ≤ a.toNat))

/-- A product put in flight (R78, R120). -/
def product (s : State) (r : Nat) (v : DWord) : State :=
  finish (s.modRole r (fun x => { x with prodNew := some v })) r none

/-- Quotient, remainder and overflow of a division by a divisor other than zero (R125). -/
def divide (signed : Bool) (a b : Word) : Word × Word × Bool :=
  if signed then
    if a = 0x80000000 && b = 0xFFFFFFFF then (0x80000000, 0, true) else (a.sdiv b, a.srem b, false)
  else (a / b, a % b, false)

/-- A division starts unless it divides by zero (R125, R126). -/
def startDiv (s : State) (r : Nat) (w : Word) : State :=
  if (s.role r).greg (xGb w) = 0 then faultAt s r 6 0 w else busyWith s r (.multi w)

/-- DADD (R114). -/
def doDadd : Body := fun s r w => decSum s r w false false
/-- DADD. -/
def execDadd (r : RoleId) (w : Word) (s : State) : Host.Outcome State Fault Refusal := .next (issue s r.val .dadd w doDadd)

/-- DADD.C (R114). -/
def doDaddC : Body := fun s r w => decSum s r w false (s.role r).fD
/-- DADD.C. -/
def execDaddC (r : RoleId) (w : Word) (s : State) : Host.Outcome State Fault Refusal := .next (issue s r.val .daddC w doDaddC)

/-- DSUB (R114). -/
def doDsub : Body := fun s r w => decSum s r w true false
/-- DSUB. -/
def execDsub (r : RoleId) (w : Word) (s : State) : Host.Outcome State Fault Refusal := .next (issue s r.val .dsub w doDsub)

/-- DSUB.C (R114). -/
def doDsubC : Body := fun s r w => decSum s r w true (s.role r).fD
/-- DSUB.C. -/
def execDsubC (r : RoleId) (w : Word) (s : State) : Host.Outcome State Fault Refusal := .next (issue s r.val .dsubC w doDsubC)

/-- DADJ (R116). -/
def doDadj : Body := fun s r w => 
  let a := opA s r w
  let p := dadjByte (bits a 7 0) (s.role r).fH (s.role r).fC
  writeResult s r (fGd w) (setBits a 7 0 p.1) (setBit (setBit (s.role r).st 5 p.2) 1 (p.1 == 0))
/-- DADJ. -/
def execDadj (r : RoleId) (w : Word) (s : State) : Host.Outcome State Fault Refusal := .next (issue s r.val .dadj w doDadj)

/-- DSHL (R117). -/
def doDshl : Body := fun s r w => let n := 4 * bits w 2 0; funnel s r w (if n = 0 then opA s r w else opA s r w <<< n ||| opB s r w >>> (32 - n))
/-- DSHL. -/
def execDshl (r : RoleId) (w : Word) (s : State) : Host.Outcome State Fault Refusal := .next (issue s r.val .dshl w doDshl)

/-- DSHR (R117). -/
def doDshr : Body := fun s r w => let n := 4 * bits w 2 0; funnel s r w (if n = 0 then opA s r w else opA s r w >>> n ||| opB s r w <<< (32 - n))
/-- DSHR. -/
def execDshr (r : RoleId) (w : Word) (s : State) : Host.Outcome State Fault Refusal := .next (issue s r.val .dshr w doDshr)

/-- BIN2D: it runs for 20 beats; MULTI_BEAT_RETIRE ends it (R118). -/
def doBin2d : Body := fun s r w => busyWith s r (.multi w)
/-- BIN2D. -/
def execBin2d (r : RoleId) (w : Word) (s : State) : Host.Outcome State Fault Refusal := .next (issue s r.val .bin2d w doBin2d)

/-- D2BIN: it runs for 12 beats (R115, R118). -/
def doD2bin : Body := fun s r w => 
  match badDigit (opA s r w).toNat 8, (s.role r).dt with
  | some i, true => faultAt s r 5 (0x10 + i) w
  | _, _ => busyWith s r (.multi w)
/-- D2BIN: it runs for 12 beats. -/
def execD2bin (r : RoleId) (w : Word) (s : State) : Host.Outcome State Fault Refusal := .next (issue s r.val .d2bin w doD2bin)

/-- MUL (R119, R120). -/
def doMul : Body := fun s r w => product s r ((gaVal s r (iGa w)).signExtend 64 * ((s.role r).greg (xGb w)).signExtend 64)
/-- MUL. -/
def execMul (r : RoleId) (w : Word) (s : State) : Host.Outcome State Fault Refusal := .next (issue s r.val .mul w doMul)

/-- MULU (R119, R120). -/
def doMulu : Body := fun s r w => product s r ((gaVal s r (iGa w)).setWidth 64 * ((s.role r).greg (xGb w)).setWidth 64)
/-- MULU. -/
def execMulu (r : RoleId) (w : Word) (s : State) : Host.Outcome State Fault Refusal := .next (issue s r.val .mulu w doMulu)

/-- DIV (R125). -/
def doDiv : Body := fun s r w => startDiv s r w
/-- DIV. -/
def execDiv (r : RoleId) (w : Word) (s : State) : Host.Outcome State Fault Refusal := .next (issue s r.val .div w doDiv)

/-- DIVU (R125). -/
def doDivu : Body := fun s r w => startDiv s r w
/-- DIVU. -/
def execDivu (r : RoleId) (w : Word) (s : State) : Host.Outcome State Fault Refusal := .next (issue s r.val .divu w doDivu)

/-- The results of DIV, DIVU, BIN2D or D2BIN are written as it retires (R78, R118, R125). -/
def retireMulti (s : State) (r : Nat) (w : Word) : State :=
  let x := s.role r
  if Ulufy.cls w = 3 then
    let p := divide (bits w 23 20 == 4) (gaVal s r (iGa w)) (x.greg (xGb w))
    finish (s.setRole r { x with dq := p.1, drm := p.2.1, st := setBit (setBit x.st 1 (p.1 == 0)) 3 p.2.2 }) r none
  else if bits w 23 18 = 0x18 then
    let p := bin2d (opA s r w)
    writeResult s r (fGd w) p.1 (stDec x.st (some p.2) p.1 false)
  else
    let a := (opA s r w).toNat
    let v : Word := BitVec.ofNat 32 (ofDigits 8 a)
    writeResult s r (fGd w) v (stDec x.st none v (badDigit a 8).isSome)

/-- MULTI_BEAT_RETIRE: the multi-beat instruction of a role, a prompt's included, has run its beats (R105). -/
def execMultiBeatRetire (r : RoleId) (s : State) : Host.Outcome State Fault Refusal :=
  match (s.role r.val).busy with
  | .multi w => .next (retireMulti s r.val w)
  | _ => .next s

/-- PRODUCT_LANDING: the product of the multiply before the last issued instruction reaches MPL and MPH (R78). -/
def execProductLanding (r : RoleId) (s : State) : Host.Outcome State Fault Refusal :=
  .next (s.modRole r.val (fun x => match x.prodOld with
    | some p => { x with mpl := p.setWidth 32, mph := (p >>> 32).setWidth 32, prodOld := none }
    | none => x))

end Sys2Proof.Machine
end

