-- ==== Sys2Proof/Machine/LoadStore.lean ====
section
/-! DEFINITION. Loads, stores, exclusives and the loads and stores of tickets (R131 to R136, R148 to R150, R156, R187, R194, R235),
and the fills of the lead caches (R207 to R212). -/

namespace Sys2Proof.Machine

/-! ### Checks -/

/-- A failed check: vector, detail and fault address. -/
structure Failed where
  vec : Nat
  detail : Nat
  addr : Nat
deriving DecidableEq, Repr

/-- A test at the first and the last byte of an access. -/
def atEnds (p : Nat → Bool) (a n : Nat) : Bool := p a || p (a + n - 1)

/-- Fault address of an access that meets a port: the port's (R262). -/
def portAt (a n : Nat) : Nat := (if isPort a then a else a + n - 1) / 4 * 4

/-- Checks 1 to 3 of R132 for an access of n bytes through a ticket. -/
def accessFault (t : Ticket) (off n perm : Nat) : Option Failed :=
  let a := t.addr off
  match t.check off n [perm] false t.isDbt with
  | some d => some ⟨3, d.toNat, a⟩
  | none =>
    if atEnds isPort a n then some ⟨7, 3, portAt a n⟩
    else if !atEnds isDevice a n then none
    else if !bit t.perm permDEV then some ⟨3, 4, a⟩
    else if n ≠ 4 || a % 4 ≠ 0 then some ⟨4, 0, a⟩
    else none

/-- Checks of an exclusive of n bytes (R141, R148): natural alignment, and no device register, queue port or cue-fire word. -/
def exclusiveFault (t : Ticket) (off n perm : Nat) : Option Failed :=
  let a := t.addr off
  match t.check off n [perm] false t.isDbt with
  | some d => some ⟨3, d.toNat, a⟩
  | none => if isPort a || isDevice a || a % n ≠ 0 then some ⟨4, 0, a⟩ else none

/-- Checks of TLOAD and TSTORE (R156, R235). -/
def ticketFault (s : State) (t : Ticket) (off : Nat) (store : Bool) : Option Failed :=
  let a := t.addr off
  match t.check off 16 (if store then [permW, permST] else [permR, permLT]) false false with
  | some d => some ⟨3, d.toNat, a⟩
  | none =>
    if atEnds isPort a 16 then some ⟨7, 3, portAt a 16⟩
    else if atEnds isDevice a 16 then some ⟨4, 0, a⟩
    else if store && inCxl a && !shdOn s (winOf a) then some ⟨3, 9, a⟩
    else if a % 16 ≠ 0 then some ⟨4, 0, a⟩
    else none

/-- The fault of a failed check. -/
def failAt (s : State) (r : Nat) (w : Word) (f : Failed) : State := syncFault s r f.vec f.detail w (some f.addr)

/-! ### A role's own stores -/

/-- Newest byte of the role's wings entries at an address (R136). -/
def wingByte (s : State) (r a : Nat) : Option Byte :=
  (s.scene r).wings.reverse.findSome? (fun e =>
    if e.dw = a / 8 && e.mask.getLsbD (a % 8) then some (BitVec.ofNat 8 (e.data.toNat / 256 ^ (a % 8))) else none)

/-- Newest byte of the role's posted stores at an address (log 10). -/
def postedByte (x : Role) (a : Nat) : Option Byte :=
  x.posted.reverse.findSome? (fun p => p.parts.findSome? (fun q =>
    if q.1 ≤ a && a < q.1 + q.2.length then q.2[a - q.1]? else none))

/-- True where every byte of an access lies in the role's wings entries (R330). -/
def allInWings (s : State) (r a n : Nat) : Bool := (List.range n).all (fun i => (wingByte s r (a + i)).isSome)

/-- True where an access lies wholly in an enabled quiet range of SCN_QR (R330, R359). -/
def quiet (s : State) (r a n : Nat) : Bool :=
  !isLead r && (List.range 2).any (fun k =>
    let q := s.reg (Adr.scnQr (troupeOf r) (troupeIx r) k)
    let lo := bits q 13 0 * 0x1000
    bit q 31 && lo ≤ a && a + n ≤ lo + bits q 27 14 * 0x1000)

/-- Doublewords that an access touches, with the bytes it writes in each. -/
def halves (a : Nat) (b : List Byte) : List (Nat × List Byte) :=
  if a / 8 = (a + b.length - 1) / 8 then [(a, b)] else [(a, b.take (8 - a % 8)), (a + (8 - a % 8), b.drop (8 - a % 8))]

/-- The wings entry of bytes within one doubleword (R328). -/
def wingOf (tag : Option Bool) (p : Nat × List Byte) : Wing :=
  ⟨p.1 / 8, BitVec.ofNat 64 (leNat p.2 * 256 ^ (p.1 % 8)), BitVec.ofNat 8 ((2 ^ p.2.length - 1) * 2 ^ (p.1 % 8)), tag⟩

/-! ### Loads -/

/-- Bytes a role's load of memory or a device register finds: its own wings entries over its posted stores over memory (R136, R258). -/
def loadData (s : State) (r a n : Nat) : State × Except MemErr (List Byte) :=
  let merged := fun (l : List Byte) => l.mapIdx (fun i b => (wingByte s r (a + i)).getD ((postedByte (s.role r) (a + i)).getD b))
  if allInWings s r a n then (s, .ok (merged (List.replicate n 0)))
  else if isDevice a then
    if loadError s a then (s, .error ⟨3, a⟩) else let p := devRead s a; (p.1, .ok (leBytes 4 p.2.toNat))
  else
    match readBytes s r a n with
    | (s, .ok l) => (s, .ok (merged l))
    | e => e

/-- Lines of CXL memory that a load must ask for (R189, R207): those a player touches, those a lead misses. -/
def linesToAsk (s : State) (r a n : Nat) : List Nat :=
  if isLead r then missing s r a n else (cxlLines a n).filter (fun l => !winLoadError s (l * 64))

/-- A request for each line a load must ask for; none while a number is lacking (R410). -/
def askLines (s : State) (r a n : Nat) : Option State :=
  (linesToAsk s r a n).foldl (fun o l => o.bind (fun s => loadReq s (.load r) (l * 64))) (some s)

/-- A load starts: it waits for its response (R194). A load of a marked line is counted as waiting (R340). -/
def beginLoad (s : State) (r : Nat) (w : Word) (a n : Nat) : State :=
  if allInWings s r a n then busyWith s r (.load w)
  else
    match askLines s r a n with
    | none => block s r w
    | some s =>
      let s := if marked s a || marked s (a + n - 1) then s.incField (Adr.curErr (areaOf a)) 31 16 else s
      let s := match clockDom a with
        | some d => if clockOn s a then s else s.setFlag (Adr.xcStat d) 2 true
        | none => s
      busyWith s r (.load w)

/-- Journal entries of a load (R330): none wholly within its own wings entries or a quiet range. -/
def loadKinds (s : State) (r a n : Nat) : List Nat :=
  if !(s.role r).sc || allInWings s r a n || quiet s r a n then [] else if n = 8 then [0, 0] else [0]

/-- The words a load of n bytes delivers: one, or two for a pair (R131). -/
def loadWords (l : List Byte) : List Word :=
  if l.length = 8 then [BitVec.ofNat 32 (leNat (l.take 4)), BitVec.ofNat 32 (leNat (l.drop 4))] else [BitVec.ofNat 32 (leNat l)]

/-- Consecutive registers written. -/
def setRegs (x : Role) (n : Nat) : List Word → Role
  | [] => x
  | v :: l => setRegs (x.setG n v) (n + 1) l

/-- A load retires: its registers are written. -/
def retireLoad (s : State) (r : Nat) (w : Word) (vs : List Word) : State :=
  finish (s.modRole r (fun x => setRegs x (mReg s r w) vs)) r none

/-- LOAD up to its access (R131, R132, R330, R351). -/
def doLoad : Body := fun s r w =>
  let t := tickVal s r (mTk w)
  let off := mOff s r w
  match accessFault t off (mSize w) permR with
  | some f => failAt s r w f
  | none =>
    let a := t.addr off
    match loadKinds s r a (mSize w) with
    | [] => beginLoad s r w a (mSize w)
    | ks => withJournal s r w ks (fun s vs => retireLoad s r w vs) (fun s => beginLoad s r w a (mSize w))

/-- LOAD. -/
def execLoad (r : RoleId) (w : Word) (s : State) : Host.Outcome State Fault Refusal := .next (issue s r.val .load w doLoad)

/-! ### Stores -/

/-- True for an EOI of a role (R254): all four bytes at 0x3FC of its core's home slice by a word store, or a pair store at 0x3F8. -/
def isEoi (r a n : Nat) : Bool := (n = 4 && a == homeBase r + 0x3FC) || (n = 8 && a == homeBase r + 0x3F8)

/-- An EOI pops the priority stack and closes recognition for a beat (R254, R255). -/
def popLevel (s : State) (r : Nat) : State :=
  s.modRole r (fun x => { x with stack := x.stack.tail, eoiClosed := true })

/-- True where an EOI or RFE stands at the base depth of the open scene (R333). -/
def atBase (s : State) (r : Nat) : Bool := (s.role r).sc && !isLead r && (s.role r).rpd ≤ baseDepth s r

/-- True for a player role's own SCN_CTL, a store to which acts at issue (R329, R359). -/
def ownScnCtl (r a : Nat) : Bool := !isLead r && a == Adr.scnCtl (troupeOf r) (troupeIx r)

/-- True for CS_CONS, a store to which acts at issue inside a scene (R294, R329). -/
def isCsCons (a : Nat) : Bool :=
  match regAt a with
  | some x => x.d.reg == .csCons
  | none => false

/-- The agent of a write through a ticket (R605). -/
def agentOf (r : Nat) (t : Ticket) : Agent := .role (Fin.ofNat 528 r) t.isDbt

/-- An entry of the effects list (R328), in the record. -/
def addEffect (s : State) (r addr kind size : Nat) (data : Word) : State :=
  let c := s.scene r
  let b := leBytes 6 addr ++ leBytes 1 kind ++ leBytes 1 size ++ leBytes 4 data.toNat ++ leBytes 4 0
  (writeMem s none (recordBase r + 0x200 + 16 * c.effects) b false).setScene r { c with effects := c.effects + 1 }

/-- An effect joins the list of an open scene, or overflows it (R328, R335). -/
def effect (s : State) (r : Nat) (w : Word) (addr kind size : Nat) (data : Word) : State :=
  if 32 ≤ (s.scene r).effects then abandonAt s r 9 3 w else finish (addEffect s r addr kind size data) r none

/-- True while the effects of the role's last scene are being released (R346). -/
def releasing (s : State) (r : Nat) : Bool := !isLead r && (s.scene r).releasing

/-- A store to memory joins the wings buffer, an atomic repeat's held stores, or the posted stores (R134, R136, R175, R187). -/
def putStore (s : State) (r a : Nat) (b : List Byte) (tag : Option Bool) (dbt : Bool) : State :=
  let x := s.role r
  let p : Posted := ⟨if tag.isSome then [(a, b)] else halves a b, tag, x.pc, dbt⟩
  if x.sc && !isLead r then
    let ws := if tag.isSome then [(a, b.take 8), (a + 8, b.drop 8)] else halves a b
    s.setScene r { s.scene r with wings := (s.scene r).wings ++ ws.map (wingOf tag) }
  else
    match x.rep with
    | some e => if e.atomic then s.setRole r { x with rep := some { e with heldStores := e.heldStores ++ [p] } }
      else s.setRole r { x with posted := x.posted ++ [p] }
    | none => s.setRole r { x with posted := x.posted ++ [p] }

/-- Wings entries that a store takes (R328). -/
def wingsNeeded (a : Nat) (b : List Byte) : Nat := if b.length = 16 then 2 else (halves a b).length

/-- True where a store finds no place and must wait: eight stores posted (R187). An atomic repeat holds its own. -/
def postedFull (x : Role) : Bool :=
  8 ≤ x.posted.length && !(match x.rep with
    | some e => e.atomic
    | none => false)

/-- A store to memory whose checks 1 to 3 passed: the base-depth rule, room, the spot units, and the store itself. -/
def storeMem (s : State) (r : Nat) (w : Word) (a : Nat) (b : List Byte) (tag : Option Bool) (dbt : Bool) (data : List Word) : State :=
  let eoi := tag.isNone && isEoi r a b.length
  let sc := (s.role r).sc && !isLead r
  if eoi && (s.role r).rpd ≠ 0 && atBase s r then sceneFault s r 6 w
  else if sc && 128 < (s.scene r).wings.length + wingsNeeded a b then abandonAt s r 8 3 w
  else if (!sc && postedFull (s.role r)) || spotWaits s r spotW a b.length data then block s r w
  else
    let s := putStore s r a b tag dbt
    let s := spotEvent s r spotW a b.length data
    let s := finish (unclean s r) r none
    if eoi then popLevel s r else s

/-- A store to a device register whose checks passed (R329, R346). -/
def storeDev (s : State) (r : Nat) (w : Word) (a : Nat) (v : Word) (t : Ticket) : State :=
  let dbt := t.isDbt
  let sc := (s.role r).sc && !isLead r
  if releasing s r then block s r w
  else if ownScnCtl r a && sc && bit v 0 then abandonAt s r 0x0D 5 w
  else if ownScnCtl r a || (sc && isCsCons a) then finish (unclean (devWrite s (agentOf r t) a v) r) r none
  else if !sc then storeMem s r w a (leBytes 4 v.toNat) none dbt [v]
  else if spotWaits s r spotW a 4 [v] then block s r w
  else effect (spotEvent s r spotW a 4 [v]) r w a 5 4 v

/-- STORE (R131, R132). -/
def doStore : Body := fun s r w =>
  let t := tickVal s r (mTk w)
  let off := mOff s r w
  let n := mSize w
  match accessFault t off n permW with
  | some f => failAt s r w f
  | none =>
    let a := t.addr off
    let g := mReg s r w
    let x := s.role r
    if isDevice a then storeDev s r w a (x.greg g) t
    else if n = 8 then
      storeMem s r w a (leBytes 4 (x.greg g).toNat ++ leBytes 4 (x.greg (g + 1)).toNat) none t.isDbt [x.greg g, x.greg (g + 1)]
    else
      let v := (x.greg g).toNat % 256 ^ n
      storeMem s r w a (leBytes n v) none t.isDbt [BitVec.ofNat 32 v]

/-- STORE. -/
def execStore (r : RoleId) (w : Word) (s : State) : Host.Outcome State Fault Refusal := .next (issue s r.val .store w doStore)

/-! ### Acceptance of posted stores -/

/-- True where an earlier store must be accepted before store k: one to a doubleword of it, or a device store before a device store
(log 12). -/
def storeBehind (l : List Posted) (k : Nat) : Bool :=
  match l[k]? with
  | none => true
  | some p =>
    (l.take k).any (fun q => q.parts.any (fun u => p.parts.any (fun v =>
      (isDevice u.1 && isDevice v.1) ||
        (u.1 / 8 ≤ (v.1 + v.2.length - 1) / 8 && v.1 / 8 ≤ (u.1 + u.2.length - 1) / 8))))

/-- True where a half of a store draws an error response. -/
def partError (s : State) (p : Nat × List Byte) : Bool := storeError s p.1 || storeError s (p.1 + p.2.length - 1)

/-- True where a half of a store can be accepted now: no marked line, and for a lead's CXL store its lines held, with room for one more
modified line (R209, R411). -/
def partReady (s : State) (r : Nat) (p : Nat × List Byte) : Bool :=
  let n := p.2.length
  if isDevice p.1 then
    clockOn s p.1 || (match clockDom p.1 with
      | some d => (Sparse.get (fun _ => none) s.heldW d).isNone
      | none => true)
  else
    !marked s p.1 && !marked s (p.1 + n - 1) &&
      (!isLead r || (cxlLines p.1 n).all (fun l =>
        match cached s (leadOf s r) false l with
        | some c => c.dirty || decide (dirtyCount s < s.field Adr.cxlDir 29 16)
        | none => false))

/-- A half of a store accepted by its destination; none while the CXL controller lacks a request number. -/
def acceptPart (r : Nat) (p : Posted) (q : Nat × List Byte) (s : State) : Option State :=
  if isDevice q.1 then
    let v : Word := BitVec.ofNat 32 (leNat q.2)
    let by_ : Agent := .role (Fin.ofNat 528 r) p.dbt
    if clockOn s q.1 then some (devWrite s by_ q.1 v)
    else
      match clockDom q.1 with
      | none => some s
      | some d =>
        some ({ s with heldW := Sparse.put (fun _ => none) s.heldW d (some ⟨by_, q.1, v, r, p.pc⟩) }.setFlag (Adr.xcStat d) 1 true)
  else
    let s := writeBytes s (some r) r q.1 q.2 (p.tag.getD false)
    if isLead r then some s
    else (cxlLines q.1 q.2.length).foldl (fun o l => o.bind (fun s => writeReq s (.store r p.pc) (l * 64))) (some s)

/-- Store k of a role leaves the posted stores: its good halves are accepted, each bad half draws an error response (R134). -/
def takeStore (s : State) (r k : Nat) (p : Posted) : Option State :=
  let s := s.modRole r (fun x => { x with posted := x.posted.eraseIdx k })
  p.parts.foldl (fun o q => o.bind (fun s =>
    if partError s q then some (lateError s r 1 q.1 (some p.pc) none) else acceptPart r p q s)) (some s)

/-- STORE_ACCEPTED: store k of the role's posted stores is accepted (R187); an error response is a command of its own. -/
def execStoreAccepted (r : RoleId) (k : Fin 8) (s : State) : Host.Outcome State Fault Refusal :=
  let l := (s.role r.val).posted
  .next (match l[k.val]? with
    | none => s
    | some p =>
      if storeBehind l k.val || p.parts.any (partError s) || !p.parts.all (partReady s r.val) then s
      else (takeStore s r.val k.val p).getD s)

/-- STORE_ERROR_RESPONSE: store k draws an error response for a half or for all of it; a half that received none is written (R134). -/
def execStoreErrorResponse (r : RoleId) (k : Fin 8) (s : State) : Host.Outcome State Fault Refusal :=
  let l := (s.role r.val).posted
  .next (match l[k.val]? with
    | none => s
    | some p =>
      if storeBehind l k.val || !p.parts.any (partError s) || !p.parts.all (fun q => partError s q || partReady s r.val q) then s
      else (takeStore s r.val k.val p).getD s)

/-! ### Exclusives -/

/-- Size of an exclusive. -/
def exSize (op : Op) : Nat := if op = .ldxp || op = .stxp then 8 else 4

/-- LDX and LDXP up to their access (R148, R178). -/
def startExclusiveLoad (s : State) (r : Nat) (w : Word) (n : Nat) : State :=
  let t := tickVal s r (qTk w)
  let off := qOff s r w n
  if (s.role r).sc then sceneFault s r 3 w
  else if releasing s r then block s r w
  else
    match exclusiveFault t off n permR with
    | some f => failAt s r w f
    | none => beginLoad s r w (t.addr off) n

/-- STX and STXP up to their response (R148, R178). -/
def startExclusiveStore (s : State) (r : Nat) (w : Word) (n : Nat) : State :=
  let t := tickVal s r (qTk w)
  let off := qOff s r w n
  if (s.role r).sc then sceneFault s r 3 w
  else if releasing s r then block s r w
  else
    match exclusiveFault t off n permW with
    | some f => failAt s r w f
    | none => if spotWaits s r spotW (t.addr off) n [] then block s r w else busyWith s r (.load w)

/-- LDX. -/
def doLdx : Body := fun s r w => startExclusiveLoad s r w 4
/-- LDX. -/
def execLdx (r : RoleId) (w : Word) (s : State) : Host.Outcome State Fault Refusal := .next (issue s r.val .ldx w doLdx)
/-- LDXP. -/
def doLdxp : Body := fun s r w => startExclusiveLoad s r w 8
/-- LDXP. -/
def execLdxp (r : RoleId) (w : Word) (s : State) : Host.Outcome State Fault Refusal := .next (issue s r.val .ldxp w doLdxp)
/-- STX. -/
def doStx : Body := fun s r w => startExclusiveStore s r w 4
/-- STX. -/
def execStx (r : RoleId) (w : Word) (s : State) : Host.Outcome State Fault Refusal := .next (issue s r.val .stx w doStx)
/-- STXP. -/
def doStxp : Body := fun s r w => startExclusiveStore s r w 8
/-- STXP. -/
def execStxp (r : RoleId) (w : Word) (s : State) : Host.Outcome State Fault Refusal := .next (issue s r.val .stxp w doStxp)

/-- The response of STX or STXP: the store happens where the reservation stands, Z tells (R148). An error response to the store is a
late store error (R134). -/
def retireStx (s : State) (r : Nat) (w : Word) (a n : Nat) : State :=
  let x := s.role r
  let won := x.resv == some (a / 8)
  let vs := if n = 8 then [x.greg (qGd w), x.greg (qGd w + 1)] else [x.greg (qGd w)]
  let b := vs.flatMap (fun v => leBytes 4 v.toNat)
  let s' := if !won then some s
    else if partError s (a, b) then some (lateError s r 1 a (some x.pc) none)
    else if partReady s r (a, b) then acceptPart r ⟨[(a, b)], none, x.pc, (tickVal s r (qTk w)).isDbt⟩ (a, b) s
    else none
  match s' with
  | none => s
  | some s =>
    let s := spotEvent s r spotW a n vs
    let s := s.modRole r (fun x => { x with resv := none, st := setBit x.st 1 won })
    finish (unclean s r) r none

/-! ### Tickets in memory -/

/-- Td written; a write of T0 changes the code ticket, so the retiring instruction's CONSEC is cleared under the old one (R80, R158). -/
def setTicket (s : State) (r n : Nat) (t : Ticket) : State := s.modRole r (fun x => (clearConsec x x.pc).setT n t)

/-- TLOAD up to its access (R156, R178, R235). -/
def doTload : Body := fun s r w =>
  let t := tickVal s r (tTa w)
  let off := tOff s r w
  if (s.role r).sc then sceneFault s r 3 w
  else
    match ticketFault s t off false with
    | some f => failAt s r w f
    | none => beginLoad s r w (t.addr off) 16
/-- TLOAD. -/
def execTload (r : RoleId) (w : Word) (s : State) : Host.Outcome State Fault Refusal := .next (issue s r.val .tload w doTload)

/-- TSTORE (R156, R235): a store of 16 bytes that carries td's tag. -/
def doTstore : Body := fun s r w =>
  let t := tickVal s r (tTa w)
  let off := tOff s r w
  match ticketFault s t off true with
  | some f => failAt s r w f
  | none =>
    let v := (s.role r).tick (tTd w)
    storeMem s r w (t.addr off) v.bytes (some v.tag) t.isDbt ((List.range 4).map (fun i => BitVec.ofNat 32 (v.toNat / 2 ^ (32 * i))))
/-- TSTORE. -/
def execTstore (r : RoleId) (w : Word) (s : State) : Host.Outcome State Fault Refusal := .next (issue s r.val .tstore w doTstore)

/-- The response of a TLOAD: the ticket with the granule's tag (R156). -/
def retireTload (s : State) (r : Nat) (w : Word) (a : Nat) : State :=
  match readBytes s r a 16 with
  | (s, .error e) => syncFault s r 8 e.detail.toNat w (some e.addr)
  | (s', .ok l) =>
    if spotWaits s' r spotTL a 16 [] then s
    else
      let s := s'
      let tag := readTagBy s r a
      let s := spotEvent s r spotTL a 16 (loadWords (l.take 8) ++ loadWords (l.drop 8))
      finish (unclean (setTicket s r (tTd w) (Ticket.ofNat (leNat l) tag)) r) r none

/-! ### Responses -/

/-- Address, bytes and kind of the access that a load in progress makes. -/
def accessOf (s : State) (r : Nat) (w : Word) : Nat × Nat × Op :=
  match Ulufy.cls w with
  | 4 => ((tickVal s r (mTk w)).addr (mOff s r w), mSize w, .load)
  | 6 => ((tickVal s r (tTa w)).addr (tOff s r w), 16, .tload)
  | _ =>
    let op : Op := match bits w 23 19 with
      | 0x10 => .ldx
      | 0x11 => .ldxp
      | 0x12 => .stx
      | _ => .stxp
    ((tickVal s r (qTk w)).addr (qOff s r w (exSize op)), exSize op, op)

/-- True where a role's posted store overlaps a doubleword of an access. -/
def postedOverlap (x : Role) (a n : Nat) : Bool :=
  x.posted.any (fun p => p.parts.any (fun q => q.1 / 8 ≤ (a + n - 1) / 8 && a / 8 ≤ (q.1 + q.2.length - 1) / 8))

/-- True where the response of a load can arrive: its requests have ended, no flip is awaited, its lines are held by a lead, the clock of
its register runs, and, but for a plain load of memory, the role's earlier stores to its place are accepted (log 10). -/
def responseReady (s : State) (r : Nat) (w : Word) : Bool :=
  let p := accessOf s r w
  let x := s.role r
  !loadOutstanding s r && !marked s p.1 && !marked s (p.1 + p.2.1 - 1) && (missing s r p.1 p.2.1).isEmpty && clockOn s p.1 &&
    (if isDevice p.1 then !x.posted.any (fun q => q.parts.any (fun u => isDevice u.1))
      else p.2.2 == .load || !postedOverlap x p.1 p.2.1)

/-- The response of a plain or exclusive load (R131, R148, R330). -/
def retireData (s : State) (r : Nat) (w : Word) (a n : Nat) (op : Op) : State :=
  match loadData s r a n with
  | (s, .error e) => syncFault s r 8 e.detail.toNat w (some e.addr)
  | (s', .ok l) =>
    let vs := loadWords l
    if spotWaits s' r spotR a n vs then s
    else
      let s := if allInWings s' r a n && (s'.role r).sc then s' else spotEvent s' r spotR a n vs
      if op = .load then
        let ks := loadKinds s r a n
        let s := journalAll s r (ks.zip vs)
        retireLoad (if quiet s r a n then s else unclean s r) r w vs
      else
        let s := s.modRole r (fun x => { (setRegs x (qGd w) vs) with resv := some (a / 8) })
        finish (unclean s r) r none

/-- The response of the load in progress, when it can arrive (R194). -/
def respond (s : State) (r : Nat) (w : Word) : State :=
  if (s.role r).loadErr.isNone && !responseReady s r w then s
  else if loadOutstanding s r then s
  else
    match (s.role r).loadErr with
    | some (d, a) => syncFault (s.modRole r (fun x => { x with loadErr := none })) r 8 d.toNat w (some a)
    | none =>
      let p := accessOf s r w
      match p.2.2 with
      | .stx | .stxp => retireStx s r w p.1 p.2.1
      | .tload => retireTload s r w p.1
      | op => retireData s r w p.1 p.2.1 op

/-- LOAD_RESPONSE. -/
def execLoadResponse (r : RoleId) (s : State) : Host.Outcome State Fault Refusal :=
  match (s.role r.val).busy with
  | .load w => .next (respond s r.val w)
  | _ => .next s

/-! ### Fills -/

/-- True where a role of a lead waits for a line in its D-cache, its request ended. -/
def wantsLine (s : State) (p l : Nat) : Bool :=
  (rolesOnLead s p).any (fun r =>
    let x := s.role r
    (match x.busy with
      | .load w =>
        let q := accessOf s r w
        !loadOutstanding s r && (missing s r q.1 q.2.1).contains l
      | _ => false) ||
    x.posted.any (fun q => q.parts.any (fun u => (cxlLines u.1 u.2.length).contains l && (cached s p false l).isNone)))

/-- True where a started role of a lead fetches from a line that its I-cache does not hold. -/
def fetchesLine (s : State) (p l : Nat) : Bool :=
  (cached s p true l).isNone && (rolesOnLead s p).any (fun r =>
    let x := s.role r
    x.started && (cxlLines (instrAddr x x.pc) 4).contains l)

/-- DCACHE_FILL: a line arrives at a lead that waits for it, in its D-cache or its I-cache (R207, R209). -/
def execDcacheFill (lead : Fin 10) (line : Line) (s : State) : Host.Outcome State Fault Refusal :=
  let l := line.toNat
  let ic := !wantsLine s lead.val l
  .next (if marked s (l * 64) || (ic && !fetchesLine s lead.val l) then s
    else
      match fetchLine s lead.val ic l with
      | (s, some c) => insertLine s c
      | (s, none) => s)

end Sys2Proof.Machine
end

