-- ==== Sys2Proof/Machine/QueueOps.lean ====
section
/-! DEFINITION. The queue instructions and CUE (R140 to R147, R303 to R323). -/

namespace Sys2Proof.Machine

/-- Checks of a queue function or CUE (R141): ticket, alignment, kind of port. -/
def portFault (s : State) (r : Nat) (w : Word) (ok : Region → Bool) : Option Failed :=
  let t := tickVal s r (qTk w)
  let off := qOff s r w 4
  let a := t.addr off
  match t.check off 4 [permCUE] false t.isDbt with
  | some d => some ⟨3, d.toNat, a⟩
  | none => if a % 4 ≠ 0 then some ⟨4, 0, a⟩ else if !ok (regionOf a) then some ⟨7, 3, a⟩ else none

/-- Port address of a class 0x7 word. -/
def portAddr (s : State) (r : Nat) (w : Word) : Nat := (tickVal s r (qTk w)).addr (qOff s r w 4)

/-- Queue that a class 0x7 word names. -/
def queueAt (s : State) (r : Nat) (w : Word) : Nat :=
  match regionOf (portAddr s r w) with
  | .port q => q
  | _ => 0

/-- True for a queue port. -/
def anyQueue : Region → Bool
  | .port _ => true
  | _ => false

/-- True for a queue port that a role may pop (R304): house queues 0 to 11 are not. -/
def poppable : Region → Bool
  | .port q => !(320 ≤ q && q < 332)
  | _ => false

/-- Kind, address and data of entry e of a role's effects list (R328). -/
def effectAt (s : State) (r e : Nat) : Nat × Nat × Word :=
  let b := recordBase r + 0x200 + 16 * e
  (natAt s (b + 6) 1, natAt s b 6, BitVec.ofNat 32 (natAt s (b + 8) 4))

/-- Data words of the packet a role holds open on a queue, those on its scene's effects list included; none where it holds none
(R318). -/
def openWords (s : State) (r q : Nat) : Option Nat :=
  let start := if qOpener s q = some r then some (s.queue q).pktWords else none
  if !(s.role r).sc then start
  else
    (List.range (s.scene r).effects).foldl (fun o e =>
      let p := effectAt s r e
      if p.2.1 ≠ portBase q then o
      else
        match p.1 with
        | 1 => o.map (· + 1)
        | 2 => some 0
        | 3 => none
        | _ => o) start

/-- True where a push would be the 32nd word of the role's open packet (R315, R318). -/
def wouldOverrun (s : State) (r q : Nat) : Bool :=
  match openWords s r q with
  | some n => decide (31 ≤ n)
  | none => false

/-- Common start of QPUSH, QOPEN and QCLOSE: the checks, the wait of R346, and the effects list in a scene. -/
def startPush (s : State) (r : Nat) (w : Word) (kind : Nat) (data : Word) : State :=
  if releasing s r then block s r w
  else
    match portFault s r w anyQueue with
    | some f => failAt s r w f
    | none =>
      let a := portAddr s r w
      if kind = 1 && wouldOverrun s r (queueAt s r w) then
        syncFault (s.setFlag (Adr.qstat (queueAt s r w)) 2 true) r 7 2 w (some a)
      else if (s.role r).sc then effect s r w a kind 4 data
      else busyWith s r (.push w)

/-- QPUSH (R140, R145). -/
def doQpush : Body := fun s r w => startPush s r w 1 ((s.role r).greg (qGd w))
/-- QPUSH. -/
def execQpush (r : RoleId) (w : Word) (s : State) : Host.Outcome State Fault Refusal := .next (issue s r.val .qpush w doQpush)
/-- QOPEN (R312). -/
def doQopen : Body := fun s r w => startPush s r w 2 0
/-- QOPEN. -/
def execQopen (r : RoleId) (w : Word) (s : State) : Host.Outcome State Fault Refusal := .next (issue s r.val .qopen w doQopen)
/-- QCLOSE (R312). -/
def doQclose : Body := fun s r w => startPush s r w 3 0
/-- QCLOSE. -/
def execQclose (r : RoleId) (w : Word) (s : State) : Host.Outcome State Fault Refusal := .next (issue s r.val .qclose w doQclose)

/-- Effect of kind 1 to 3 at its queue, when its handshake completes (R308, R312, R316): none while it stalls. -/
def queueStep (s : State) (agent q kind : Nat) (data : Word) : Option State :=
  match kind with
  | 1 => if pushReady s q agent then some (push s q agent data false) else none
  | 2 => if openReady s q agent then some (openPacket s q agent) else none
  | _ => some (closePacket s q agent)

/-- The handshake of a push in progress (R142, R323): an unpowered queue gives a late store error. -/
def pushAccept (s : State) (r : Nat) (w : Word) : State :=
  let q := queueAt s r w
  let kind := match bits w 23 19 with
    | 1 => 1
    | 4 => 2
    | _ => 3
  if !domOn s (queueDomain q) then
    finish (unclean (lateError s r 1 (portAddr s r w) (some (s.role r).pc) none) r) r none
  else
    match queueStep s r q kind ((s.role r).greg (qGd w)) with
    | some s => finish (unclean s r) r none
    | none => s

/-- QUEUE_PUSH_ACCEPTED. -/
def execQueuePushAccepted (r : RoleId) (s : State) : Host.Outcome State Fault Refusal :=
  match (s.role r.val).busy with
  | .push w => .next (pushAccept s r.val w)
  | _ => .next s

/-- Journal kinds of a pop (R330). -/
def popKinds (tags : Bool) : List Nat := if tags then [0, 1] else [0]

/-- A pop retires: its registers, and the poison bit of its tags into ST.P and the trap of R144. -/
def retirePop (s : State) (r : Nat) (w : Word) (tags : Bool) (data : Word) (tag : Nat) : State :=
  let poison := tag.testBit 2
  let a := portAddr s r w
  let s := s.modRole r (fun x =>
    let x := x.setG (qGd w) data
    let x := if tags then x.setG (qGd w + 1) (BitVec.ofNat 32 tag) else x
    if poison then { x with st := setBit x.st 7 true } else x)
  let trap := poison && (s.role r).qp
  if trap && (s.role r).prompt then syncFault s r 7 1 w (some a)
  else
    let s := finish (unclean s r) r none
    if trap then syncFault s r 7 1 w (some a) else s

/-- Common start of QPOP and QPOPT (R140, R304, R351). The tags of a journaled QPOP are not kept, so its replay has no poison. -/
def startPop (s : State) (r : Nat) (w : Word) (tags : Bool) : State :=
  if releasing s r then block s r w
  else
    match portFault s r w poppable with
    | some f => failAt s r w f
    | none =>
      withJournal s r w (popKinds tags)
        (fun s vs => retirePop s r w tags (vs.headD 0) ((vs.drop 1).headD 0).toNat)
        (fun s => busyWith s r (.pop w))

/-- QPOP (R140). -/
def doQpop : Body := fun s r w => startPop s r w false
/-- QPOP. -/
def execQpop (r : RoleId) (w : Word) (s : State) : Host.Outcome State Fault Refusal := .next (issue s r.val .qpop w doQpop)
/-- QPOPT (R143). -/
def doQpopt : Body := fun s r w => startPop s r w true
/-- QPOPT. -/
def execQpopt (r : RoleId) (w : Word) (s : State) : Host.Outcome State Fault Refusal := .next (issue s r.val .qpopt w doQpopt)

/-- The handshake of a pop in progress (R142, R143, R144, R323, R330). -/
def popDeliver (s : State) (r : Nat) (w : Word) : State :=
  let q := queueAt s r w
  let tags := bits w 23 19 == 3
  if !domOn s (queueDomain q) then syncFault s r 8 3 w (some (portAddr s r w))
  else if !popReady s q then s
  else
    match pop s q with
    | (s, none) => s
    | (s, some p) =>
      let s := journalAll (wakeProducers s q) r ((popKinds tags).zip [p.data, BitVec.ofNat 32 p.tags])
      retirePop s r w tags p.data p.tags

/-- QUEUE_POP_DELIVERED. -/
def execQueuePopDelivered (r : RoleId) (s : State) : Host.Outcome State Fault Refusal :=
  match (s.role r.val).busy with
  | .pop w => .next (popDeliver s r.val w)
  | _ => .next s

/-- True for a cue-fire word. -/
def anyCue : Region → Bool
  | .cueFire _ => true
  | _ => false

/-- Channel that a CUE names (R147). -/
def cueChannel (a : Nat) : Nat :=
  match regionOf a with
  | .cueFire ch => ch
  | _ => 0

/-- CUE (R147, R275, R284): it waits while its role's latch is full. -/
def doCue : Body := fun s r w =>
  if releasing s r then block s r w
  else
    match portFault s r w anyCue with
    | some f => failAt s r w f
    | none =>
      let a := portAddr s r w
      if (s.role r).sc then effect s r w a 4 4 0
      else if !domOn s 51 then finish (unclean (lateError s r 1 a (some (s.role r).pc) none) r) r none
      else if roleLatchFull s r then block s r w
      else finish (unclean (fireCue s r (cueChannel a) false) r) r none
/-- CUE. -/
def execCue (r : RoleId) (w : Word) (s : State) : Host.Outcome State Fault Refusal := .next (issue s r.val .cue w doCue)

end Sys2Proof.Machine
end

