-- ==== Sys2Proof/Machine/Tickets.lean ====
section
/-! DEFINITION. The ticket instructions that make no access, and the ticket call gate (R151 to R162, R237). -/

namespace Sys2Proof.Machine

/-- A ticket instruction retires with td written. -/
def ticketResult (s : State) (r : Nat) (w : Word) (t : Ticket) : State :=
  finish (unclean (setTicket s r (tTd w) t) r) r none

/-- A failed derivation (R152, R237): its fault address is zero. -/
def derivationFault (s : State) (r : Nat) (w : Word) (d : Nat) : State := syncFault s r 3 d w (some 0)

/-- A ticket instruction that R178 forbids in a scene. -/
def outsideScene (s : State) (r : Nat) (w : Word) (body : State) : State := if (s.role r).sc then sceneFault s r 3 w else body

/-- TMOVE (R151). -/
def doTmove : Body := fun s r w => outsideScene s r w (ticketResult s r w (tickVal s r (tTa w)))
/-- TMOVE. -/
def execTmove (r : RoleId) (w : Word) (s : State) : Host.Outcome State Fault Refusal := .next (issue s r.val .tmove w doTmove)
/-- TCLR (R151). -/
def doTclr : Body := fun s r w => outsideScene s r w (ticketResult s r w Ticket.null)
/-- TCLR. -/
def execTclr (r : RoleId) (w : Word) (s : State) : Host.Outcome State Fault Refusal := .next (issue s r.val .tclr w doTclr)

/-- The narrowing of a ticket, or the detail of the test that fails (R153, R237). -/
def narrow (t : Ticket) (off len : Nat) : Except Nat Ticket :=
  if !t.tag then .error 1
  else if t.sealTy ≠ 0 then .error 2
  else if t.len.toNat < off + len then .error 6
  else .ok { t with base := t.base + BitVec.ofNat 48 off, len := BitVec.ofNat 48 len }

/-- The masking of a ticket's permissions (R154, R237). -/
def maskPerm (t : Ticket) (m : Byte) : Except Nat Ticket :=
  if !t.tag then .error 1 else if t.sealTy ≠ 0 then .error 2 else .ok { t with perm := t.perm &&& m }

/-- True where a ticket has sealing authority over a type (R155, R237). -/
def sealsType (n : Ticket) (ty : Nat) : Bool :=
  n.sealTy == 0 && bit n.perm permSEAL && decide (n.base.toNat ≤ ty) && decide (ty < n.base.toNat + n.len.toNat)

/-- The sealing of a ticket (R155, R237). -/
def sealWith (t n : Ticket) (ty : Nat) : Except Nat Ticket :=
  if !t.tag || !n.tag then .error 1
  else if t.sealTy ≠ 0 || ty = 0 || ty = 0xFF then .error 8
  else if !sealsType n ty then .error 7
  else .ok { t with sealTy := BitVec.ofNat 8 ty }

/-- The unsealing of a ticket (R155, R237). -/
def unsealWith (t n : Ticket) : Except Nat Ticket :=
  if !t.tag || !n.tag then .error 1
  else if t.sealTy = 0 || t.sealTy = 0xFF then .error 8
  else if !sealsType n t.sealTy.toNat then .error 7
  else .ok { t with sealTy := 0 }

/-- A derivation: its ticket to td, or its fault with td unchanged (R152). -/
def derive (s : State) (r : Nat) (w : Word) (t : Except Nat Ticket) : State :=
  outsideScene s r w (match t with
    | .ok t => ticketResult s r w t
    | .error d => derivationFault s r w d)

/-- TNARROW (R153). -/
def doTnarrow : Body := fun s r w =>
  derive s r w (narrow (tickVal s r (tTa w)) ((s.role r).greg (tGb w)).toNat ((s.role r).greg (tGb w + 1)).toNat)
/-- TNARROW. -/
def execTnarrow (r : RoleId) (w : Word) (s : State) : Host.Outcome State Fault Refusal := .next (issue s r.val .tnarrow w doTnarrow)
/-- TPERM (R154). -/
def doTperm : Body := fun s r w => derive s r w (maskPerm (tickVal s r (tTa w)) (BitVec.ofNat 8 (tImm w)))
/-- TPERM. -/
def execTperm (r : RoleId) (w : Word) (s : State) : Host.Outcome State Fault Refusal := .next (issue s r.val .tperm w doTperm)
/-- TSEAL (R155). -/
def doTseal : Body := fun s r w => derive s r w (sealWith (tickVal s r (tTa w)) (tickVal s r (tGb w)) (tImm w))
/-- TSEAL. -/
def execTseal (r : RoleId) (w : Word) (s : State) : Host.Outcome State Fault Refusal := .next (issue s r.val .tseal w doTseal)
/-- TUNSEAL (R155). -/
def doTunseal : Body := fun s r w => derive s r w (unsealWith (tickVal s r (tTa w)) (tickVal s r (tGb w)))
/-- TUNSEAL. -/
def execTunseal (r : RoleId) (w : Word) (s : State) : Host.Outcome State Fault Refusal := .next (issue s r.val .tunseal w doTunseal)

/-- Field of a ticket that TGET reads (R157). -/
def ticketField (t : Ticket) (k : Nat) : Word :=
  match k % 8 with
  | 0 => t.base.setWidth 32
  | 1 => (t.base >>> 32).setWidth 32
  | 2 => t.len.setWidth 32
  | 3 => (t.len >>> 32).setWidth 32
  | 4 => t.perm.setWidth 32
  | 5 => t.cid.setWidth 32
  | 6 => t.sealTy.setWidth 32
  | _ => if t.tag then 1 else 0

/-- TGET (R157). -/
def doTget : Body := fun s r w =>
  finish (unclean (s.modRole r (fun x => x.setG (tGb w) (ticketField (tickVal s r (tTa w)) (tImm w)))) r) r none
/-- TGET. -/
def execTget (r : RoleId) (w : Word) (s : State) : Host.Outcome State Fault Refusal := .next (issue s r.val .tget w doTget)

/-- The special ticket registers by number (R83). -/
def specialTicket (x : Role) (n : Nat) : Ticket :=
  match n % 4 with
  | 0 => x.ht
  | 1 => x.tst
  | 2 => x.srt
  | _ => x.dbt

/-- A write of a special ticket register. -/
def setSpecial (x : Role) (n : Nat) (t : Ticket) : Role :=
  match n % 4 with
  | 0 => { x with ht := t }
  | 1 => { x with tst := t }
  | 2 => { x with srt := t }
  | _ => { x with dbt := t }

/-- TRDS (R158). -/
def doTrds : Body := fun s r w => outsideScene s r w (ticketResult s r w (specialTicket (s.role r) (tGb w)))
/-- TRDS. -/
def execTrds (r : RoleId) (w : Word) (s : State) : Host.Outcome State Fault Refusal := .next (issue s r.val .trds w doTrds)

/-- TWRS (R158): in a scene a write of SRT has a detail of its own (R85, R335). -/
def doTwrs : Body := fun s r w =>
  if (s.role r).sc then sceneFault s r (if tGb w % 4 = 2 then 4 else 3) w
  else finish (unclean (s.modRole r (fun x => setSpecial x (tGb w) (tickVal s r (tTa w)))) r) r none
/-- TWRS. -/
def execTwrs (r : RoleId) (w : Word) (s : State) : Host.Outcome State Fault Refusal := .next (issue s r.val .twrs w doTwrs)

/-! ### The call gate -/

/-- The detail of the first test of CALLT that fails (R159). -/
def gateFault (c d : Ticket) : Option Nat :=
  if !(c.tag && d.tag) then some 1
  else if c.sealTy = 0 || c.sealTy = 0xFF then some 2
  else if d.sealTy ≠ c.sealTy then some 3
  else if !bit c.perm permX then some 4
  else none

/-- CALLT (R159). -/
def doCallt : Body := fun s r w =>
  let x := s.role r
  let n := bits w 7 0
  let c := x.tick n
  let d := x.tick (n + 1)
  outsideScene s r w (match gateFault c d with
    | some k => faultAt s r 13 k w
    | none =>
      let enterGate : Role → Role := fun x =>
        ((((clearConsec x x.pc).setT 7 { x.tick 0 with sealTy := 0xFF }).setT 0 { c with sealTy := 0 }).setT 6 { d with sealTy := 0 }).setG
          31 (x.pc + 4)
      finish ((unclean s r).modRole r enterGate) r (some 0))
/-- CALLT. -/
def execCallt (r : RoleId) (w : Word) (s : State) : Host.Outcome State Fault Refusal := .next (issue s r.val .callt w doCallt)

/-- RETT (R160, R161). -/
def doRett : Body := fun s r w =>
  let x := s.role r
  let t := x.tick 7
  let g := x.greg 31
  outsideScene s r w (
    if !t.tag || t.sealTy ≠ 0xFF then faultAt s r 13 5 w
    else if bits g 1 0 ≠ 0 then syncFault s r 4 0 w (some (t.addr g.toNat))
    else
      finish ((unclean s r).modRole r (fun x => ((clearConsec x x.pc).setT 0 { t with sealTy := 0 }).setT 7 Ticket.null)) r (some g))
/-- RETT. -/
def execRett (r : RoleId) (w : Word) (s : State) : Host.Outcome State Fault Refusal := .next (issue s r.val .rett w doRett)

end Sys2Proof.Machine
end

