-- ==== Sys2Proof/Machine/Control.lean ====
section
/-! DEFINITION. Branches, jumps and the system instructions (R73 to R81, R139, R163 to R169, R264 to R266). -/

namespace Sys2Proof.Machine

/-! ### Branches and jumps -/

/-- B (R72, R163). -/
def doBranch : Body := fun s r w => finish s r (some ((s.role r).pc + branchOff w))
/-- B. -/
def execBranch (r : RoleId) (w : Word) (s : State) : Host.Outcome State Fault Refusal := .next (issue s r.val .branch w doBranch)

/-- BL (R163). -/
def doBl : Body := fun s r w =>
  let pc := (s.role r).pc
  finish (s.modRole r (fun x => x.setG 31 (pc + 4))) r (some (pc + branchOff w))
/-- BL. -/
def execBl (r : RoleId) (w : Word) (s : State) : Host.Outcome State Fault Refusal := .next (issue s r.val .bl w doBl)

/-- A jump to G[ga], with a register written first where one is named (R164). -/
def jumpTo (s : State) (r : Nat) (w : Word) (link : Option Nat) : State :=
  let x := s.role r
  let v := gaVal s r (fGa w)
  if bits v 1 0 ≠ 0 then syncFault s r 4 0 w (some (instrAddr x v))
  else
    finish (match link with
      | some n => s.modRole r (fun x => x.setG n (x.pc + 4))
      | none => s) r (some v)

/-- JR (R164). -/
def doJr : Body := fun s r w => jumpTo s r w none
/-- JR. -/
def execJr (r : RoleId) (w : Word) (s : State) : Host.Outcome State Fault Refusal := .next (issue s r.val .jr w doJr)
/-- JRL (R164). -/
def doJrl : Body := fun s r w => jumpTo s r w (some (fGd w))
/-- JRL. -/
def execJrl (r : RoleId) (w : Word) (s : State) : Host.Outcome State Fault Refusal := .next (issue s r.val .jrl w doJrl)

/-! ### Special registers -/

/-- What MFS reads (R76, R77). -/
def special (s : State) (r n : Nat) : Word :=
  let x := s.role r
  let c := s.core (coreOf r)
  match n with
  | 0 => x.st
  | 1 => x.rc.setWidth 32
  | 2 => x.mpl
  | 3 => x.mph
  | 4 => x.dq
  | 5 => x.drm
  | 6 => BitVec.ofNat 32 x.rp
  | 7 => BitVec.ofNat 32 x.rpd
  | 8 => (x.tick 0).cid.setWidth 32
  | 9 => 2
  | 10 => x.abcnt
  | 11 => c.beats.setWidth 32
  | 12 => x.beatsh
  | 13 => c.seen.setWidth 32
  | 14 => c.per
  | _ => 0

/-- A core's beats pass (R57, R58). How many have passed since the count was last read is no part of this model: at least the reading
instruction's own, and a free number (log 19). -/
def passBeats (s : State) (core : Nat) : State :=
  let p := s.fresh
  let c := p.1.core core
  p.1.setCore core { c with beats := c.beats + 1 + (p.2.setWidth 32).setWidth 64 }

/-- A read of BEATS latches BEATSH (R57). -/
def latchBeats (s : State) (r : Nat) : State :=
  let s := passBeats s (coreOf r)
  s.modRole r (fun x => { x with beatsh := ((s.core (coreOf r)).beats >>> 32).setWidth 32 })

/-- A core reads METRO (R61, R579): the count or the one before it, a free value says which, and never less than it read before. -/
def readMetro (s : State) (core : Nat) : State :=
  let p := s.fresh
  let c := p.1.core core
  let m := if bit p.2 0 && s.metro ≠ 0 then s.metro - 1 else s.metro
  p.1.setCore core { c with seen := if m.toNat < c.seen.toNat then c.seen else m }

/-- MFS (R76). -/
def doMfs : Body := fun s r w =>
  let s := if sImm w = 11 then latchBeats s r else if sImm w = 13 then readMetro s (coreOf r) else s
  finish (s.modRole r (fun x => x.setG (fGd w) (special s r (sImm w)))) r none
/-- MFS. -/
def execMfs (r : RoleId) (w : Word) (s : State) : Host.Outcome State Fault Refusal := .next (issue s r.val .mfs w doMfs)

/-- Fields of ST that MTS writes (R74). -/
def stWritable : Word := 0xCFF

/-- What MTS writes (R74, R76, R79). -/
def setSpecialReg (x : Role) (n : Nat) (v : Word) : Role :=
  match n with
  | 0 => { x with st := (x.st &&& ~~~stWritable) ||| (v &&& stWritable) }
  | 1 => { x with rc := v.setWidth 16 }
  | 2 => { x with mpl := v }
  | 3 => { x with mph := v }
  | 4 => { x with dq := v }
  | 5 => { x with drm := v }
  | 10 => { x with abcnt := setBits x.abcnt 31 16 (bits v 31 16) }
  | _ => x

/-- MTS (R76). -/
def doMts : Body := fun s r w =>
  let v := gaVal s r (fGa w)
  finish (s.modRole r (fun x => setSpecialReg x (sImm w) v)) r none
/-- MTS. -/
def execMts (r : RoleId) (w : Word) (s : State) : Host.Outcome State Fault Refusal := .next (issue s r.val .mts w doMts)

/-! ### SYNC.I, WAIT, WAITCUE, MASK -/

/-- SYNC.I (R139): it waits for the posted stores, then the words held are fetched again. -/
def doSyncI : Body := fun s r w =>
  let x := s.role r
  if !x.posted.isEmpty then block s r w
  else
    let s := finish (s.modRole r (fun x => { x with fetchQ := [] })) r none
    if x.prompt then s else holdWords s r [x.pc + 4, x.pc + 8]
/-- SYNC.I. -/
def execSyncI (r : RoleId) (w : Word) (s : State) : Host.Outcome State Fault Refusal := .next (issue s r.val .syncI w doSyncI)

/-- WAIT (R166): as a prompt it retires with no effect (R615). -/
def doWait : Body := fun s r _ => if (s.role r).prompt then finish s r none else busyWith s r .waiting
/-- WAIT. -/
def execWait (r : RoleId) (w : Word) (s : State) : Host.Outcome State Fault Refusal := .next (issue s r.val .wait w doWait)

/-- Pending bits of a role's WAITCUE inputs under a mask (R167). -/
def wcPending (s : State) (r mask : Nat) : Nat :=
  (List.range 4).foldl (fun n k => if mask.testBit k && s.flag (Adr.wcCin r k) 0 then n + 2 ^ k else n) 0

/-- A WAITCUE retires with the bits it took. -/
def retireWaitcue (s : State) (r : Nat) (w : Word) (v : Word) : State :=
  finish (unclean (s.modRole r (fun x => x.setG (fGd w) v)) r) r none

/-- A WAITCUE takes its pending bits (R167, R330). -/
def takeCues (s : State) (r : Nat) (w : Word) : State :=
  let n := wcPending s r (bits w 3 0)
  let s := (List.range 4).foldl (fun s k => if n.testBit k then clearCin s (0x1000 + r * 4 + k) else s) s
  retireWaitcue (journalAll s r [(0, BitVec.ofNat 32 n)]) r w (BitVec.ofNat 32 n)

/-- WAITCUE (R167): with no mask, or with a bit pending, it does not stall. -/
def doWaitcue : Body := fun s r w =>
  withJournal s r w [0] (fun s vs => retireWaitcue s r w (vs.headD 0))
    (fun s => if bits w 3 0 = 0 || wcPending s r (bits w 3 0) ≠ 0 then takeCues s r w else busyWith s r (.waitcue w))
/-- WAITCUE. -/
def execWaitcue (r : RoleId) (w : Word) (s : State) : Host.Outcome State Fault Refusal := .next (issue s r.val .waitcue w doWaitcue)

/-- A stalled WAITCUE completes when a bit is pending. -/
def wakeCue (s : State) (r : Nat) (w : Word) : State := if wcPending s r (bits w 3 0) = 0 then s else takeCues s r w

/-- WAITCUE_WAKE. -/
def execWaitcueWake (r : RoleId) (s : State) : Host.Outcome State Fault Refusal :=
  match (s.role r.val).busy with
  | .waitcue w => .next (wakeCue s r.val w)
  | _ => .next s

/-- MASK (R168, R256). -/
def doMask : Body := fun s r w =>
  let x := s.role r
  outsideScene s r w (
    if x.rpd ≥ 16 then goDark s r 3 (instrAddr x x.pc)
    else
      let l := max x.rp (min (bits w 3 0) 12)
      finish (unclean (s.setRole r { x with stack := ⟨BitVec.ofNat 4 l, true⟩ :: x.stack }) r) r none)
/-- MASK. -/
def execMask (r : RoleId) (w : Word) (s : State) : Host.Outcome State Fault Refusal := .next (issue s r.val .mask w doMask)

/-! ### RFE -/

/-- Fields of ST that RFE restores (R264). -/
def stRestored : Word := 0xDFF

/-- A role's state restored from the 64 bytes of a frame (R259, R264). -/
def restoreFrame (l : List Byte) (tag : Bool) (x : Role) : Role :=
  let v := fun off => (BitVec.ofNat 32 (leNat ((l.drop off).take 4)) : Word)
  let x := (clearConsec x x.pc).setT 0 (Ticket.ofNat (leNat (l.drop 48)) tag)
  { x with st := (x.st &&& ~~~stRestored) ||| (v 4 &&& stRestored), rc := (v 8).setWidth 16, mpl := v 12, mph := v 16, dq := v 20, drm := v 24 }

/-- Tag of a granule as the role sees it: its newest wings entry there, or memory (R136, R265). -/
def ownTag (s : State) (r a : Nat) : Bool :=
  match ((s.scene r).wings.filter (fun e => e.dw / 2 == a / 16)).getLast? with
  | some e => e.setTag.getD false
  | none => readTagBy s r a

/-- An RFE at the base depth that restores the scene's own frame leaves none there (R333). -/
def dropFrame (s : State) (r : Nat) : State := if atBase s r then s.setScene r { s.scene r with ownFrame := false } else s

/-- RFE (R169, R255, R264 to R266, R333): at the base depth of a scene a fault, but for the frame an entry of the scene left there
(DEDUCED: R332 and R351 have its handler return). -/
def doRfe : Body := fun s r w =>
  let x := s.role r
  let off := x.rpd * 64
  let a := x.tst.addr off
  if atBase s r && !(s.scene r).ownFrame then sceneFault s r 6 w
  else if x.rpd ≥ 16 then goDark s r 3 (instrAddr x x.pc)
  else
    match x.tst.check off 64 [permR, permLT] false x.tst.isDbt with
    | some d => syncFault s r 3 d.toNat w (some a)
    | none =>
      if postedOverlap x a 64 || (List.range 8).any (fun i => marked s (a + 8 * i)) then block s r w
      else
        match (if (List.range 8).all (fun i => isMemory (a + 8 * i)) then readBytes s r a 64 else (s, .error ⟨3, a⟩)) with
        | (s, .error e) => syncFault s r 8 e.detail.toNat w (some e.addr)
        | (s, .ok l) =>
          let l := l.mapIdx (fun i b => (wingByte s r (a + i)).getD b)
          let tag := ownTag s r (a + 48) && a % 16 == 0
          let pc : Word := BitVec.ofNat 32 (leNat (l.take 4))
          finish (unclean (dropFrame (s.modRole r (restoreFrame l tag)) r) r) r (some pc)
/-- RFE. -/
def execRfe (r : RoleId) (w : Word) (s : State) : Host.Outcome State Fault Refusal := .next (issue s r.val .rfe w doRfe)

end Sys2Proof.Machine
end

