-- ==== Sys2Proof/Machine/Scenes.lean ====
section
/-! DEFINITION. Scenes and the curtain (R325 to R346): opening, the locks, staging and marks, the flip and the checkpoint, the drain of
staging and the release of the effects. -/

namespace Sys2Proof.Machine

/-! ### Opening -/

/-- Bytes of the saved state of a record (R325), offsets 0x000 to 0x0BF, with a PC, a flags word and a journal count of 0. -/
def recordImage (s : State) (r : Nat) (pc flags : Word) : List Byte :=
  let x := s.role r
  leBytes 4 (sceneIdWord s r).toNat ++ leBytes 4 pc.toNat ++ leBytes 4 flags.toNat ++ leBytes 4 0 ++
    leBytes 4 (setBit x.st 9 false).toNat ++ leBytes 4 x.rc.toNat ++ leBytes 4 x.mpl.toNat ++ leBytes 4 x.mph.toNat ++
    leBytes 4 x.dq.toNat ++ leBytes 4 x.drm.toNat ++ leBytes 8 0 ++ (x.tick 0).bytes ++
    (List.range 31).flatMap (fun i => leBytes 4 (x.greg (i + 1)).toNat) ++ leBytes 4 0

/-- The record written, with the T0 tag held beside it. -/
def saveRecord (s : State) (r : Nat) (pc flags : Word) : State :=
  let s := writeMem s none (recordBase r) (recordImage s r pc flags) false
  s.setScene r { s.scene r with t0tag := ((s.role r).tick 0).tag }

/-- The SRT check (R326). -/
def srtOk (r : Nat) (t : Ticket) : Bool :=
  t.tag && t.sealTy == 0 && bit t.perm permR && bit t.perm permW && t.base.toNat == recordBase r && t.len.toNat == 0x800

/-- ST.SC set. -/
def setSc (s : State) (r : Nat) (b : Bool) : State := s.modRole r (fun x => { x with st := setBit x.st 9 b })

/-- Steps 2 to 5 of R327, or the pending replay resumed in place of steps 3 and 4 (R352). -/
def openScene (s : State) (r : Nat) : State :=
  let s := s.modRole r (fun x => { landAll x with resv := none })
  if recFlag s r 10 then
    let s := s.setScene r { s.scene r with wings := [], ownFrame := false, effects := 0, retired := 0, jpos := 0 }
    let s := if journalCount s r = 0 then setRecFlag s r 10 false else s
    setSc (finish s r none) r true
  else
    let a := Adr.scnId (troupeOf r) (troupeIx r)
    let s := s.setField a 15 0 (s.field a 15 0 + 1)
    let s := s.setField (Adr.scnAbn (troupeOf r) (troupeIx r)) 15 8 0
    let x := s.role r
    let s := saveRecord s r x.pc (BitVec.ofNat 32 (x.rpd + 2 ^ 8))
    let s := s.setScene r { s.scene r with wings := [], ownFrame := false, effects := 0, retired := 0, jpos := 0, faults := 0, cur := none }
    setSc (finish s r none) r true

/-- SCENE.BEGIN (R170, R326, R327). -/
def doSceneBegin : Body := fun s r w =>
  if (s.role r).sc then sceneFault s r 1 w
  else if !srtOk r (s.role r).srt then sceneFault s r 5 w
  else if releasing s r then block s r w
  else openScene s r
/-- SCENE.BEGIN. -/
def execSceneBegin (r : RoleId) (w : Word) (s : State) : Host.Outcome State Fault Refusal :=
  .next (issue s r.val .sceneBegin w doSceneBegin)

/-! ### The curtain -/

/-- Curtain areas that wings entries touch, ascending (R337). -/
def wingAreas (ws : List Wing) : List Nat := (List.range 10).filter (fun a => ws.any (fun e => areaOf (e.dw * 8) == a))

/-- Locks of a curtain in the order of R338. -/
def locksOf : List Nat → List Lock
  | [] => []
  | [a] => [.area a]
  | l => .house :: l.map .area

/-- SCENE.END (R170, R338): the curtain starts. -/
def doSceneEnd : Body := fun s r w =>
  if !(s.role r).sc then sceneFault s r 2 w
  else
    let areas := wingAreas (s.scene r).wings
    busyWith (s.setScene r { s.scene r with cur := some ⟨locksOf areas, [], areas, areas.isEmpty⟩ }) r (.curtain w)
/-- SCENE.END. -/
def execSceneEnd (r : RoleId) (w : Word) (s : State) : Host.Outcome State Fault Refusal :=
  .next (issue s r.val .sceneEnd w doSceneEnd)

/-- True where a lock can be granted: free, and for an area with 128 staging entries free (R338). -/
def lockFree (s : State) : Lock → Bool
  | .area a => !s.flag (Adr.curLock a) 9 && (s.staged a).length ≤ 128
  | .house => !s.flag Adr.curHlock 10

/-- A lock taken by a role. -/
def takeLock (s : State) (r : Nat) : Lock → State
  | .area a => (s.setFlag (Adr.curLock a) 9 true).setField (Adr.curLock a) 19 10 r
  | .house => (s.setFlag Adr.curHlock 10 true).setField Adr.curHlock 9 0 r

/-- Step 3 entry by entry: the address that draws an error, or the state with every entry staged (R338, R343). -/
def stageAll (s : State) (r : Nat) : List Wing → Except Nat State
  | [] => .ok s
  | e :: ws =>
    let a := e.dw * 8
    if !isMemory a || storeError s a then .error a
    else stageAll (showFree (s.setStaged (areaOf a) (s.staged (areaOf a) ++ [⟨e, r, sceneIdWord s r, false⟩])) (areaOf a)) r ws

/-- Steps 3 and 4 once every lock is held: staged and marked, or backed out with the scene abandoned (R343). -/
def stageAndMark (s : State) (r : Nat) (w : Word) (c : Curtain) : State :=
  match stageAll s r (s.scene r).wings with
  | .ok s => s.setScene r { s.scene r with cur := some { c with marked := true } }
  | .error a => abandonFault (s.incField (Adr.curErr (areaOf a)) 15 0) r 0x0B 4 w a

/-- CURTAIN_LOCK_GRANT: the next lock a curtain wants (R338, R342). With the last one its entries are staged and their lines marked. -/
def execCurtainLockGrant (r : RoleId) (s : State) : Host.Outcome State Fault Refusal :=
  match (s.role r.val).busy, (s.scene r.val).cur with
  | .curtain w, some c =>
    match c.want with
    | [] => .next s
    | l :: rest =>
      if !lockFree s l then .next s
      else
        let s := takeLock s r.val l
        let c := { c with want := rest, held := c.held ++ [l] }
        let s := s.setScene r.val { s.scene r.val with cur := some c }
        .next (if rest.isEmpty then stageAndMark s r.val w c else s)
  | _, _ => .next s

/-- The staged entries of a role in an area become visible (step 5): lead copies of their lines go, and reservations fall. -/
def flipArea (s : State) (r a : Nat) : State :=
  let mine := (s.staged a).filter (fun e => e.role == r && !e.flipped)
  let s := mine.foldl (fun s e =>
    let s := if a = 9 then recallStore s none (e.wing.dw * 8 / 64) else s
    clearResv s (some r) e.wing.dw) s
  let s := s.setStaged a ((s.staged a).map (fun e => if e.role = r then { e with flipped := true } else e))
  s.incField (Adr.curCnt a) 31 0

/-- Steps 6 and 7: the checkpoint, and SCENE.END retires (R338). -/
def checkpoint (s : State) (r : Nat) (c : Curtain) : State :=
  let s := s.modRole r landAll
  let n := (s.scene r).effects
  let s := saveRecord s r ((s.role r).pc + 4) (setBits (recWord s r 8 &&& 0x1F) 9 9 1)
  let s := c.held.foldl unlock s
  let s := s.setScene r { s.scene r with wings := [], ownFrame := false, retired := 0, jpos := 0, faults := 0, cur := none, releasing := n ≠ 0 }
  finish (setSc s r false) r none

/-- The curtain point: flips, the commit packet, the checkpoint. -/
def curtainPoint (s : State) (r : Nat) (c : Curtain) : State :=
  let s := c.areas.foldl (fun s a => flipArea s r a) s
  let s := if 2 ≤ c.areas.length then s.incField Adr.curHlock 31 16 else s
  let x := s.scene r
  let s := traceRole s 1 1 r (sceneSeq s r + x.wings.length * 2 ^ 16 + x.effects * 2 ^ 24 + c.areas.length * 2 ^ 30)
  checkpoint s r c

/-- CURTAIN_FLIP: once its marks are acknowledged the curtain flips (R338 to R340). -/
def execCurtainFlip (r : RoleId) (s : State) : Host.Outcome State Fault Refusal :=
  match (s.role r.val).busy, (s.scene r.val).cur with
  | .curtain _, some c => .next (if c.marked then curtainPoint s r.val c else s)
  | _, _ => .next s

/-! ### Draining -/

/-- A drained entry's bytes reach memory (R339). -/
def drainWrite (s : State) (e : Staged) : State :=
  let g := e.wing.dw / 2
  let k := e.wing.dw % 2
  let a := e.wing.dw * 8
  match regionOf a with
  | .cxl w => writeWindow s w (winOff (g * 16) / 16) (e.wing.data.toNat * 2 ^ (64 * k)) (e.wing.mask.toNat * 2 ^ (8 * k)) (e.wing.setTag.getD false)
  | _ => writeSram s e.wing.dw e.wing.data.toNat e.wing.mask.toNat (e.wing.setTag.getD false)

/-- An entry drains: to its bank, or to the CXL device with a request; an error response is a late store error that names the scene
(R339, R344). -/
def drainEntry (s : State) (a : Nat) (e : Staged) (rest : List Staged) : State :=
  let d := e.wing.dw * 8
  let gone := fun (s : State) => showFree (s.setStaged a rest) a
  if e.wing.mask = 0 then gone s
  else if storeError s d then
    lateError ((gone s).incField (Adr.curErr a) 15 0) e.role 2 d none (some e.sid)
  else if a = 9 then
    match writeReq s (.curtain e.role e.sid) d with
    | some s => drainWrite (gone s) e
    | none => s
  else drainWrite (gone s) e

/-- STAGING_DRAIN: an area drains its oldest flipped entry (R339). -/
def execStagingDrain (area : Fin 10) (s : State) : Host.Outcome State Fault Refusal :=
  let l := s.staged area.val
  .next (match l.find? (fun e => e.flipped) with
    | none => s
    | some e => drainEntry s area.val e (l.erase e))

/-! ### Effects -/

/-- Effects of the committed scene that are released (R325). -/
def released (s : State) (r : Nat) : Nat := bits (recWord s r 8) 21 16

/-- The outcome of an effect at its target: none while it waits (R345). An error response is a late store error (R344). -/
def doEffect (s : State) (r kind a : Nat) (data : Word) : Option State :=
  let late := some (lateError s r 2 a none (some (recWord s r 0)))
  match kind with
  | 4 => if !domOn s 51 then late else if roleLatchFull s r then none else some (fireCue s r (cueChannel a) true)
  | 5 =>
    if storeError s a then late
    else if partReady s r (a, leBytes 4 data.toNat) then acceptPart r ⟨[], none, 0, false⟩ (a, leBytes 4 data.toNat) s
    else none
  | _ =>
    match regionOf a with
    | .port q => if !domOn s (queueDomain q) then late else queueStep s r q kind data
    | _ => some s

/-- The engine releases its next effect and records it (R345). -/
def releaseEffect (s : State) (r : Nat) : State :=
  let k := released s r
  let e := effectAt s r k
  match doEffect s r e.1 e.2.1 e.2.2 with
  | none => s
  | some s =>
    let s := setRecWord s r 8 (setBits (recWord s r 8) 21 16 (k + 1))
    if (s.scene r).effects ≤ k + 1 then s.setScene r { s.scene r with effects := 0, releasing := false } else s

/-- EFFECT_RELEASE. -/
def execEffectRelease (r : RoleId) (s : State) : Host.Outcome State Fault Refusal :=
  .next (if releasing s r.val then releaseEffect s r.val else s)

end Sys2Proof.Machine
end

