-- ==== Sys2Proof/Machine/Leads.lean ====
section
/-! DEFINITION. The long operations of leads (R214 to R225). -/

namespace Sys2Proof.Machine

/-- Unit of a long operation (R214): 0 decimal, 1 binary, 2 stream. -/
def longUnit (w : Word) : Nat :=
  match bits w 23 18 with
  | 1 | 2 => 0
  | 4 | 5 | 6 | 7 => 1
  | _ => 2

/-- True while a long operation of either role of the lead is in a unit. -/
def unitBusy (s : State) (r u : Nat) : Bool :=
  let base := 512 + (r - 512) / 2 * 2
  [base, base + 1].any (fun q => (s.role q).longOps.any (fun o => o.unit == u))

/-- A long operation issues (R215): sources and ST.DT are read, the role goes on, or in precise mode waits (R223). -/
def startLong (s : State) (r : Nat) (w : Word) : State :=
  let x := s.role r
  let u := longUnit w
  if unitBusy s r u then block s r w
  else
    let a := gaVal s r (fGa w) :: (List.range 3).map (fun i => x.greg (fGa w + 1 + i))
    let b := [x.greg (fGb w), x.greg (fGb w + 1)]
    let o : LongOp := ⟨w, BitVec.ofNat 48 (instrAddr x x.pc), a, b, x.greg (fGd w), x.dt, tickVal s r (lMod w), u⟩
    let s := s.setRole r { x with longOps := x.longOps ++ [o] }
    if x.lprec || x.prompt then busyWith s r (.long w) else finish (unclean s r) r none

/-- DMUL16. -/
def doDmul16 : Body := fun s r w => startLong s r w
/-- DMUL16 (R218). -/
def execDmul16 (r : RoleId) (w : Word) (s : State) : Host.Outcome State Fault Refusal := .next (issue s r.val .dmul16 w doDmul16)
/-- DDIV16. -/
def doDdiv16 : Body := fun s r w => startLong s r w
/-- DDIV16 (R218). -/
def execDdiv16 (r : RoleId) (w : Word) (s : State) : Host.Outcome State Fault Refusal := .next (issue s r.val .ddiv16 w doDdiv16)
/-- MUL64. -/
def doMul64 : Body := fun s r w => startLong s r w
/-- MUL64 (R218). -/
def execMul64 (r : RoleId) (w : Word) (s : State) : Host.Outcome State Fault Refusal := .next (issue s r.val .mul64 w doMul64)
/-- MUL64U. -/
def doMul64u : Body := fun s r w => startLong s r w
/-- MUL64U (R218). -/
def execMul64u (r : RoleId) (w : Word) (s : State) : Host.Outcome State Fault Refusal := .next (issue s r.val .mul64u w doMul64u)
/-- DIV64. -/
def doDiv64 : Body := fun s r w => startLong s r w
/-- DIV64 (R218). -/
def execDiv64 (r : RoleId) (w : Word) (s : State) : Host.Outcome State Fault Refusal := .next (issue s r.val .div64 w doDiv64)
/-- DIV64U. -/
def doDiv64u : Body := fun s r w => startLong s r w
/-- DIV64U (R218). -/
def execDiv64u (r : RoleId) (w : Word) (s : State) : Host.Outcome State Fault Refusal := .next (issue s r.val .div64u w doDiv64u)
/-- CRC32C. -/
def doCrc32c : Body := fun s r w => startLong s r w
/-- CRC32C (R219). -/
def execCrc32c (r : RoleId) (w : Word) (s : State) : Host.Outcome State Fault Refusal := .next (issue s r.val .crc32c w doCrc32c)
/-- HPINT. -/
def doHpint : Body := fun s r w => startLong s r w
/-- HPINT (R220). -/
def execHpint (r : RoleId) (w : Word) (s : State) : Host.Outcome State Fault Refusal := .next (issue s r.val .hpint w doHpint)
/-- HPRICE. -/
def doHprice : Body := fun s r w => startLong s r w
/-- HPRICE (R220). -/
def execHprice (r : RoleId) (w : Word) (s : State) : Host.Outcome State Fault Refusal := .next (issue s r.val .hprice w doHprice)

/-! ### Results -/

/-- What a long operation gives: the words of its destinations from gd up and the sticky bits LE and LV, or a long fault with the offset
that gd receives for details 0x22 and 0x23 (R218 to R221). -/
inductive LongRes where
  | ok (ws : List Word) (le lv : Bool)
  | fault (detail : Nat) (off : Option Word)
deriving DecidableEq, Repr

/-- The n low words of a number. -/
def wordsOf (n v : Nat) : List Word := (List.range n).map (fun i => BitVec.ofNat 32 (v / 2 ^ (32 * i)))

/-- The pair of captured words at a list's head. -/
def headPair (l : List Word) : Nat := pairVal (l.headD 0) ((l.drop 1).headD 0)

/-- DMUL16 and DDIV16 (R218). -/
def decimalLong (div : Bool) (a b : Nat) (dt : Bool) : LongRes :=
  let bad := (badDigit a 16).isSome || (badDigit b 16).isSome
  let x := ofDigits 16 a
  let y := ofDigits 16 b
  if div && y = 0 then .fault 0x20 none
  else if bad && dt then .fault 0x21 none
  else if div then .ok (wordsOf 2 (toDigits 16 (x / y)) ++ wordsOf 2 (toDigits 16 (x % y))) bad false
  else
    let p := toDigits 32 (x * y)
    .ok (wordsOf 4 p) bad (decide (2 ^ 64 ≤ p))

/-- MUL64 and MUL64U (R218): LV where the product does not fit a pair of its kind. -/
def binaryMul (signed : Bool) (a b : DWord) : LongRes :=
  if signed then
    let p := a.toInt * b.toInt
    .ok (wordsOf 4 (p % 2 ^ 128).toNat) false (decide (p < -(2 ^ 63)) || decide (2 ^ 63 ≤ p))
  else .ok (wordsOf 4 (a.toNat * b.toNat)) false (decide (2 ^ 64 ≤ a.toNat * b.toNat))

/-- DIV64 and DIV64U (R218). -/
def binaryDiv (signed : Bool) (a b : DWord) : LongRes :=
  if b = 0 then .fault 0x20 none
  else if !signed then .ok (wordsOf 2 (a / b).toNat ++ wordsOf 2 (a % b).toNat) false false
  else if a = 0x8000000000000000 && b = 0xFFFFFFFFFFFFFFFF then .ok (wordsOf 2 a.toNat ++ [0, 0]) false true
  else .ok (wordsOf 2 (a.sdiv b).toNat ++ wordsOf 2 (a.srem b).toNat) false false

/-- The reads of CRC32C, 8 bytes each and the last of what is left (R219): the register, or the long fault of the read that fails. -/
def crcReads (s : State) (r : Nat) (t : Ticket) : Nat → Nat → Nat → Word → State × LongRes
  | 0, _, _, c => (s, .ok [c] false false)
  | k + 1, off, left, c =>
    let off := off % 2 ^ 32
    let n := min 8 left
    match accessFault t off n permR with
    | some _ => (s, .fault 0x22 (some (BitVec.ofNat 32 off)))
    | none =>
      match loadData s r (t.addr off) n with
      | (s, .error _) => (s, .fault 0x23 (some (BitVec.ofNat 32 off)))
      | (s, .ok l) =>
        let s := spotEvent s r spotR (t.addr off) n (if n = 8 then loadWords l else [BitVec.ofNat 32 (leNat l)])
        crcReads s r t k (off + 8) (left - 8) (crc32c c l)

/-- HPINT (R220). -/
def interpolate (va vb t d : Word) : LongRes :=
  if d = 0 then .fault 0x25 none
  else .ok [BitVec.ofInt 32 (va.toInt + roundDiv ((vb.toInt - va.toInt) * t.toNat) d.toNat)] false false

/-- HPRICE (R220). -/
def riceDecode (win k : Nat) : LongRes :=
  match (List.range 64).find? (fun i => !win.testBit i) with
  | none => .fault 0x26 none
  | some q =>
    let v := q * 2 ^ k + win / 2 ^ (q + 1) % 2 ^ k
    if 64 < q + 1 + k || 2 ^ 32 ≤ v then .fault 0x26 none
    else .ok [BitVec.ofNat 32 v, BitVec.ofNat 32 (q + 1 + k)] false false

/-- The result of a long operation from its captured sources. -/
def longResult (s : State) (r : Nat) (o : LongOp) : State × LongRes :=
  let a := headPair o.a
  let b := headPair o.b
  match bits o.word 23 18 with
  | 1 => (s, decimalLong false a b o.dt)
  | 2 => (s, decimalLong true a b o.dt)
  | 4 => (s, binaryMul true (BitVec.ofNat 64 a) (BitVec.ofNat 64 b))
  | 5 => (s, binaryMul false (BitVec.ofNat 64 a) (BitVec.ofNat 64 b))
  | 6 => (s, binaryDiv true (BitVec.ofNat 64 a) (BitVec.ofNat 64 b))
  | 7 => (s, binaryDiv false (BitVec.ofNat 64 a) (BitVec.ofNat 64 b))
  | 8 =>
    let n := (o.b.headD 0).toNat
    if 65536 < n then (s, .fault 0x24 none)
    else crcReads s r o.ticket ((n + 7) / 8) (o.a.headD 0).toNat n o.d
  | 0x0C => (s, interpolate (o.a.getD 0 0) (o.a.getD 1 0) (o.a.getD 2 0) (o.a.getD 3 0))
  | _ => (s, riceDecode a (bits (o.b.headD 0) 4 0))

/-- A long operation leaves the role's list. -/
def dropLong (s : State) (r u : Nat) : State :=
  s.modRole r (fun x => { x with longOps := x.longOps.filter (fun o => o.unit ≠ u) })

/-- The entry of a long fault (R221, R261): vector 12 with the operation's word, and the address it issued from. -/
def longEntry (x : Role) (f : LongFault) : Entry :=
  ⟨12, f.detail.toNat, 13, x.pc, x.st, f.word, some f.addr.toNat, 0, false, false, false, 0⟩

/-- The fault of a long operation: in precise mode taken at once where RP allows it, else pending at its unit (R221, R223). -/
def longFault (s : State) (r : Nat) (o : LongOp) (detail : Nat) (off : Option Word) : State :=
  let x := s.role r
  let f : LongFault := ⟨o.word, o.addr, BitVec.ofNat 8 detail, o.unit⟩
  if x.busy ≠ .long o.word then
    let s := match off with
      | some v => s.modRole r (fun x => x.setG (fGd o.word) v)
      | none => s
    (dropLong s r o.unit).modRole r (fun x => { x with longFaults := x.longFaults ++ [f] })
  else if promptTraps s r then endPrompt (dropLong s r o.unit) r 2 12 detail
  else if x.rp ≤ 12 then
    let s := dropLong s r o.unit
    let s := if x.prompt then endPrompt s r 2 12 detail else s
    enter s r (longEntry (s.role r) f)
  else (dropLong s r o.unit).modRole r (fun x => { x with longFaults := x.longFaults ++ [f] })

/-- True while a long fault of the lead is pending at a unit. -/
def faultPending (s : State) (r u : Nat) : Bool :=
  let base := 512 + (r - 512) / 2 * 2
  [base, base + 1].any (fun q => (s.role q).longFaults.any (fun f => f.unit == u))

/-- A long operation retires (R215, R216, R223): its destinations and LMODE, or its fault. -/
def retireLong (s : State) (r : Nat) (o : LongOp) : State :=
  match longResult s r o with
  | (s, .fault d off) => longFault s r o d off
  | (s, .ok ws le lv) =>
    let s := (dropLong s r o.unit).modRole r (fun x => { (setRegs x (fGd o.word) ws) with le := x.le || le, lv := x.lv || lv })
    match (s.role r).busy with
    | .long w => if w = o.word then finish (unclean s r) r none else s
    | _ => s

/-- LONG_OP_RETIRE: the operation of a role in a unit has run its beats. It waits while a long fault is pending at the unit (log 21). -/
def execLongOpRetire (r : RoleId) (unit : Fin 3) (s : State) : Host.Outcome State Fault Refusal :=
  match (s.role r.val).longOps.find? (fun o => o.unit == unit.val) with
  | none => .next s
  | some o => .next (if faultPending s r.val unit.val then s else retireLong s r.val o)

/-! ### LBAR, LMODER, LMODEW, LCLEAN -/

/-- LBAR (R222). -/
def doLbar : Body := fun s r w => if (s.role r).longOps.isEmpty then finish (unclean s r) r none else block s r w
/-- LBAR. -/
def execLbar (r : RoleId) (w : Word) (s : State) : Host.Outcome State Fault Refusal := .next (issue s r.val .lbar w doLbar)

/-- LMODE of a role (R217). -/
def lmode (x : Role) : Word :=
  BitVec.ofNat 32 ((if x.lprec then 1 else 0) + (if x.le then 2 else 0) + (if x.lv then 4 else 0) + min 3 x.longOps.length * 16)

/-- LMODER (R217). -/
def doLmoder : Body := fun s r w => finish (unclean (s.modRole r (fun x => x.setG (fGd w) (lmode x))) r) r none
/-- LMODER. -/
def execLmoder (r : RoleId) (w : Word) (s : State) : Host.Outcome State Fault Refusal := .next (issue s r.val .lmoder w doLmoder)

/-- LMODEW (R217). -/
def doLmodew : Body := fun s r w =>
  let v := gaVal s r (fGa w)
  finish (unclean (s.modRole r (fun x => { x with lprec := bit v 0, le := bit v 1, lv := bit v 2 })) r) r none
/-- LMODEW. -/
def execLmodew (r : RoleId) (w : Word) (s : State) : Host.Outcome State Fault Refusal := .next (issue s r.val .lmodew w doLmodew)

/-- LCLEAN (R213, R214): the ticket must cover the byte named (log 20). -/
def doLclean : Body := fun s r w =>
  let t := tickVal s r (lMod w)
  let off := (gaVal s r (fGa w)).toNat
  match t.check off 1 [] false t.isDbt with
  | some d => syncFault s r 3 d.toNat w (some (t.addr off))
  | none =>
    let s := match cached s (leadOf s r) false (t.addr off / 64) with
      | some l => cleanLine s l
      | none => s
    finish (unclean s r) r none
/-- LCLEAN. -/
def execLclean (r : RoleId) (w : Word) (s : State) : Host.Outcome State Fault Refusal := .next (issue s r.val .lclean w doLclean)

end Sys2Proof.Machine
end

