-- ==== Sys2Proof/Machine/Recognise.lean ====
section
/-! DEFINITION. Recognition of interrupts and asynchronous exceptions (R192 to R198, R248 to R257, R330, R332, R351). -/

namespace Sys2Proof.Machine

/-- True in a beat of the role in which an event can be recognised (R121, R192, R255). -/
def recognisable (s : State) (r : Nat) : Bool :=
  let x := s.role r
  x.started && !x.onHold && !x.frozen && coreOn s (coreOf r) && !coreDark s (coreOf r) && x.prodNew.isNone && !x.eoiClosed && !rsLoadOut x

/-- Word of the instruction at a role's PC: in progress, repeated, or the next it would issue. -/
def wordAtPc (s : State) (r : Nat) : Word :=
  match (s.role r).busy, (s.role r).rep with
  | .idle, none | .waiting, none =>
    match nextWord s r with
    | some (_, .word w) => w
    | _ => 0
  | _, some p => p.word
  | .multi w, _ | .load w, _ | .push w, _ | .pop w, _ | .waitcue w, _ | .curtain w, _ | .long w, _ | .blocked w, _ => w

/-- What the role has in progress stops for an entry (R196): work is abandoned, a WAIT retires (R166). Answers whether something was
abandoned. -/
def stopForEntry (s : State) (r : Nat) : State × Bool :=
  if (s.role r).busy = .waiting then (finish s r none, false) else abandonWork s r 0

/-- The entry of an interrupt level or vector 15 (R261). -/
def levelEntry (s : State) (r vec level : Nat) (aux : Word) (gone : Bool) : State :=
  let x := s.role r
  enter s r ⟨vec, 0, level, x.pc, x.st, 0, none, aux, false, gone, false, 0⟩

/-- Level 15 (R250, R271): inside a scene the scene is abandoned for replay first, and its replay stays pending (R332, R352). -/
def enterPfail (s : State) (r : Nat) : State :=
  if !((s.role r).sc && !isLead r) then
    let p := stopForEntry s r
    levelEntry (p.1.modRole r (fun x => { x with pfail := false })) r 15 15 (metroLo s) p.2
  else
    let p := abandonWork s r 3
    let seq := sceneSeq s r
    match restoreRecord (noteAbandon p.1 r 8 1) r with
    | (s, false) => restartRole s r 0x15 5
    | (s, true) =>
      let s := recoveryNotice (setRecFlag s r 10 true) r 0x10 5 seq
      levelEntry (s.modRole r (fun x => { x with pfail := false })) r 15 15 (metroLo s) p.2

/-- Vector 9 (R261, R267). -/
def enterLate (s : State) (r : Nat) (e : LateErr) : State :=
  let p := stopForEntry s r
  let s := p.1.modRole r (fun x => { x with late := none })
  let x := s.role r
  enter s r ⟨9, e.detail.toNat, 13, x.pc, x.st, e.pc.getD 0, some e.addr.toNat, e.sid.getD 0, e.pc.isSome, p.2, e.sid.isSome, e.merged.toNat⟩

/-- Vector 12 (R221). -/
def enterLong (s : State) (r : Nat) (f : LongFault) : State :=
  let p := stopForEntry s r
  let s := p.1.modRole r (fun x => { x with longFaults := x.longFaults.drop 1 })
  enter s r { longEntry (s.role r) f with abn := p.2 }

/-- An interrupt of a level (R297): inside a scene it is journaled, or abandons the scene when the journal cannot take it (R330). -/
def enterLevel (s : State) (r l : Nat) : State :=
  let sc := (s.role r).sc && !isLead r
  let w := wordAtPc s r
  let p := stopForEntry s r
  let s := p.1
  let n := (s.scene r).retired
  if sc && (!journalRoom s r 2 || 2 ^ 24 ≤ n) then abandonAt s r 0x0A 3 w
  else
    let t := metroLo s
    let s := if sc then journalAdd (journalAdd s r 2 (BitVec.ofNat 32 (n + (16 + l) * 2 ^ 24))) r 3 t else s
    levelEntry s r (16 + l) l t p.2

/-- The journaled entry that is due in a replay (R351). -/
def enterJournaled (s : State) (r : Nat) : State :=
  let p := takeEntry s r
  let q := takeEntry p.1 r
  let v := bits p.2 28 24
  let g := stopForEntry q.1 r
  levelEntry g.1 r v (v - 16) q.2 g.2

/-- The event recognised for a role, in the order of R250: none leaves the state unchanged. -/
def recognise (s : State) (r : Nat) : State :=
  let x := s.role r
  let low := decide (x.rp ≤ 12) && decide (x.rpd < 16)
  if !recognisable s r then s
  else if x.pfail then enterPfail s r
  else if replaying s r then (if markerDue s r then enterJournaled s r else s)
  else
    match x.late, x.longFaults with
    | some e, fs => if low && !(x.sc && !isLead r) then enterLate s r e
      else if low then (match fs with
        | f :: _ => enterLong s r f
        | [] => if x.rp < presented s r then enterLevel s r (presented s r) else s)
      else s
    | none, f :: _ => if low then enterLong s r f else s
    | none, [] => if x.rp < presented s r && decide (x.rpd < 16) then enterLevel s r (presented s r) else s

/-- INTERRUPT_RECOGNITION. -/
def execInterruptRecognition (r : RoleId) (s : State) : Host.Outcome State Fault Refusal := .next (recognise s r.val)

end Sys2Proof.Machine
end

