-- ==== Sys2Proof/Machine/Wear.lean ====
section
/-! DEFINITION. Detected faults and recovery (R347 to R353), slack meters and the retirement policy (R364 to R367), and the migration of
cores and leads (R368 to R377). -/

namespace Sys2Proof.Machine

/-! ### Physical cores -/

/-- Physical core that carries a core: five slots of each troupe (R18), 160 + p for lead p. -/
def physOf (s : State) (core : Nat) : Nat :=
  if core < 128 then core / 4 * 5 + carrier s core % 5 else 160 + leadPhys s (core - 128)

/-- Core that a physical slot carries, none for a spare that carries none. -/
def carriedBy (s : State) (phys : Nat) : Option Nat :=
  if phys < 160 then (List.range 4).findSome? (fun k =>
    if carrier s (phys / 5 * 4 + k) = phys % 5 then some (phys / 5 * 4 + k) else none)
  else (List.range 8).findSome? (fun c => if s.field Adr.lmap (2 * c + 1) (2 * c) ≠ 3 && leadPhys s c = phys - 160 then some (128 + c) else none)

/-- Address of the slack meter of a physical core. -/
def slackAdr (p : Nat) : Nat := if p < 160 then Adr.slack (p / 5) (p % 5) else Adr.lslack (p - 160)

/-- One more fault of a physical core; 255 times are kept. -/
def noteFault (s : State) (p : Nat) : State :=
  let l := faultsOf s p ++ [todNow s]
  { s with sm := { s.sm with faultTimes := Sparse.put (fun _ => []) s.sm.faultTimes p (l.drop (l.length - 255)) } }

/-- SLACK.SLOW of a physical core. -/
def slowOf (s : State) (p : Nat) : Nat := s.field (slackAdr p) 11 0

/-- Bytes 9 to 15 of a migration NOTICE (R375). -/
def wearBytes (s : State) (cause old new : Nat) (p : Nat) : List Byte :=
  leBytes 1 cause ++ leBytes 1 old ++ leBytes 1 new ++ leBytes 2 (slowOf s p) ++ leBytes 1 (min 255 (faultsWithin s p 30)) ++ leBytes 1 0

/-- Code of a physical slot in a NOTICE (R375). -/
def slotCode (p : Nat) : Nat := if p < 160 then p % 5 else p - 160

/-- A wear NOTICE of the SM (R492). -/
def wearNotice (s : State) (core code cause : Nat) : State :=
  let p := physOf s core
  notice s (uibOfCore core) code (wearBytes s cause (slotCode p) 0xFF p)

/-- Physical slot of a troupe that is free to carry a core: the understudy, or a core whose retirement was revoked (R363, R371, R380);
it carries nothing and is not retired. -/
def freeSlot (s : State) (t : Nat) : Option Nat :=
  [4, 0, 1, 2, 3].find? (fun p => (carriedBy s (t * 5 + p)).isNone && !s.flag (Adr.tmap t) (16 + p))

/-- True where a core's troupe has a free slot. -/
def understudyFree (s : State) (core : Nat) : Bool := (freeSlot s (core / 4)).isSome

/-- First free spare lead (R372): 0 for LS0, 1 for LS1. -/
def freeSpare (s : State) : Option Nat :=
  (List.range 2).find? (fun k => (carriedBy s (168 + k)).isNone && !s.flag Adr.lmap (16 + 8 + k))

/-- True where a core has a spare to move to. -/
def spareFree (s : State) (core : Nat) : Bool := if core < 128 then understudyFree s core else (freeSpare s).isSome

/-- A migration is due (R350, R366). -/
def addDue (s : State) (d : Due) : State :=
  let l := s.sm.due
  let l := if l.any (fun e => e.core == d.core) then
      l.map (fun e => if e.core = d.core then { e with charged := e.charged ++ d.charged } else e)
    else l ++ [d]
  { s with sm := { s.sm with due := l } }

/-- The migration of a core is no longer due. -/
def clearDue (s : State) (core : Nat) : State :=
  { s with sm := { s.sm with due := s.sm.due.filter (fun e => e.core ≠ core) } }

/-! ### Stopping -/

/-- A role stops (R373): its work is abandoned and it issues nothing until it starts again. -/
def stopRole (s : State) (r : Nat) : State :=
  let s := (abandonWork s r 2).1
  s.modRole r (fun x => { x with started := false, frozen := false, busy := .idle, fetchQ := [], rep := none })

/-- A core retires with no carrier (R371, R373). -/
def retireNoCarrier (s : State) (core cause : Nat) : State :=
  let p := physOf s core
  let s := (rolesOf core).foldl stopRole s
  let s :=
    if core < 128 then
      let t := core / 4
      let k := core % 4
      setGate ((s.setField (Adr.tmap t) (4 * k + 2) (4 * k) 7).setFlag (Adr.tmap t) (16 + p % 5) true) t (p % 5) 2
    else
      let c := core - 128
      (s.setField Adr.lmap (2 * c + 1) (2 * c) 3).setFlag Adr.lmap (16 + (p - 160)) true
  let s := addFuseRecord s (if core < 128 then 2 else 3) (if core < 128 then p / 5 + p % 5 * 32 else p - 160)
  let s := raiseFault s (uibOfCore core) 8 cause 0 none
  notice (clearDue s core) (uibOfCore core) 0x24 (wearBytes s cause (slotCode p) 0xFF p)

/-! ### Policy -/

/-- SLOW at the decline of a physical core's retirement (R507). -/
def declinedAt (s : State) (p : Nat) : Option Nat := Sparse.get (fun _ => none) s.sm.declined p
/-- The state with a decline recorded or dropped. -/
def setDeclined (s : State) (p : Nat) (x : Option Nat) : State :=
  { s with sm := { s.sm with declined := Sparse.put (fun _ => none) s.sm.declined p x } }

/-- A physical core has met the retirement policy (R366, R371): NOTICE 0x23 under approval, else a migration is due, else NOTICE 0x24. -/
def policyRetire (s : State) (p core cause : Nat) : State :=
  if s.sm.wear.approval then
    if s.sm.pendingRet.contains p then s
    else
      let s := setDeclined s p none
      wearNotice { s with sm := { s.sm with pendingRet := s.sm.pendingRet ++ [p] } } core 0x23 cause
  else if spareFree s core then addDue s ⟨core, cause, []⟩
  else wearNotice s core 0x24 cause

/-- The policy on faults, after one (R366). -/
def faultPolicy (s : State) (core : Nat) : State :=
  let p := physOf s core
  if s.sm.wear.faults ≤ faultsWithin s p s.sm.wear.days then policyRetire s p core 2 else s

/-- A slack reading of a physical core (R364): the mean of the last 16 against the baseline. After a decline, SLOW must rise by 10 (R507). -/
def slackReading (s : State) (p ps : Nat) : State :=
  let l := Sparse.get (fun _ => []) s.sm.slackRd p ++ [ps]
  let l := l.drop (l.length - 16)
  let s := { s with sm := { s.sm with slackRd := Sparse.put (fun _ => []) s.sm.slackRd p l } }
  let mean := l.sum / l.length
  let base := if p < 160 then s.field (Adr.slackbase (p / 5) (p % 5)) 15 0 else 0
  let slow := if base = 0 then 0 else min 0xFFF ((mean - base) * 1000 / base)
  let a := slackAdr p
  let was := s.flag a 13
  let s := ((s.setField a 11 0 slow).setFlag a 12 (l.length = 16)).setFlag a 13 (s.sm.wear.thr ≤ slow)
  let due := match declinedAt s p with
    | none => !was
    | some sl => decide (sl + 10 ≤ slow)
  match carriedBy s p with
  | some core => if s.sm.wear.thr ≤ slow && due then policyRetire s p core 1 else s
  | none => s

/-- True where a physical core is powered. -/
def physOn (s : State) (p : Nat) : Bool :=
  if p < 160 then domOn s (p / 5) && gateSetting s (p / 5) (p % 5) == 0 else domOn s (40 + (p - 160))

/-- SLACK_READING: a core whose domain is off takes none (R364). -/
def execSlackReading (slot : PhysId) (ps : BitVec 16) (s : State) : Host.Outcome State Fault Refusal :=
  .next (if physOn s slot.val then slackReading s slot.val ps.toNat else s)

/-- RETIREMENT_NOTICE_REPEAT: a retirement that still awaits approval is noticed again (R366). -/
def execRetirementNoticeRepeat (slot : PhysId) (s : State) : Host.Outcome State Fault Refusal :=
  .next (match s.sm.pendingRet.contains slot.val, carriedBy s slot.val with
    | true, some core => wearNotice s core 0x23 (if s.sm.wear.thr ≤ slowOf s slot.val then 1 else 2)
    | _, _ => s)

/-! ### Recovery -/

/-- Number of the fault in the role's scene (R350, R352): a fault in a replay is at least the second. -/
def faultNumber (s : State) (r : Nat) : Nat :=
  let n := (s.scene r).faults + 1
  if replaying s r then max 2 n else n

/-- The role charged is undone on its core: a replay of its scene, or its checkpoint (R350). -/
def undo (s : State) (r cause code mech : Nat) : State :=
  if (s.role r).sc then replayScene (abandonWork s r 3).1 r cause code mech
  else restoreCheckpoint (abandonWork s r 4).1 r mech

/-- Core that a migration under double casting moves (R353): the follower of a pair, the core itself otherwise. -/
def castFollower (s : State) (core : Nat) : Option Nat :=
  if 128 ≤ core then none
  else if core % 4 = 0 && s.flag (Adr.scnCast (core / 4)) 0 then some (core + 1)
  else if core % 4 = 2 && s.flag (Adr.scnCast (core / 4)) 1 then some (core + 1)
  else none

/-- A fault charged to a role (R350, R352, R353, R371). -/
def chargeRole (mech : Nat) (s : State) (r : Nat) : State :=
  let x := s.role r
  let core := coreOf r
  if !x.started then s
  else if isLead r || !(x.sc || recFlag s r 9) then restartRole (abandonWork s r 4).1 r 0x13 mech
  else
    let n := faultNumber s r
    let s := s.setScene r { s.scene r with faults := n }
    let cause := if (castFollower s core).isSome then 4 else 3
    if n = 1 then undo s r 1 0x10 mech
    else if understudyFree s core then
      addDue ((abandonWork s r 3).1.modRole r (fun x => { x with frozen := true })) ⟨core, cause, [(r, mech)]⟩
    else if n = 2 then wearNotice (undo s r 1 0x10 mech) core 0x24 cause
    else retireNoCarrier s core cause

/-- A fault of a physical core is counted, its charged roles recover, and the policy looks at it (R350, R365, R366). -/
def coreFault (s : State) (core mech : Nat) (charged : List Nat) : State :=
  faultPolicy (charged.foldl (chargeRole mech) (noteFault s (physOf s core))) core

/-- CORE_FAULT_DETECTED (R347, R350). A mismatch is found only at a curtain of a cast pair (R348). -/
def execCoreFaultDetected (r : RoleId) (kind : CoreFault) (s : State) : Host.Outcome State Fault Refusal :=
  let core := coreOf r.val
  let all := rolesOf core
  .next (if !coreOn s core then s
    else
      match kind with
      | .dualRail wide => coreFault s core 1 (if wide then all else [r.val])
      | .parityG => coreFault (raiseRoleFault s r.val 5 1 none) core 3 [r.val]
      | .paritySpecial => coreFault (raiseRoleFault s r.val 5 2 none) core 3 [r.val]
      | .parityTicket => coreFault (raiseRoleFault s r.val 5 3 none) core 3 [r.val]
      | .castMismatch =>
        match (castFollower s core), (s.role r.val).busy with
        | some _, .curtain _ =>
          let s := s.incField (Adr.scnCast (core / 4)) 15 8
          coreFault (raiseRoleFault s r.val 6 1 (some (instrAddr (s.role r.val) (s.role r.val).pc))) core 4 [r.val]
        | _, _ => s)

/-- STALL_DETECTOR_EXPIRY (R34, R347). -/
def execStallDetectorExpiry (r : RoleId) (stage : StallStage) (s : State) : Host.Outcome State Fault Refusal :=
  let core := coreOf r.val
  .next (if !coreOn s core then s
    else
      match stage with
      | .roleStage => coreFault (raiseRoleFault s r.val 4 1 none) core 2 [r.val]
      | .issueControl => coreFault (raiseFault s (uibOfCore core) 4 2 0 none) core 2 (rolesOf core)
      | .leadUnit => if isLead r.val then coreFault (raiseRoleFault s r.val 4 3 none) core 2 [r.val] else s)

/-! ### Migration -/

/-- Every posted store of a role reaches its destination (step 3 of R368): those that draw an error give late store errors. -/
def drainPosted (s : State) (r : Nat) : State :=
  (List.range (s.role r).posted.length).foldl (fun s _ =>
    match (s.role r).posted with
    | p :: _ => (takeStore s r 0 p).getD s
    | [] => s) s

/-- Steps 3 of R368 for one role: work abandoned, stores drained, the reservation cleared. -/
def holdForMove (s : State) (r : Nat) : State :=
  if !(s.role r).started then s
  else (drainPosted (abandonWork s r 2).1 r).modRole r (fun x => { x with resv := none, fetchQ := [] })

/-- Step 6 of R368 for one role: a role whose fault was charged, or whose scene is open, is recovered on the understudy. -/
def recoverMoved (d : Due) (s : State) (r : Nat) : State :=
  let x := s.role r
  if !x.started || coreDark s (coreOf r) then s
  else
    let mech := (d.charged.find? (fun e => e.1 == r)).map (·.2)
    let s := if mech.isSome then s.modRole r (fun x => { x with frozen := false }) else s
    if x.sc && !isLead r then replayScene s r 2 0x11 (mech.getD 6)
    else
      match mech with
      | some m => restoreCheckpoint s r m
      | none => s

/-- The NOTICE of a migration to each started role (step 7 of R368, R372). -/
def moveNotices (s : State) (core code cause old new p : Nat) : State :=
  (rolesOf core).foldl (fun s r =>
    if (s.role r).started then noticeTo s r 12 (uibOfCore core) code (wearBytes s cause old new p) else s) s

/-- A player core moves to its troupe's understudy (R368 to R370): the follower of a cast pair moves in its leader's place (R353). -/
def migrateCore (s : State) (d : Due) : State :=
  let core := d.core
  let moved := (castFollower s core).getD core
  let t := core / 4
  let k := moved % 4
  let p := physOf s moved
  let s := (rolesOf core).foldl holdForMove s
  let u := (freeSlot s t).getD 4
  let s := setGate s t u 0
  let s := (s.setField (Adr.tmap t) (4 * k + 2) (4 * k) u).setFlag (Adr.tmap t) (16 + p % 5) true
  let s := raiseFault s (uibOfCore core) 8 d.cause 0 none
  let s := (rolesOf core).foldl (recoverMoved d) s
  let s := moveNotices s core 0x20 d.cause (p % 5) u p
  addFuseRecord (clearDue s core) 2 (t + p % 5 * 32)

/-- CORE_MIGRATION: a migration that is due (R368). A core that must retire for its switch segments does so with no carrier where no spare is
free (R371, R382). -/
def execCoreMigration (core : Fin 128) (cause : Byte) (s : State) : Host.Outcome State Fault Refusal :=
  let c := core.val
  .next (match s.sm.due.find? (fun d => d.core == c && d.cause == cause.toNat) with
    | some d =>
      if carrier s c = 7 then clearDue s c
      else if understudyFree s c then migrateCore s d
      else if d.cause = 6 then retireNoCarrier s c 6
      else s
    | none => s)

/-- A lead moves to a spare (R228, R229, R372): long operations go on from their captured sources, cached lines are written back. -/
def migrateLead (s : State) (c spare cause : Nat) : State :=
  let core := 128 + c
  let p := leadPhys s c
  let s := (rolesOf core).foldl holdForMove s
  let s := (s.caches.filter (fun l => l.lead == p)).foldl dropLine s
  let s := setPowTab (setDomState (setDomSet s (48 + spare) 0) (48 + spare) 0) (48 + spare) 0
  let s := (s.setField Adr.lmap (2 * c + 1) (2 * c) (1 + spare)).setFlag Adr.lmap (16 + p) true
  let s := raiseFault s (uibOfCore core) 8 cause 0 none
  let s := moveNotices s core 0x25 cause p (8 + spare) (160 + p)
  addFuseRecord (clearDue s core) 3 p

/-- LEAD_MIGRATION: a migration that is due, to the first free spare (R372); with none free the lead retires with no carrier (R373). -/
def execLeadMigration (c : Fin 8) (spare : Fin 2) (cause : Byte) (s : State) : Host.Outcome State Fault Refusal :=
  let core := 128 + c.val
  let due := s.sm.due.any (fun d => d.core == core && d.cause == cause.toNat)
  .next (if !due || s.field Adr.lmap (2 * c.val + 1) (2 * c.val) = 3 then s
    else
      match freeSpare s with
      | some k => if k = spare.val then migrateLead s c.val k cause.toNat else s
      | none => retireNoCarrier s core cause.toNat)

end Sys2Proof.Machine
end

