-- ==== Sys2Proof/Machine/Images.lean ====
section
/-! DEFINITION. Images (R530 to R532): their format, the checks of R532, the grant and placement rules of R241 and R506, installing one, and
starting and stopping its roles (R505, R238). -/

namespace Sys2Proof.Machine

/-! ### Installed images -/

/-- Roles that an image carries, in the order of its CORE records. -/
def Image.roles (i : Image) : List Nat :=
  i.cores.flatMap (fun c => (rolesOf (coreOfUib c.uib)).filter (fun r => c.start.testBit (roleIn r)))

/-- Roles of an image that are started. -/
def startedRoles (s : State) (i : Image) : List Nat := i.roles.filter (fun r => (s.role r).started && roleCid s r == i.cid)

/-- True for an image with a started role. -/
def imageStarted (s : State) (i : Image) : Bool := !(startedRoles s i).isEmpty

/-- True where a grant to a started image reaches a range with all of some permissions. -/
def grantedTo (s : State) (lo n need : Nat) : Bool :=
  s.sm.images.any (fun i => imageStarted s i && i.cores.any (fun c => c.grants.any (fun g =>
    !g.flags.testBit 0 && overlaps g.base g.len lo n && (g.perm.toNat &&& need) == need)))

/-- True where a grant to a started image reaches a CXL window (R505, R507, R543). -/
def windowGranted (s : State) (w : Nat) : Bool := grantedTo s ((w + 1) * 2 ^ 40) (2 ^ 40) 0

/-! ### Places -/

/-- Address ranges of R242 and R246 that are absent, the CXL windows apart. -/
def absentRanges : List (Nat × Nat) :=
  [(0x400000, 0xC00000), (0x3400000, 0xC00000), (0x4100000, 0xBF00000), (0x10004000, 0xFC000), (0x11100000, 2 ^ 40 - 0x11100000),
    (2 ^ 42, 2 ^ 49)] ++
  (List.range 8).map (fun c => (0x1300000 + c * 0x400000, 0x100000)) ++
  ((List.range 256).filter (fun u => !uibPresent u)).map (fun u => (uibBase u, 0x40)) ++
  (List.range 256).map (fun i => (blockBase i + blockLen i, 0x10000 - blockLen i))

/-- True where a range covers an absent address (R243, R247). Decoders map whole units of 256 MiB. -/
def coversAbsent (s : State) (lo n : Nat) : Bool :=
  absentRanges.any (fun r => overlaps lo n r.1 r.2) ||
  (List.range 3).any (fun w => overlaps lo n ((w + 1) * 2 ^ 40) (2 ^ 40) && (List.range 4096).any (fun u =>
    let b := (w + 1) * 2 ^ 40 + u * 2 ^ 28
    overlaps lo n b (2 ^ 28) && (winAbsent s w (winOff (max lo b)) || winAbsent s w (winOff (min (lo + n) (b + 2 ^ 28) - 1)))))

/-- Base of set 1 (R470). -/
def set1Base : Nat := 0x33FF800

/-- Context table and build areas of a compressor that runs (R430, R431). -/
def hcTables (s : State) (h : Nat) : List (Nat × Nat) :=
  if s.flag (Adr.hcCtl h) 0 then
    let n := s.field (Adr.hcCtxh h) 31 16
    [(s.field (Adr.hcCtxl h) 31 12 * 2 ^ 12 + s.field (Adr.hcCtxh h) 15 0 * 2 ^ 32, n * 64),
      (s.field (Adr.hcBldl h) 31 15 * 2 ^ 15 + s.field (Adr.hcBldh h) 15 0 * 2 ^ 32, n * 0x8000)]
  else []

/-- Memory that the SM keeps from images beside set 1: the compressors' tables (R430, R431). -/
def smReserved (s : State) : List (Nat × Nat) := hcTables s 0 ++ hcTables s 1

/-- True where a range meets set 1 or reserved memory. -/
def meetsReserved (s : State) (lo n : Nat) : Bool :=
  ((set1Base, 0x800) :: smReserved s).any (fun r => overlaps lo n r.1 r.2)

/-- True for a range that a SEGMENT may fill (check 7 of R532). -/
def segmentOk (s : State) (lo n : Nat) : Bool :=
  !coversAbsent s lo n && !meetsReserved s lo n &&
    (lo + n ≤ 0x3400000 || (2 ^ 40 ≤ lo && lo + n ≤ 2 ^ 42 && winOpen s (winOf lo) && winOpen s (winOf (lo + n - 1))))

/-- True where a range stays in one place that is powered or open. -/
def rangeError (s : State) (lo n : Nat) : Bool :=
  (List.range ((n + 0x3FFF) / 0x4000 + 1)).any (fun i => storeError s (min (lo + i * 0x4000) (lo + n - 1)))

/-! ### The format -/

/-- A record of an image (R531): type, body, and whether its zero byte is. -/
structure RawRec where
  ty : Nat
  body : List Byte
  bad : Bool
deriving DecidableEq, Repr

/-- The records of an image; none where one does not lie within it. -/
def parseRecs : Nat → List Byte → Option (List RawRec)
  | 0, l => if l.isEmpty then some [] else none
  | n + 1, l =>
    if l.isEmpty then some []
    else
      let len := at_ l 2 2
      let tot := (4 + len + 15) / 16 * 16
      if l.length < tot then none
      else (parseRecs n (l.drop tot)).map (fun t => ⟨at_ l 0 1, (l.drop 4).take len, at_ l 1 1 ≠ 0⟩ :: t)

/-- What the records of an image say; `bad` where one is unknown or malformed. Segments: address, DATA, bytes. Claims: kind, items. -/
structure Parsed where
  segs : List (Nat × Bool × List Byte)
  cores : List ImageCore
  rings : List (Nat × Nat × Nat × Nat)
  quiets : List (Nat × Nat × Word)
  slots : List (Nat × Nat × Nat)
  claims : List (Nat × List Nat)
  bad : Bool
deriving DecidableEq, Repr

/-- A grant entry of R240. -/
def grantOf (b : List Byte) : Grant := ⟨at_ b 0 6, at_ b 6 6, BitVec.ofNat 8 (at_ b 12 1), at_ b 13 1, at_ b 14 1, at_ b 15 1⟩

/-- One record taken in. -/
def addRec (s : State) (p : Parsed) (r : RawRec) : Parsed :=
  let b := r.body
  let n := b.length
  let p := if r.bad then { p with bad := true } else p
  let bad := { p with bad := true }
  match r.ty with
  | 1 => if n < 8 || at_ b 7 1 ≠ 0 then bad else { p with segs := p.segs ++ [(at_ b 0 6, (at_ b 6 1).testBit 0, b.drop 8)] }
  | 2 =>
    let u := at_ b 0 2
    let k := (n - 4) / 16
    if n < 4 || (n - 4) % 16 ≠ 0 || 32 < k || at_ b 3 1 ≠ 0 || !uibIsCore u || (if u < 192 then 16 else 4) ≤ at_ b 2 1 then bad
    else { p with cores := p.cores ++ [⟨u, at_ b 2 1, (List.range k).map (fun i => grantOf ((b.drop (4 + 16 * i)).take 16))⟩] }
  | 3 =>
    if n ≠ 10 || 527 < at_ b 0 2 || !(1 ≤ at_ b 2 1 && at_ b 2 1 ≤ 12) then bad
    else { p with rings := p.rings ++ [(at_ b 0 2, at_ b 2 1, at_ b 3 1, at_ b 4 6)] }
  | 4 =>
    if n ≠ 8 || 511 < at_ b 0 2 || 1 < at_ b 2 1 || at_ b 3 1 ≠ 0 then bad
    else { p with quiets := p.quiets ++ [(at_ b 0 2, at_ b 2 1, BitVec.ofNat 32 (at_ b 4 4))] }
  | 5 =>
    if n ≠ 4 || 7 < at_ b 0 1 || !(1 ≤ at_ b 1 1 && at_ b 1 1 ≤ 12) || 527 < at_ b 2 2 then bad
    else { p with slots := p.slots ++ [(at_ b 0 1, at_ b 1 1, at_ b 2 2)] }
  | 6 =>
    let k := at_ b 1 1
    let items := (List.range k).map (fun i => at_ b (2 + 2 * i) 2)
    if n ≠ 2 + 2 * k || items.any (fun i => !itemOk s (at_ b 0 1) i) then bad else { p with claims := p.claims ++ [(at_ b 0 1, items)] }
  | _ => bad

/-! ### Grants -/

/-- True where a range of the field I/O ring or of the timers holds a register that a CID does not own (rule 6 of R241, R588, R634). -/
def coversUnowned (t : State) (cid lo n : Nat) : Bool :=
  let test := fun base words => overlaps lo n base (words * 4) && (List.range words).any (fun i =>
    overlaps lo n (base + 4 * i) 4 && registerOwner t (base + 4 * i) != some cid)
  test (blockBase 248) (blockLen 248 / 4) || test (Adr.tmrCtl 0) 512

/-- True where a range of the block or UIB of an index that only the SM, the session engine or the AON block has is covered, the timers
apart, which rule 6 watches (R241, R634). -/
def coversManaged (lo n : Nat) : Bool :=
  [242, 247, 249].any (fun i => overlaps lo n (uibBase i) 0x40) || overlaps lo n (blockBase 242) (blockLen 242) ||
    overlaps lo n (blockBase 247) (blockLen 247) || overlaps lo n (blockBase 249) (Adr.tmrCtl 0 - blockBase 249) ||
    overlaps lo n (Adr.tmrCtl 64) (blockBase 249 + blockLen 249 - Adr.tmrCtl 64)

/-- The rule of R506 that a grant entry of a CORE record breaks, 0 where it breaks none. `t` is the state with the image's claims made. -/
def grantRule (t : State) (cid : Nat) (priv : Bool) (slots : List (Nat × Nat × Nat)) (c : ImageCore) (g : Grant) : Nat :=
  let lead := decide (192 ≤ c.uib)
  let roles := (rolesOf (coreOfUib c.uib)).filter (fun r => g.mask.testBit (roleIn r))
  let lo := g.base
  let n := g.len
  let has := fun b => g.perm.toNat.testBit b
  let reserved := !(1 ≤ g.target && g.target ≤ 9) || (if lead then 4 else 16) ≤ g.mask || 2 ≤ g.flags
  if g.flags.testBit 0 then
    if g.perm ≠ 0x80 || lo = 0 || 0xFF < lo + n then 7 else if lead && g.target = 9 then 3 else if reserved then 8 else 0
  else
    let others := (List.range 136).filter (fun k => uibOfCore k != c.uib)
    let own := fun r => g.target == 9 && g.perm == 3 && recordBase r ≤ lo && lo + n ≤ recordBase r + 0x800
    let a := max lo (portBase 320)
    let b := min (lo + n) (portBase 332)
    let slotOk := roles.all (fun r => slots.any (fun x => x.2.2 == r && lo == set1Base + x.1 * 0x100)) && n == 0x100 && g.perm == 3
    if coversAbsent t lo n then 1
    else if overlaps lo n 0x4000000 0x100000 && !(roles.all own && !lead) then 2
    else if lead && g.target = 9 then 3
    else if (has permW || has permX) && others.any (fun k => overlaps lo n (homeBase ((rolesOf k).headD 0)) 0x4000) then 4
    else if has permW && has permDEV && coversManaged lo n then 5
    else if has permDEV && coversUnowned t cid lo n then 6
    else if has permSEAL then 7
    else if reserved then 8
    else if overlaps lo n set1Base 0x800 && !slotOk then 9
    else if a < b && (g.perm ≠ 0x20 || a / 4 ≠ (b - 1) / 4 || a % 0x40 ≥ 4) then 10
    else if !priv && has permCUE && overlaps lo n (portBase 332) 0x100 then 11
    else 0

/-- Ranges that any role but one, or a house block, holds W over (rule 12 of R506, R330). -/
def writtenRanges (s : State) (r : Nat) (imgs : List Image) : List (Nat × Nat) :=
  let all := imgs.flatMap (fun i => i.cores.flatMap (fun c =>
    (c.grants.filter (fun g => g.perm.toNat.testBit permW && !g.flags.testBit 0 &&
      (rolesOf (coreOfUib c.uib)).any (fun q => q != r && g.mask.testBit (roleIn q)))).map (fun g => (g.base, g.len))))
  let homes := (imgs.flatMap Image.roles).filter (· ≠ r) |>.map (fun q => (homeBase q, 0x4000))
  all ++ homes ++ [(set1Base, 0x800)] ++ smReserved s

/-- True for a quiet range that rule 12 refuses. -/
def quietBad (s : State) (imgs : List Image) (q : Nat × Nat × Word) : Bool :=
  let lo := bits q.2.2 13 0 * 0x1000
  let n := bits q.2.2 27 14 * 0x1000
  bit q.2.2 31 && (0x3400000 < lo + n || coversAbsent s lo n ||
    (writtenRanges s q.1 imgs).any (fun x => overlaps lo n x.1 x.2))

/-- True for a ring placement that breaks R289. -/
def ringBad (x : Nat × Nat × Nat × Nat) : Bool :=
  let c := companyOf x.1
  let n := 2 ^ x.2.2.1 * 16
  let lo := x.2.2.2
  !(4 ≤ x.2.2.1 && x.2.2.1 ≤ 12) || lo % 16 ≠ 0 ||
    !((lo / 0x20000 == (lo + n - 1) / 0x20000 && lo / 0x80000 == c) ||
      (0x1000000 + c * 0x400000 ≤ lo && lo + n ≤ 0x1300000 + c * 0x400000))

/-- The first rule of R506 that an image breaks: its detail code and bytes 2 and 3 of the response; none where it breaks none. -/
def grantsRefused (s : State) (img : Image) (priv : Bool) (claims : List (Nat × List Nat)) : Option (Nat × Nat) :=
  let t := claims.foldl (fun t c => (claimItems t img.cid c.1 c.2).1) s
  let grants := img.cores.flatMap (fun c => (List.range c.grants.length).filterMap (fun i =>
    (c.grants[i]?).map (fun g => (grantRule t img.cid priv img.slots c g, i))))
  match grants.find? (fun x => x.1 ≠ 0) with
  | some x => some (x.1 + x.2 * 256, 0xFFFF)
  | none =>
    let held := img.cores.any (fun c => c.grants.any (fun g => !g.flags.testBit 0 && g.perm.toNat.testBit permW &&
      (smReserved s).any (fun x => overlaps g.base g.len x.1 x.2)))
    if held then some (0xFF00, 0xFFFF)
    else if img.quiets.any (quietBad s (img :: s.sm.images)) then some (12 + 0xFF00, 0xFFFF)
    else if img.rings.any ringBad then some (13 + 0xFF00, 0xFFFF)
    else (claims.findSome? (fun c => c.2.findSome? (claimConflict s img.cid c.1))).map (fun owner => (14 + 0xFF00, owner))

/-! ### Loading -/

/-- How an image load ends: status, detail code, bytes 2 and 3 of a failure's payload, and the CID on success. -/
structure LoadEnd where
  status : Nat
  detail : Nat
  off : Nat
  cid : Nat
deriving DecidableEq, Repr

/-- A refusal of R532 with its detail. -/
def LoadEnd.bad (d : Nat) : LoadEnd := ⟨0x10, d, 0xFFFF, 0⟩

/-- The lowest CID that no image has (R238). -/
def freeCid (s : State) : Option Nat :=
  (List.range 0xFFE).findSome? (fun i => if s.sm.images.any (fun x => x.cid == i + 1) then none else some (i + 1))

/-- The image key of a KEYSEL in force since boot step 2 (R533, R534); none where it is not programmed. -/
def imageKey (s : State) (k : Nat) : Option (BitVec 256) :=
  if k = 0 then some Config.imageKey0
  else if 3 ≤ k then none
  else
    let v := leNat ((List.range 8).flatMap (fun i => leBytes 4 (Sparse.get (fun _ => 0) s.sm.ownerRead (8 * (k - 1) + i)).toNat))
    if v = 0 then none else some (BitVec.ofNat 256 v)

/-- Ones of a thermometer word. -/
def ones (w : Word) : Nat := ((List.range 32).filter (fun i => bit w i)).length

/-- The fused image rollback count in force (R534). -/
def imageRollback (s : State) : Nat := ones (Sparse.get (fun _ => 0) s.sm.ownerRead 19)

/-- Bytes that the SM writes to memory as itself. -/
def smStore (s : State) (a : Nat) (l : List Byte) : State :=
  writeMem (recallStores s none a l.length) none a l false

/-- Checks 1 to 5 of R532 on an image's header and records: the first that fails. -/
def headerRefused (s : State) (h : List Byte) (recs : Option (List RawRec)) : Option Nat :=
  if at_ h 0 4 ≠ 0x474D494F || at_ h 4 2 ≠ 1 || 1 < at_ h 6 2 || leNat ((h.drop 21).take 11) ≠ 0 then some 1
  else if at_ h 8 4 % 16 ≠ 0 || 0x1000000 < at_ h 8 4 || recs.isNone then some 2
  else
    match imageKey s (at_ h 20 1) with
    | none => some 3
    | some key =>
      if !Config.ed25519 key ((h.drop 64).take 64) (h.take 64) then some 4
      else if at_ h 12 4 < imageRollback s then some 5
      else none

/-- A verified image installed (R505, R531): its rings, quiet ranges, set 1 slots and claims. -/
def install (s : State) (img : Image) (claims : List (Nat × List Nat)) : State :=
  let s := { s with sm := { s.sm with images := img :: s.sm.images } }
  let s := claims.foldl (fun s c => (claimItems s img.cid c.1 c.2).1) s
  let s := img.rings.foldl (fun s x =>
    let r := x.1
    let l := x.2.1
    let c := companyOf r
    let i := companyIx r
    let s := writeDescriptor s r l (Adr.csBasel c i (l - 1)) (BitVec.ofNat 32 (x.2.2.2 % 2 ^ 32))
    writeDescriptor s r l (Adr.csCfg c i (l - 1)) (BitVec.ofNat 32 (x.2.2.2 / 2 ^ 32 + x.2.2.1 * 2 ^ 16 + 2 ^ 20))) s
  let s := img.quiets.foldl (fun s q => s.setReg (Adr.scnQr (troupeOf q.1) (troupeIx q.1) q.2.1) q.2.2) s
  img.slots.foldl (fun s x => s.setReg (Adr.mb1Own x.1) (BitVec.ofNat 32 (x.2.2 + x.2.1 * 2 ^ 12 + 2 ^ 16))) s

/-- A set 1 slot of an image that another image holds (R476, R495). -/
def slotTaken (s : State) (img : Image) : Option Nat :=
  img.slots.findSome? (fun x => (s.sm.images.find? (fun i => i.slots.any (fun y => y.1 == x.1))).map (fun i => i.cid))

/-- The checks of R532 in one pass over an image, with its segments written and, on a failure at check 6 or later, zeroed again. -/
def checkBody (s : State) (h data : List Byte) (recs : List RawRec) (warm priv : Bool) : State × LoadEnd :=
  let p := recs.foldl (addRec s) ⟨[], [], [], [], [], [], false⟩
  let cid := (freeCid s).getD 0
  let img : Image := ⟨cid, p.segs.map (fun x => (x.1, x.2.2.length)), p.cores, p.rings, p.quiets, p.slots, p.claims.flatMap (fun c => c.2.map (fun i => (c.1, i)))⟩
  let fits := p.segs.filter (fun x => segmentOk s x.1 x.2.2.length && !(warm && x.2.1))
  if cid = 0 then (s, ⟨0x12, 0, 0xFFFF, 0⟩)
  else if img.roles.any (fun r => (s.role r).started) then (s, ⟨0x0F, 0, 0xFFFF, 0⟩)
  else if fits.any (fun x => rangeError s x.1 x.2.2.length) then (s, ⟨0x14, 0, 0xFFFF, 0⟩)
  else
    let t := fits.foldl (fun s x => smStore s x.1 x.2.2) s
    let undo := fun e => (fits.foldl (fun s x => smStore s x.1 (List.replicate x.2.2.length 0)) t, e)
    if leBytes 32 (Config.sha256 data).toNat ≠ (h.drop 32).take 32 then undo (LoadEnd.bad 6)
    else if p.bad || p.segs.any (fun x => !segmentOk s x.1 x.2.2.length) then undo (LoadEnd.bad 7)
    else
      match grantsRefused t img priv p.claims, slotTaken t img with
      | some (d, o), _ => undo ⟨0x11, d, o, 0⟩
      | none, some owner => undo ⟨0x0F, owner, 0xFFFF, 0⟩
      | none, none => (install t img p.claims, ⟨0, 0, 0xFFFF, cid⟩)

/-- An image at an address is verified and installed (R505, R532). An error response ends the work (R495). -/
def loadImage (s : State) (a : Nat) (warm priv : Bool) : State × LoadEnd :=
  match readMem (recallLoads s none a 128) agentSm a 128 with
  | (s, .error _) => (s, ⟨0x14, 0, 0xFFFF, 0⟩)
  | (s, .ok h) =>
    let len := if at_ h 8 4 ≤ 0x1000000 then at_ h 8 4 else 0
    match readMem (recallLoads s none (a + 128) len) agentSm (a + 128) len with
    | (s, .error _) => (s, ⟨0x14, 0, 0xFFFF, 0⟩)
    | (s, .ok data) =>
      let recs := parseRecs (data.length / 16 + 1) data
      match headerRefused s h recs with
      | some d => (s, LoadEnd.bad d)
      | none => checkBody s h data (recs.getD []) warm priv

/-! ### Starting and stopping -/

/-- Image of a CID. -/
def imageOfCid (s : State) (cid : Nat) : Option Image := s.sm.images.find? (fun i => i.cid == cid)

/-- Roles of an image at or beneath a unit (R505); unit 0 stands for all. -/
def rolesAt (i : Image) (u : Nat) : List Nat := i.roles.filter (fun r => u == 0 || (uibChain (uibOf r)).contains u)

/-- Roles of an image start at vector 0, and the image becomes the one that carries them (R87, R505, R538). Started roles are left as they
are. -/
def startImage (s : State) (i : Image) (u kind : Nat) : State :=
  let s := { s with sm := { s.sm with images := i :: s.sm.images.filter (fun x => x.cid != i.cid) } }
  (rolesAt i u).foldl (fun s r => if (s.role r).started then s else startRole s r 0 kind) s

/-- An image is unloaded (R505): its claims, slots and CID are released, and routes that name its roles or pads lose EN. -/
def unloadImage (s : State) (i : Image) : State :=
  let pads := (List.range 192).filter (fun p => padCid s p == some i.cid)
  let s := clearRoutes s
    (fun t => (0x1000 ≤ t && i.roles.contains ((t - 0x1000) / 4)) || (0x200 ≤ t && t < 0x2C0 && pads.contains (t - 0x200)))
    (fun r => i.roles.contains r)
  let s := i.slots.foldl (fun s x => s.setReg (Adr.mb1Own x.1) 0) (releaseCid s i.cid)
  { s with sm := { s.sm with images := s.sm.images.filter (fun x => x.cid != i.cid) } }

end Sys2Proof.Machine
end

