-- ==== Sys2Proof/Machine/Drain.lean ====
section
/-! DEFINITION. The drain before a house watchdog reset and before a low house state (R523, R549): staged entries past the curtain point,
effects engines, posted stores, modified lead lines and the CXL write buffer. -/

namespace Sys2Proof.Machine

/-- True for a request that is a write. -/
def isWriteReq (q : CxlReq) : Bool :=
  match q.who with
  | .load _ | .dropped => false
  | _ => true

/-- Every write outstanding at a port completes. -/
def flushWrites (s : State) : State :=
  s.cxl.reqs.foldl (fun s e => match e.2 with
    | some q => if isWriteReq q then endReq s (e.1 / 512) (e.1 % 512) .ok else s
    | none => s) s

/-- An area drains its flipped entries, oldest first (R339). -/
def drainArea (s : State) (a : Nat) : State :=
  (List.range (s.staged a).length).foldl (fun s _ =>
    let l := s.staged a
    match l.find? (fun e => e.flipped) with
    | none => s
    | some e => drainEntry (flushWrites s) a e (l.erase e)) s

/-- A role's effects engine finishes as far as its targets let it (R345): a fire it waits behind is taken. -/
def drainEffects (s : State) (r : Nat) : State :=
  (List.range 128).foldl (fun s _ =>
    if !releasing s r then s
    else releaseEffect (if roleLatchFull s r then takeFire s (656 + r) else s) r) s

/-- The drain of R523. -/
def drainAll (s : State) : State :=
  let s := (List.range 10).foldl drainArea s
  let s := s.scenes.foldl (fun s e => drainEffects s e.1) s
  let s := (s.caches.filter (fun l => l.dirty)).foldl cleanLine s
  flushWrites s

end Sys2Proof.Machine
end

