-- ==== Sys2Proof/Machine/Boot.lean ====
section
/-! DEFINITION. Reset and boot (R519 to R538, R651, R654): what each source clears and keeps, the boot steps, the boot directory and the
overlay (R468, R469). -/

namespace Sys2Proof.Machine

/-! ### What a reset clears -/

/-- What the fuses behind the stage manager hold (R533). -/
def fuses (a : Sm) : Sm :=
  { Sm.reset with
    keys := a.keys, patches := a.patches, ovlRollback := a.ovlRollback, debugDis := a.debugDis, ownerFuse := a.ownerFuse
    records := a.records }

/-- What the fuses and the AON block hold through a reset (R518, R519, R521, R561). -/
def fusesAndAon (a : Sm) : Sm :=
  { fuses a with
    lockouts := a.lockouts, timeOff := a.timeOff, timeUnset := a.timeUnset, alarm := a.alarm, cxlNext := a.cxlNext
    mirrorRec := a.mirrorRec, faultTimes := a.faultTimes, walkNext := a.walkNext }

/-- Registers that every reset but AON power-on leaves: those of fuses and AON (R363, R376 to R378, R478, R536, R537, R568 to R570), the
decoders, which bring-up commits again (R404), and CXL_CFG (R403). -/
def survives (a : Nat) : Bool :=
  keptReg a || a == Adr.smIdle || a == Adr.cxlCfg || (Adr.hwdStat ≤ a && a < Adr.tmrCtl 0) ||
    (Adr.pmTarget ≤ a && a < blockBase 249 + blockLen 249) ||
    (List.range 2).any (fun p => Adr.hdmMap p 0 ≤ a && a < Adr.hdmMap p 4)

/-- The MEC counters, and the AON block's metronome and timers, which a reset other than PORST_N leaves (R519, R521). -/
def survivesWarm (a : Nat) : Bool :=
  survives a || (blockBase 249 ≤ a && a < blockBase 249 + blockLen 249) ||
    (Adr.mecCnt 0 ≤ a && a < Adr.mecCnt 192) || (Adr.mecLast 0 ≤ a && a < Adr.mecLast 192)

/-- The registers after a reset, those kept as they were; a pad's latch and its pin level stay (R524). -/
def resetRegs (s t : State) (keep : Nat → Bool) : State :=
  let t := { t with regs := s.regs.filter (fun e => keep e.1 && e.1 != Adr.fuseCtl) }
  (List.range 192).foldl (fun t p => t.setField (Adr.padCtl p) 6 5 (s.field (Adr.padCtl p) 6 5)) t

/-- Memory after a reset: what a CXL device holds stays. -/
def resetMem (s t : State) (sram : Bool) : State :=
  let keep := fun a => sram || 2 ^ 48 ≤ a
  { t with
    mem := s.mem.filter (fun e => keep e.1), tags := s.tags.filter (fun e => keep (e.1 * 16))
    tagBad := s.tagBad.filter (fun e => keep (e.1 * 16)), cw := s.cw.filter (fun e => keep (e.1 * 8)) }

/-- The writes in the CXL write buffer are lost (R519): what their lines hold on the devices is a free value. -/
def loseWrites (s : State) : State :=
  s.cxl.reqs.foldl (fun s e => match e.2 with
    | some q =>
      let p := e.1 / 512
      if isWriteReq q then
        match dpaOf s p (winOf q.addr) (winOff q.addr) with
        | some d => [0, 1].foldl (fun s i =>
          let (s, v) := s.fresh
          setNatAt s (dpaKey p d + 32 * i) 32 v.toNat (2 ^ 32 - 1)) s
        | none => s
      else s
    | none => s) s

/-- What stays outside the parts a reset clears: the queue, the pins, supplies and clocks, the pad latch, the TAP. -/
def resetBase (s : State) : State :=
  { State.reset with
    pending := s.pending, freeNext := s.freeNext, vioOff := s.vioOff, padLatch := s.padLatch
    cxl := { CxlSt.reset with pfail := s.cxl.pfail, pfailAt := s.cxl.pfailAt }
    time := { State.reset.time with xtal := s.time.xtal, refclk := s.time.refclk }
    tap := { s.tap with status := 0, addr := 0, data := 0, errcode := 0, qtags := 0, qempty := false, qunfilled := false, addrl := 0, addrh := 0 }
    boot := { Boot.reset with porst := s.boot.porst, brown := s.boot.brown, brownLow := s.boot.brownLow } }

/-- RST_CAUSE after a reset of a source (R519, R536): LAST, its SEEN flag and the count. -/
def noteReset (s : State) (src : Nat) : State :=
  let a := Adr.rstCause
  let s := (s.setField a 2 0 src).setFlag a (4 + src) true
  s.incField a 31 16

/-- The pads are latched, and cores, roles, SRAM, links and the SM are reset (R519, R524). `src` is 1 PORST_N or 2 brownout. -/
def resetPart (s : State) (src : Nat) : State :=
  let s := loseWrites (latchPads s)
  let cold := src = 1
  let t := resetMem s (resetRegs s (resetBase s) (if cold then survives else survivesWarm)) false
  let t := { t with
    metro := s.metro, sm := { fusesAndAon s.sm with vid := s.sm.vid, vidTarget := s.sm.vid }
    log := if cold then State.reset.log else s.log
    time := if cold then t.time else s.time }
  let t := [0, 1].foldl (fun t p => [0, 1, 2, 3].foldl (fun t n => t.setFlag (Adr.hdmCtl p n) 15 false) t) t
  noteReset (t.setField Adr.cxlCfg 10 8 2) src

/-! ### AON power-on, PORST_N and brownouts -/

/-- AON_POWER_ON (R519, R490, R651): everything but the fuses and what stands outside the part is as after reset, and every key slot that
is not empty is locked. -/
def execAonPowerOn (s : State) : Host.Outcome State Fault Refusal :=
  let s := loseWrites s
  let t := resetMem s (resetBase s) false
  let t := { t with
    regs := s.regs.filter (fun e => keptReg e.1 && e.1 != Adr.rstCause), padLatch := []
    sm := fuses s.sm, boot := { Boot.reset with brown := s.boot.brown } }
  .next ((List.range 8).foldl (fun t k =>
    if (Sparse.get (fun _ => (⟨0, 0⟩ : KeySlot)) t.sm.keys k).code = 0 then t
    else { t with sm := { t.sm with lockouts := Sparse.put (fun _ => ⟨0, 0, 0⟩) t.sm.lockouts k ⟨0, 6, 60⟩ } }) t)

/-- PORST_ASSERT (R519, R520): the time of day takes over the count, which restarts at 0. -/
def execPorstAssert (s : State) : Host.Outcome State Fault Refusal :=
  .next (if s.boot.porst then s
    else
      let tod := s.sm.timeOff + s.metro.setWidth 64
      let t := resetPart s 1
      { t with metro := 0, sm := { t.sm with timeOff := tod, vid := 30, vidTarget := 30, walkNext := none }, boot := { t.boot with porst := true } })

/-- BROWNOUT (R519, R563): VCORE, VSRAM, VCXL 0.85 V or VCXL 1.2 V. VSRAM is watched in every state, the others in RUN and NAP. Where
PORST_N is low as well, the greater reach applies. -/
def execBrownout (src : Fin 4) (s : State) : Host.Outcome State Fault Refusal :=
  .next (if s.boot.brown ≠ 0 || (src.val ≠ 1 && 1 < houseNow s) then s
    else
      let b := { s.boot with brown := src.val + 1, brownLow := decide (1 < houseNow s) }
      let s := { s with boot := b }.setField Adr.rstCause 10 8 (src.val + 1)
      if s.boot.porst then s.setFlag Adr.rstCause 6 true else resetPart s 2)

/-! ### Steps 1 and 2 -/

/-- The safe state of a pad by its fuse code (R525). -/
def safePad (code : Nat) : PadShow :=
  match code with
  | 1 => ⟨false, true, 0⟩
  | 2 => ⟨true, true, 0⟩
  | 3 => ⟨false, false, 2⟩
  | _ => PadShow.hiz

/-- Every pad that no latch holds takes its safe state, and the latch holds it (R525). -/
def safePads (s : State) : State :=
  (List.range 192).foldl (fun s p =>
    if s.flag (Adr.padCtl p) 6 then s
    else latchPad s p (safePad (bits (Sparse.get (fun _ => 0) s.sm.ownerRead (20 + p / 16)) (2 * (p % 16) + 1) (2 * (p % 16))))) s

/-- True where field record n is revoked (R380). -/
def revoked (s : State) (n : Nat) : Bool := s.sm.records.any (fun e => e.1 == 15 && e.2 == n)

/-- A revoked retirement (R380): a player core becomes its troupe's understudy where that place is free; a lead is free again. -/
def revokeRecord (s : State) (n : Nat) : State :=
  match revoked s n, s.sm.records[n]? with
  | true, some (2, b) =>
    let t := b % 32
    if (freeSlot s t).isSome then s else s.setFlag (Adr.tmap t) (16 + b / 32) false
  | true, some (3, p) => s.setFlag Adr.lmap (16 + p) false
  | _, _ => s

/-- The repair table as its fuse records give it (R378, R380): entries without one are gone. -/
def loadRepairs (s : State) : State :=
  let s := (List.range 32).foldl (fun s n =>
    if s.field (Adr.repEntry n) 23 22 = 3 then s else s.setReg (Adr.repEntry n) 0) s
  let used := ((List.range 32).filter (fun n => s.field (Adr.repEntry n) 23 22 == 3)).length
  s.setReg Adr.repStat (BitVec.ofNat 32 (used + s.sm.records.length * 2 ^ 8 +
    if s.sm.records.any (fun e => e.1 == 0) then 2 ^ 17 else 0))

/-- Domains and gates ON as after PORST_N (R568): the spares that carry are ON, the others OFF. -/
def powerUp (s : State) : State :=
  let set := fun s d v => setPowTab (setDomState (setDomSet s d v) d v) d v
  let s := (List.range 66).foldl (fun s d =>
    set s d (if d = 48 || d = 49 then (if (carriedBy s (168 + (d - 48))).isSome then 0 else 2) else 0)) s
  (List.range 160).foldl (fun s n =>
    setGate s (n / 5) (n % 5) (if (carriedBy s n).isSome || (n % 5 ≠ 4 && !s.flag (Adr.tmap (n / 5)) (16 + n % 5)) then 0 else 2)) s

/-- True where a patch unit is fused (R467). -/
def patched (s : State) : Bool := s.sm.patches.any (fun e => e.2.isSome)

/-- SM_STAT.LAYER and OVLVER as the firmware that runs gives them (R467, R469). -/
def setLayer (s : State) : State :=
  match s.sm.overlay with
  | some (v, _) => (s.setField Adr.smStat 1 0 2).setField Adr.smStat 31 16 (v.toNat % 2 ^ 16)
  | none => (s.setField Adr.smStat 1 0 (if patched s then 1 else 0)).setField Adr.smStat 31 16 0

/-- The registers of CXL_CFG that CXL_CONFIG recorded for PORST_N (R403, R507). -/
def applyCxlNext (s : State) : State :=
  match s.sm.cxlNext with
  | some (mode, spd, winc, ide) => (s.setField Adr.cxlCfg 6 0 (mode + spd * 4 + winc * 16 + ide * 64))
  | none => s

/-- Step 2 (R527): the fuses are read, the pads safe, the domains ON; bring-up starts (R404 step 1). -/
def bootStep2 (s : State) : State :=
  let s := { s with sm := { s.sm with ownerRead := s.sm.ownerFuse } }
  let s := (List.range 128).foldl revokeRecord s
  let s := setLayer (powerUp (safePads (loadRepairs s)))
  let s := s.setField Adr.bootStat 2 0 2
  { s with boot := { s.boot with perst := if portExists s 1 then 0 else if portExists s 0 then 2 else 3, hwdAt := s.metro } }

/-- The boot begins (R527): step 1 is done, and step 2 waits for REFCLK (R654). -/
def beginBoot (s : State) : State :=
  let s := ((s.setReg Adr.bootStat 0xFFFF0001).setReg Adr.bootFail 0).setField Adr.pmStat 3 0 0
  let s := (List.range 64).foldl (fun s d => s.setReg (Adr.xcStat d) 1) s
  let s := stopClocks { s with boot := { s.boot with since := some s.metro, dirRead := false, todo := [], resume := [] } } 0
  if s.time.refclk then bootStep2 s else s

/-- PORST_RELEASE (R527): a supply that is still out of range holds the part in reset. -/
def execPorstRelease (s : State) : Host.Outcome State Fault Refusal :=
  .next (if !s.boot.porst then s
    else
      let s := applyCxlNext { s with boot := { s.boot with porst := false } }
      if s.boot.brown ≠ 0 then s else beginBoot s)

/-- BROWNOUT_RECOVERY (R519, R563): a brownout that began outside RUN and NAP is recorded as wake source 6. -/
def execBrownoutRecovery (s : State) : Host.Outcome State Fault Refusal :=
  .next (if s.boot.brown = 0 then s
    else
      let s := if s.boot.brownLow then startWake s 6 s.boot.brown else s
      let s := { s with boot := { s.boot with brown := 0, brownLow := false }, sm := { s.sm with wakeDue := false } }
      if s.boot.porst then s else beginBoot s)

/-! ### The house watchdog -/

/-- READY (R527, R475): commands are accepted. -/
def setReady (s : State) : State := (s.setFlag Adr.smStat 2 true).setField Adr.bootStat 2 0 3

/-- Registers that a house watchdog reset leaves: those of a warm reset and the CXL controller's (R523). -/
def survivesHwd (a : Nat) : Bool := survivesWarm a || (blockBase 243 ≤ a && a < blockBase 243 + blockLen 243)

/-- What a house watchdog reset keeps beside registers and SRAM. -/
def hwdKept (s t : State) : State :=
  let sm := { fusesAndAon s.sm with vid := s.sm.vid, vidTarget := s.sm.vid }
  let t := { t with metro := s.metro, log := s.log, time := s.time, fixQ := s.fixQ }
  { t with cxl := { s.cxl with reqs := [] }, sm := sm }

/-- PERST as it was. -/
def keepPerst (t : State) (p : Nat) : State := { t with boot := { t.boot with perst := p } }

/-- A house watchdog reset (R519, R522, R523, R527): after the drain cores, roles and the SM are reset, SRAM and the links stay, and step 3
is skipped. -/
def hwdReset (s : State) : State :=
  let s := latchPads (drainAll (s.incField Adr.hwdStat 23 16))
  let t := hwdKept s (resetMem s (resetRegs s (resetBase s) survivesHwd) true)
  let t := keepPerst (beginBoot (noteReset t 3)) s.boot.perst
  if 2 ≤ t.field Adr.bootStat 2 0 then setReady t else t

/-- True while the house watchdog counts (R522, R545). -/
def hwdCounts (s : State) : Bool :=
  !s.flag Adr.hwdStat 8 && 2 ≤ s.field Adr.bootStat 2 0 && !s.boot.porst && s.boot.brown = 0 && houseNow s ≠ 5

/-- HOUSE_WATCHDOG_EXPIRY. -/
def execHouseWatchdogExpiry (s : State) : Host.Outcome State Fault Refusal := .next (if hwdCounts s then hwdReset s else s)

/-- HOUSE_WATCHDOG_SERVICE (R522): a full period begins. -/
def execHouseWatchdogService (s : State) : Host.Outcome State Fault Refusal :=
  .next { s with boot := { s.boot with hwdAt := s.metro } }

/-- SRAM_BIST_DONE: step 3 ends (R527). Its arrays were zeroed, with valid codes and clear tags, when they were reset. -/
def execSramBistDone (s : State) : Host.Outcome State Fault Refusal :=
  .next (if s.field Adr.bootStat 2 0 = 2 && !s.boot.porst && s.boot.brown = 0 && houseNow s = 0 then setReady s else s)

/-- REFCLK_RETURN (R654): a boot that waits at step 2 goes on; in a running part NOTICE 0x5A is sent, and each clock comes back by
CLOCK_RESUME. -/
def execRefclkReturn (s : State) : Host.Outcome State Fault Refusal :=
  .next (if s.time.refclk then s
    else
      let s := { s with time := { s.time with refclk := true } }
      if s.boot.porst || s.boot.brown ≠ 0 then s
      else if s.field Adr.bootStat 2 0 = 1 then
        bootStep2 ((List.range 64).foldl (fun s d => s.setFlag (Adr.xcStat d) 0 true) s)
      else if s.flag Adr.smStat 2 then notice s 242 0x5A []
      else s)

/-! ### The overlay -/

/-- The check of R469 that an overlay image at an address fails, 1 to 5; or its version and rollback count. An image that cannot be read
fails the first check. -/
def checkOverlay (s : State) (a : Nat) : State × Except Nat (Word × Nat) :=
  match readMem (recallLoads s none a 128) agentSm a 128 with
  | (s, .error _) => (s, .error 1)
  | (s, .ok h) =>
    let len := at_ h 4 4
    if at_ h 0 4 ≠ 0x564F4D53 then (s, .error 1)
    else if len < 4 || 262144 < len || len % 4 ≠ 0 || 0x40000 < at_ h 8 4 + len then (s, .error 2)
    else
      match readMem (recallLoads s none (a + 128) len) agentSm (a + 128) len with
      | (s, .error _) => (s, .error 3)
      | (s, .ok body) =>
        if leBytes 32 (Config.sha256 body).toNat ≠ (h.drop 32).take 32 then (s, .error 3)
        else if !Config.ed25519 Config.overlayKey ((h.drop 64).take 64) (h.take 64) then (s, .error 4)
        else if at_ h 12 4 < s.sm.ovlRollback then (s, .error 5)
        else (s, .ok (BitVec.ofNat 32 (at_ h 16 4), at_ h 12 4))

/-- A refused overlay (R469): the SM stays on ROM and patches, and sends NOTICE 0x54. -/
def refuseOverlay (s : State) (check : Nat) : State :=
  let s := setLayer { s with sm := { s.sm with overlayRefused := true } }
  notice s 242 0x54 (leBytes 1 check)

/-- The overlay entry of the directory (R530). -/
def bootOverlay (s : State) (a : Nat) : State :=
  match checkOverlay s a with
  | (s, .error k) => refuseOverlay s k
  | (s, .ok o) => setLayer { s with sm := { s.sm with overlay := some o } }

/-! ### The boot directory -/

/-- A directory entry of R530: number, address, kind, flags. -/
def dirEntry (b : List Byte) (i : Nat) : Nat × Nat × Nat × Nat := (i, at_ b (16 + 16 * i) 6, at_ b (22 + 16 * i) 1, at_ b (23 + 16 * i) 1)

/-- A bad directory (R530): DIRBAD and NOTICE 0x58, whose other bytes the manual leaves open. -/
def dirBad (s : State) : State :=
  let (s, v) := s.fresh
  notice (s.setFlag Adr.bootStat 3 true) 242 0x58 (leBytes 7 v.toNat)

/-- A refused entry (R532): BOOT_FAIL and NOTICE 0x58. -/
def bootFails (s : State) (i status detail : Nat) : State :=
  notice (s.setFlag Adr.bootFail i true) 242 0x58 (leBytes 1 i ++ leBytes 2 status ++ leBytes 2 detail)

/-- One image of the directory is verified, and its roles started where its flags ask (R527 steps 5 and 6). -/
def bootImage (s : State) (e : Nat × Nat × Nat) : State :=
  let f := e.2.2
  let (s, l) := loadImage s e.2.1 (f.testBit 2) (f.testBit 3)
  if l.status ≠ 0 then bootFails s e.1 l.status l.detail
  else if !f.testBit 0 then s
  else
    match imageOfCid s l.cid with
    | some i => (startImage s i 0 (if f.testBit 2 then 1 else 0)).incField Adr.bootStat 15 8
    | none => s

/-- True for an address that boot can read an image at. -/
def bootReadable (s : State) (a : Nat) : Bool :=
  match regionOf a with
  | .cxl w => winOpen s w
  | _ => true

/-- True for an image whose header is EARLY (R529). -/
def isEarly (s : State) (a : Nat) : Bool := (peekMem s (a + 6) 2).testBit 0

/-- Images whose place can be read are loaded: EARLY ones first, then the others, in directory order (R529). -/
def bootImages (s : State) : State :=
  let now := s.boot.todo.filter (fun e => bootReadable s e.2.1)
  let order := now.filter (fun e => isEarly s e.2.1) ++ now.filter (fun e => !isEarly s e.2.1)
  order.foldl bootImage { s with boot := { s.boot with todo := s.boot.todo.filter (fun e => !bootReadable s e.2.1) } }

/-- The directory is read (R530): the first enabled overlay entry at once, the enabled images to be loaded. -/
def readDirectory (s : State) (w : Nat) : State :=
  let off := bits (Sparse.get (fun _ => 0) s.sm.ownerRead 17) 27 0 * 0x1000
  let s := { s with boot := { s.boot with dirRead := true } }
  let a := (w + 1) * 2 ^ 40 + off
  match readMem (recallLoads s none a 4096) agentSm a 4096 with
  | (s, .error _) => dirBad s
  | (s, .ok b) =>
    let n := at_ b 4 1
    if at_ b 0 4 ≠ 0x52494442 || 16 < n then dirBad s
    else
      let es := ((List.range n).map (dirEntry b)).filter (fun e => e.2.2.2.testBit 1)
      let s := match es.find? (fun e => e.2.2.1 == 1) with
        | some e => bootOverlay s e.2.1
        | none => s
      let s := (es.filter (fun e => 2 ≤ e.2.2.1)).foldl (fun s e => bootFails s e.1 0x0C 0) s
      { s with boot := { s.boot with todo := (es.filter (fun e => e.2.2.1 == 0)).map (fun e => (e.1, e.2.1, e.2.2.2)) } }

/-- True where a register that the SM rewrites waits for a CXL window: EN of a compressor whose context table lies there, or of a block
ring there (R553). -/
def rebuildWaits (s : State) (a : Nat) : Bool :=
  [0, 1].any (fun h => (a == Adr.hcCtl h && !bootReadable s (ctxBase s h)) ||
    [0, 1, 2, 3].any (fun n => a == Adr.rngCfg h n && !bootReadable s (hcRingBase s h n)))

/-- The SM rewrites a register that it recorded at the entry to KEEP (R553): a compressor or ring with EN set starts. -/
def rebuildReg (s : State) (e : Nat × Word) : State :=
  match [(0, 0), (0, 1), (0, 2), (0, 3), (1, 0), (1, 1), (1, 2), (1, 3)].find? (fun (x : Nat × Nat) => e.1 == Adr.rngCfg x.1 x.2) with
  | some x =>
    let s := s.setReg e.1 (setBit e.2 22 false)
    if bit e.2 22 then ringEnable s x.1 x.2 else s
  | none => s.setReg e.1 e.2

/-- The recorded registers whose place can be reached are rewritten. -/
def rebuild (s : State) : State :=
  let now := s.sm.keepRegs.filter (fun e => !rebuildWaits s e.1)
  now.foldl rebuildReg { s with sm := { s.sm with keepRegs := s.sm.keepRegs.filter (fun e => rebuildWaits s e.1) } }

/-- Roles of an exit from KEEP start once every window of their image is READY (R553). -/
def resumeRoles (s : State) : State :=
  let ready := fun r => match imageOf s r with
    | some (i, _) => i.segs.all (fun g => bootReadable s g.1)
    | none => true
  (s.boot.resume.filter ready).foldl (fun s r => startRole s r 0 2) { s with boot := { s.boot with resume := s.boot.resume.filter (fun r => !ready r) } }

/-- A window is READY while the SM runs (R527 steps 4 to 6, R553). -/
def windowReady (s : State) (w : Nat) : State :=
  if !s.flag Adr.smStat 2 || !winOpen s w || houseNow s ≠ 0 then s
  else
    let s := if s.field Adr.bootStat 2 0 < 4 then s.setField Adr.bootStat 2 0 4 else s
    let cfg := Sparse.get (fun _ => 0) s.sm.ownerRead 16
    let s := if !s.boot.dirRead && bits cfg 1 0 ≠ 1 && bits cfg 3 2 = w then readDirectory s w else s
    let s := resumeRoles (bootImages (rebuild s))
    if s.boot.dirRead && s.boot.todo.isEmpty then s.setField Adr.bootStat 2 0 6 else s

/-- WINDOW_READY_BOOT. -/
def execWindowReadyBoot (w : Fin 3) (s : State) : Host.Outcome State Fault Refusal := .next (windowReady s w.val)

end Sys2Proof.Machine
end

