-- ==== Sys2Proof/Machine/Writes.lean ====
section
/-! DEFINITION. Commands that write registers (R10, R294, R299, R285, R319), the fuse programmer (R535), the troupe watchdogs (R621), and
writes held for stopped clocks (R583, R585, R654). -/

namespace Sys2Proof.Machine

/-- A write reaches a word of the device region: an unpowered one draws an error response (R542), a stopped clock holds it (R583), and a
crossing that holds a write already takes no second one. -/
def arriveWrite (s : State) (a : Agent) (adr : Nat) (v : Word) : State :=
  if storeError s adr then
    match a with
    | .role r _ => lateError s r.val 1 adr none none
    | _ => s
  else if clockOn s adr then devWrite s a adr v
  else
    match clockDom adr with
    | none => s
    | some d =>
      if (Sparse.get (fun _ => none) s.heldW d).isSome then s
      else
        let r := match a with
          | .role r _ => r.val
          | _ => 0
        { s with heldW := Sparse.put (fun _ => none) s.heldW d (some ⟨a, adr, v, r, (s.role r).pc⟩) }.setFlag (Adr.xcStat d) 1 true

/-- REGISTER_WRITE: a whole word of a UIB or register block (R10, R23). -/
def execRegisterWrite (a : Agent) (addr : Addr) (v : Word) (s : State) : Host.Outcome State Fault Refusal :=
  .next (if isDevice addr.toNat && addr.toNat % 4 = 0 then arriveWrite s a addr.toNat v else s)

/-- CS_CONS_WRITE (R294). -/
def execCsConsWrite (r : RoleId) (level : Fin 12) (v : Word) (s : State) : Host.Outcome State Fault Refusal :=
  .next (if storeError s (Adr.csCons (companyOf r.val) (companyIx r.val) level.val) then s else writeCons s r.val (level.val + 1) v)

/-- CS_DESCRIPTOR_WRITE (R299). -/
def execCsDescriptorWrite (a : Agent) (r : RoleId) (level : Fin 12) (cfg : Bool) (v : Word) (s : State) :
    Host.Outcome State Fault Refusal :=
  let c := companyOf r.val
  let i := companyIx r.val
  let adr := if cfg then Adr.csCfg c i level.val else Adr.csBasel c i level.val
  .next (if storeError s adr then s else devWrite s a adr v)

/-- CROSSBAR_ROUTE_WRITE (R285): CH_SRC, CH_CS or one of the four CH_RT of a channel. -/
def execCrossbarRouteWrite (a : Agent) (ch : Fin 1024) (reg : Fin 6) (v : Word) (s : State) : Host.Outcome State Fault Refusal :=
  .next (if domOn s 51 then devWrite s a (Adr.chSrc ch.val + 4 * reg.val) v else s)

/-- QUEUE_FLUSH (R319). -/
def execQueueFlush (q : QueueId) (s : State) : Host.Outcome State Fault Refusal :=
  .next (if domOn s (queueDomain q.val) then flushQueue s q.val else s)

/-! ### Fuses -/

/-- The fused owner word. -/
def ownerWord (s : State) (n : Nat) : Word := Sparse.get (fun _ => 0) s.sm.ownerFuse n

/-- FUSE_PROGRAM: GO (R535). -/
def execFuseProgram (s : State) : Host.Outcome State Fault Refusal :=
  .next (if domOn s 64 then writeFuseCtl s (s.reg Adr.fuseCtl) 1 else s)

/-- Programming ends (R535): bits are set, never cleared; where a bit fails to read back, which bits were set is a free value. -/
def fuseDone (s : State) (ok : Bool) : State :=
  if !s.flag Adr.fuseCtl 1 then s
  else
    let n := s.field Adr.fuseAddr 5 0
    let (s, v) := s.fresh
    let d := s.reg Adr.fuseData &&& (if ok then 0xFFFFFFFF else BitVec.ofNat 32 v.toNat)
    let s := { s with sm := { s.sm with ownerFuse := Sparse.put (fun _ => 0) s.sm.ownerFuse n (ownerWord s n ||| d) } }
    let s := s.setFlag Adr.fuseCtl 1 false
    if ok then s else s.setFlag Adr.fuseCtl 2 true

/-- FUSE_PROGRAM_DONE. -/
def execFuseProgramDone (ok : Bool) (s : State) : Host.Outcome State Fault Refusal := .next (fuseDone s ok)

/-! ### Troupe watchdogs -/

/-- WATCHDOG_SERVICE (R621). -/
def execWatchdogService (core : Fin 128) (s : State) : Host.Outcome State Fault Refusal :=
  .next (if domOn s (core.val / 4) then writeTwdSvc s (core.val / 4) (core.val % 4) else s)

/-- A running counter expires (R621): the event's payload is a free value, as the manual gives it none. -/
def watchdogExpire (s : State) (l : Nat) : State :=
  let a := Adr.twdStat (l / 4) (l % 4)
  if !s.flag (Adr.twdCtl (l / 4) (l % 4)) 16 || s.flag a 16 || !domOn s (l / 4) then s
  else
    let s := raiseFault s (64 + l) 9 1 0 none
    let s := writeTwdSvc (s.incField a 31 24) (l / 4) (l % 4)
    let (s, v) := s.fresh
    raiseEvent s (0x420 + l / 4) 0 (leBytes 6 v.toNat) none

/-- TROUPE_WATCHDOG_EXPIRY. -/
def execTroupeWatchdogExpiry (core : Fin 128) (s : State) : Host.Outcome State Fault Refusal := .next (watchdogExpire s core.val)

/-! ### Clocks -/

/-- A clock domain runs again (R583): what its crossing held is captured. PFAIL_N in NAP restarts those of CXL (R567). -/
def resumeClock (s : State) (d : Nat) : State :=
  let flush := houseNow s == 1 && s.cxl.pfail && decide (4 ≤ d) && decide (d ≤ 14)
  if s.flag (Adr.xcStat d) 0 || !(clockInState (houseNow s) d || flush) || (fromRefclk d && !s.time.refclk) then s
  else
    let s := (s.setFlag (Adr.xcStat d) 0 true).setFlag (Adr.xcStat d) 2 false
    match Sparse.get (fun _ => none) s.heldW d with
    | none => s
    | some w =>
      let s := { s with heldW := Sparse.put (fun _ => none) s.heldW d none }.setFlag (Adr.xcStat d) 1 false
      devWrite s w.by_ w.addr w.value

/-- CLOCK_RESUME. -/
def execClockResume (d : Fin 64) (s : State) : Host.Outcome State Fault Refusal := .next (resumeClock s d.val)

end Sys2Proof.Machine
end

