-- ==== Sys2Proof/Machine/House.lean ====
section
/-! DEFINITION. Changes of house state (R544 to R557, R629 to R631): the entry that the stage manager begins and the power controller ends,
NAP, the exits, walk-through scans and the comparison of power tables (R636). -/

namespace Sys2Proof.Machine

/-! ### What each state sets -/

/-- Setting of a domain in KEEP (2), KEEP-ALL (3), WALK-THROUGH (4) or OFF (5) (R544). -/
def stateSetting (t d : Nat) : Nat :=
  if d < 40 || d = 50 then (if t = 2 then 3 else if t = 3 then 1 else 2)
  else if d = 52 then (if t = 2 || t = 3 then 1 else if t = 4 then 3 else 2)
  else if d = 53 || d = 55 || d = 56 || d = 63 || d = 64 then 2
  else if d = 65 then (if t = 5 then 2 else 0)
  else if t = 3 then 1
  else 2

/-- Sessions, pending opens and every unlock end (R486, R608). -/
def dbtLeaves (s : State) : State :=
  let s := { s with sm := { s.sm with unlocked := [] } }
  (s.roles.foldl (fun s e => s.modRole e.1 (fun x => { x with dbt := Ticket.null })) s).setFlag Adr.hwdStat 8 false

/-- Every session ends (R486). -/
def endSessions (s : State) : State := dbtLeaves { s with sm := { s.sm with sessions := [], opens := [] } }

/-! ### Entry: the stage manager's side -/

/-- Roles that the entry stops: started, not dark and not frozen already. -/
def liveRoles (s : State) : List Nat :=
  (s.roles.filter (fun e => e.2.started && !e.2.frozen && !coreDark s (coreOf e.1))).map (fun e => e.1)

/-- A role stops at the entry (R549 step 2, R629): long operations in flight retire, other work is abandoned, posted stores drain. -/
def sleepRole (s : State) (r : Nat) : State :=
  let s := (s.role r).longOps.foldl (fun s o => retireLong s r o) s
  (drainPosted (abandonWork s r 1).1 r).modRole r (fun x => { x with frozen := true, fetchQ := [] })

/-- A compressor drains to its end (R457). -/
def drainHc (s : State) (h : Nat) : State :=
  if !hcOn s h then s
  else
    let s := (List.range 256).foldl (fun s _ =>
      if (hcOf s h).queue.isEmpty then s else hcProgress (closeSteps (flushWrites s) h 4) h) (hcDrain s h)
    hcProgress (flushWrites s) h

/-- The links go down after both phases of the flush, and both fundamental resets are asserted (R549 step 3). -/
def linksOff (s : State) : State :=
  let s := if linkUp s 0 || linkUp s 1 then s.setFlag Adr.cxlGpf 1 true else s
  let s := [0, 1].foldl quietDown s
  { s with boot := { s.boot with perst := 3 } }

/-- Registers that the stage manager records for the exit (R553, R554). -/
def recordAdrs (s : State) (t : Nat) : List Nat :=
  let policy := [Adr.scrubCtl, Adr.shdCfg 0, Adr.shdCfg 1, Adr.shdCfg 2, Adr.smNote, Adr.smDarkpol, Adr.cxLooprpt]
  if t = 4 then policy
  else if t = 2 then
    (List.range 32).map Adr.scnCast ++ policy ++ s.sm.regWritten ++
      s.sm.images.flatMap (fun i =>
        i.rings.flatMap (fun x =>
          let c := companyOf x.1
          [Adr.csBasel c (companyIx x.1) (x.2.1 - 1), Adr.csCfg c (companyIx x.1) (x.2.1 - 1)]) ++
        i.quiets.map (fun q => Adr.scnQr (troupeOf q.1) (troupeIx q.1) q.2.1)) ++
      (List.range 192).map Adr.padOwn ++ [Adr.serRoute 16, Adr.serRoute 17]
  else []

/-- What a recorded register takes back: of HC_CTL only EN. -/
def recordWord (s : State) (a : Nat) : Word :=
  if a = Adr.hcCtl 0 || a = Adr.hcCtl 1 then s.reg a &&& 1 else s.reg a

/-- The configuration is recorded (R549 step 4). -/
def recordConfig (s : State) (t : Nat) : State :=
  { s with sm := { s.sm with keepRegs := (recordAdrs s t).map (fun a => (a, recordWord s a)) } }

/-- WT registers of a WALK_CONFIG block (R505, R570). -/
def walkRegs (s : State) (b : List Byte) : State :=
  let s := s.setReg Adr.wtPeriod (BitVec.ofNat 32 (at_ b 0 4))
  let s := s.setReg Adr.wtCtl (BitVec.ofNat 32 (at_ b 4 4))
  (List.range 16).foldl (fun s i => s.setReg (Adr.wtWin i) (BitVec.ofNat 32 (at_ b (8 + 4 * i) 4))) s

/-- Words of PM_BANKRET for a list of banks (R568). -/
def setBankret (s : State) (banks : List Nat) : State :=
  (List.range 6).foldl (fun s k =>
    s.setReg (Adr.pmBankret k) ((List.range 32).foldl (fun w i => if banks.contains (32 * k + i) then setBit w i true else w) 0)) s

/-- The stage manager writes the power registers and executes WAIT (R549 step 4). -/
def armEntry (s : State) (t : Nat) (banks : List Nat) : State :=
  let s := if t = 2 then setBankret s banks else if t = 4 then setBankret s [176] else s
  let s := (List.range 66).foldl (fun s d => setDomSet s d (stateSetting t d)) s
  let s := s.setField Adr.pmTarget 2 0 t
  let s := s.setField Adr.pmMode 2 0 (3 + (if t = 2 || t = 4 then 4 else 0))
  let s := match t, s.sm.walkNext with
    | 4, some b => walkRegs s b
    | _, _ => s
  { s with sm := { s.sm with entering := .waiting } }

/-- Steps 1 to 4 of R549 for KEEP, KEEP-ALL, WALK-THROUGH or OFF. -/
def beginEntry (s : State) (t : Nat) (banks : List Nat) : State :=
  let live := liveRoles s
  let keep := if t = 3 then live else (s.roles.filter (fun e => e.2.started)).map (fun e => e.1)
  let s := { s with sm := { s.sm with keepRoles := keep } }
  let s := drainHc (drainHc (live.foldl sleepRole s) 0) 1
  let s := linksOff (drainAll s)
  let s := if t = 2 || t = 5 then endSessions s else s
  armEntry (recordConfig s t) t banks

/-- HOUSE_ENTRY_BEGIN. -/
def execHouseEntryBegin (s : State) : Host.Outcome State Fault Refusal :=
  .next (match s.sm.entering with
    | .answered t banks => if 2 ≤ t then beginEntry s t banks else s
    | _ => s)

/-! ### Entry: the power controller's side -/

/-- Domains go to the settings of DOMAIN_SET, the highest number first (R549 step 5). -/
def switchDown (s : State) : State :=
  (List.range 66).reverse.foldl (fun s d =>
    let v := s.field (Adr.domainSet (d / 16)) (2 * (d % 16) + 1) (2 * (d % 16))
    if v = 0 || domSetting s d = v then s else leaveOn s d v (keptBanks s)) s

/-- Step 7 of R549: the state is reached, and a wake that was latched, or a level that is active, starts the exit (R550). -/
def endEntry (s : State) (t : Nat) : State :=
  let s := (stopClocks s t).setField Adr.pmStat 3 0 t
  let latched := s.sm.wakeLatch
  let s := { s.setFlag Adr.pmMode 0 false with sm := { s.sm with entering := .no, wakeLatch := none } }
  match latched with
  | some w => startWake s w.1 w.2
  | none =>
    match levelWake s with
    | some w => startWake s w.1 w.2
    | none => s

/-- OFF (R555): the time of day takes over the count. -/
def stopMetro (s : State) : State := { s with metro := 0, sm := { s.sm with timeOff := s.sm.timeOff + s.metro.setWidth 64 } }

/-- Steps 5 to 7 of R549. -/
def powerEntry (s : State) : State :=
  let t := s.field Adr.pmTarget 2 0
  let s := if s.flag Adr.pmMode 1 then latchPads s else s
  let s := switchDown s
  let s := if t = 4 then s.setReg Adr.wtScans 0 else s
  endEntry (if t = 5 then stopMetro s else s) t

/-- POWER_ENTRY: a WAIT of the stage manager while ARM is 1 (R550). -/
def execPowerEntry (s : State) : Host.Outcome State Fault Refusal :=
  .next (if s.flag Adr.pmMode 0 && houseNow s ≤ 1 && domOn s 52 && s.sm.cmdWait.isNone && s.field Adr.bootStat 2 0 ≥ 3 then powerEntry s else s)

/-- NAP_ENTRY (R551): the CXL write buffer drains, and the clocks of R545 stop. -/
def execNapEntry (s : State) : Host.Outcome State Fault Refusal :=
  .next (match s.sm.entering with
    | .answered 1 _ => endEntry ((flushWrites s).setField Adr.pmTarget 2 0 1 |>.setFlag Adr.pmMode 1 false) 1
    | _ => s)

/-! ### Exit -/

/-- Domains return to the settings of RUN (R544, R553). -/
def domainsUp (s : State) : State :=
  (List.range 66).foldl (fun s d => setDomState (setDomSet s d (powTab s d)) d (powTab s d)) s

/-- Both links may train again (R404 step 1). -/
def linksOn (s : State) : State :=
  { s with boot := { s.boot with perst := if portExists s 1 then 0 else if portExists s 0 then 2 else 3 } }

/-- RUN is reached: the exit is over, and the clocks run. -/
def enterRun (s : State) : State :=
  let s := { s.setField Adr.pmStat 3 0 0 with sm := { s.sm with wakeDue := false } }
  (List.range 64).foldl resumeClock s

/-- Every troupe watchdog that counts starts a full period (R552). -/
def reloadWatchdogs (s : State) : State :=
  (List.range 128).foldl (fun s l => if s.flag (Adr.twdCtl (l / 4) (l % 4)) 16 then writeTwdSvc s (l / 4) (l % 4) else s) s

/-- The exit from KEEP-ALL (R552): the roles resume in place. -/
def exitKeepAll (s : State) : State :=
  let s := linksOn (enterRun (domainsUp s))
  let s := s.sm.keepRoles.foldl (fun s r => s.modRole r (fun x => { x with frozen := false })) s
  let s := dbtLeaves (reloadWatchdogs s)
  { s with sm := { s.sm with keepRoles := [] }, boot := { s.boot with hwdAt := s.metro } }

/-- The exit from KEEP (R553): the recorded registers are rewritten, and the roles that were started start at vector 0, those of an image
with a SEGMENT in a CXL window once that window is READY. -/
def exitKeep (s : State) : State :=
  let s := rebuild (dbtLeaves (linksOn (enterRun (domainsUp s))))
  let roles := s.sm.keepRoles
  resumeRoles { s with sm := { s.sm with keepRoles := [] }, boot := { s.boot with hwdAt := s.metro, resume := roles } }

/-- The exit from WALK-THROUGH or OFF (R554, R555): a boot. The keep bank gives back sessions, log, policy, wear, scrub and CXL
configuration. -/
def exitBoot (s : State) : State :=
  let walk := houseNow s = 4
  let t := resetMem s (resetRegs s (resetBase s) survivesWarm) false
  let sm := { fusesAndAon s.sm with vid := s.sm.vid, vidTarget := s.sm.vid, walkNext := if walk then s.sm.walkNext else none }
  let sm := if walk then { sm with sessions := s.sm.sessions, opens := s.sm.opens, wear := s.sm.wear, overlayRefused := s.sm.overlayRefused } else sm
  let t := { t with metro := s.metro, time := s.time, sm := sm, log := if walk then s.log else t.log }
  beginBoot (if walk then s.sm.keepRegs.foldl (fun t e => t.setReg e.1 e.2) t else t)

/-- HOUSE_EXIT. -/
def execHouseExit (s : State) : Host.Outcome State Fault Refusal :=
  .next (if !s.sm.wakeDue || s.boot.porst || s.boot.brown ≠ 0 then s
    else match houseNow s with
      | 0 => s
      | 1 => enterRun s
      | 2 => exitKeep s
      | 3 => exitKeepAll s
      | _ => exitBoot s)

/-! ### Walk-through scans -/

/-- Selected channels of a scan and the codes of their conversions, one per selected channel in ascending order (R556). -/
def scanPairs (s : State) (codes : List (BitVec 12)) : List (Nat × Nat) :=
  ((List.range 16).filter (fun i => s.flag Adr.wtCtl i)).zip (codes.map (fun c => c.toNat))

/-- True for a code outside its window (R557). -/
def violates (s : State) (x : Nat × Nat) : Bool := decide (x.2 < s.field (Adr.wtWin x.1) 11 0) || decide (s.field (Adr.wtWin x.1) 27 16 < x.2)

/-- The results of a scan (R556, R570). -/
def scanResults (s : State) (l : List (Nat × Nat)) : State :=
  (List.range 16).foldl (fun s i =>
    match l.find? (fun x => x.1 == i) with
    | some x => s.setReg (Adr.wtLast i) (BitVec.ofNat 32 (x.2 + (if violates s x then 2 ^ 12 else 0) + 2 ^ 13))
    | none => s.setFlag (Adr.wtLast i) 13 false) s

/-- A scan (R556, R557): a violation wakes with source 4, a count that is reached with source 5. -/
def walkScan (s : State) (l : List (Nat × Nat)) : State :=
  let s := (if l.isEmpty then s else scanResults s l).setReg Adr.wtScans (s.reg Adr.wtScans + 1)
  let bad := (l.filter (violates s)).map (fun x => x.1)
  let count := s.field Adr.wtCtl 31 16
  let hit := count ≠ 0 && (s.reg Adr.wtScans).toNat = count
  if bad.isEmpty && !hit then s
  else
    let s := s.setReg Adr.wtViol (BitVec.ofNat 32 (bad.foldl (fun t i => t + 2 ^ i) 0 + (if hit && !bad.isEmpty then 2 ^ 16 else 0)))
    match bad with
    | i :: _ => startWake s 4 i
    | [] => startWake s 5 0

/-- WALK_SCAN: the codes are those of the selected channels in ascending order; another number of them is no scan. -/
def execWalkScan (codes : List (BitVec 12)) (s : State) : Host.Outcome State Fault Refusal :=
  .next (if houseNow s = 4 && !s.sm.wakeDue && (scanPairs s codes).length = codes.length &&
      codes.length = ((List.range 16).filter (fun i => s.flag Adr.wtCtl i)).length then walkScan s (scanPairs s codes)
    else s)

/-! ### The power table -/

/-- UIB of the owner of a domain (R539); D63 has none. -/
def domainUib (d : Nat) : Nat :=
  if d < 32 then 16 + d
  else if d < 40 then 1 + (d - 32)
  else if d < 48 then 192 + (d - 40)
  else if d < 50 then 240 + (d - 48)
  else if d = 50 then 250
  else if d = 52 then 242
  else if d = 53 then 247
  else if d ≤ 56 && 54 ≤ d then 243
  else if d = 57 || d = 58 then 244 + (d - 57)
  else if 59 ≤ d && d ≤ 62 then 248
  else if d = 65 then 249
  else 0

/-- UIB of a physical player slot: the logical core that it carries, or its troupe's understudy. -/
def slotUib (s : State) (n : Nat) : Nat :=
  match (List.range 4).find? (fun k => carrier s (4 * (n / 5) + k) == n % 5) with
  | some k => 64 + 4 * (n / 5) + k
  | none => 208 + n / 5

/-- One mismatch of R636: the truth is adopted, logged and sent. -/
def adopt (s : State) (key held truth uib b9 b10 : Nat) : State :=
  notice (setPowTab s key truth) uib 0x59 (leBytes 1 b9 ++ leBytes 1 b10 ++ leBytes 1 held ++ leBytes 1 truth)

/-- POWER_RECONCILE (R636). -/
def execPowerReconcile (s : State) : Host.Outcome State Fault Refusal :=
  .next (if !s.flag Adr.smStat 2 || 1 < houseNow s || s.sm.entering = .waiting || s.sm.cmdWait.isSome then s
    else
      let s := (List.range 66).foldl (fun s d =>
        if powTab s d = domSetting s d then s else adopt s d (powTab s d) (domSetting s d) (domainUib d) d 0) s
      (List.range 160).foldl (fun s n =>
        let v := gateSetting s (n / 5) (n % 5)
        if powTab s (128 + n) = v then s else adopt s (128 + n) (powTab s (128 + n)) v (slotUib s n) (0x80 + n / 5) (n % 5)) s)

end Sys2Proof.Machine
end

