-- ==== Sys2Proof/Machine/Mailbox.lean ====
section
/-! DEFINITION. Mailbox sets (R470 to R478): slots and their registers on sets 0 and 2, the host SPI port, doorbells of set 1, completion of
a command, and the stage manager's warm reset (R466). -/

namespace Sys2Proof.Machine

/-! ### Slots -/

/-- True while the stage manager has power and its ports answer (R473, R562). -/
def portsAnswer (s : State) : Bool :=
  domOn s 52 && houseNow s ≤ 1 && !s.boot.porst && s.boot.brown = 0 && 2 ≤ s.field Adr.bootStat 2 0

/-- State of a slot of set 0 or 2 (R471): 0 FREE, 1 RUNG, 2 EXEC, 3 DONE. -/
def slotState (s : State) (set n : Nat) : Nat := Sparse.get (fun _ => 0) s.sm.slotState (set * 8 + n)
/-- The state with a slot in another state. -/
def setSlotState (s : State) (set n v : Nat) : State :=
  { s with sm := { s.sm with slotState := Sparse.put (fun _ => 0) s.sm.slotState (set * 8 + n) v } }
/-- Byte of a slot, or of the copy of a set 1 slot. -/
def slotByte (s : State) (set n i : Nat) : Byte := Sparse.get (fun _ => 0) s.sm.slotBytes ((set * 8 + n) * 256 + i)
/-- A slot's bytes from an offset replaced. -/
def putBlock (s : State) (set n off : Nat) (l : List Byte) : State :=
  let m := (List.range l.length).foldl (fun m i =>
    Sparse.put (fun _ => 0) m ((set * 8 + n) * 256 + off + i) (l.getD i 0)) s.sm.slotBytes
  { s with sm := { s.sm with slotBytes := m } }
/-- The 256 bytes of a slot. -/
def blockAt (s : State) (set n : Nat) : List Byte := (List.range 256).map (slotByte s set n)
/-- MB_IRQEN of a set. -/
def mbIrq (s : State) (set : Nat) : Word := Sparse.get (fun _ => 0) s.sm.mbIrq set
/-- MB_ERR of a set. -/
def mbErr (s : State) (set : Nat) : Word := Sparse.get (fun _ => 0) s.sm.mbErr set
/-- A bit of MB_ERR is set. -/
def setMbErr (s : State) (set b : Nat) : State :=
  { s with sm := { s.sm with mbErr := Sparse.put (fun _ => 0) s.sm.mbErr set (setBit (mbErr s set) b true) } }

/-- Bits of the slots of a set in a state. -/
def slotMask (s : State) (set v : Nat) : Nat := (List.range 8).foldl (fun t n => if slotState s set n = v then t + 2 ^ n else t) 0

/-- A word of the SPI map or of the mailbox part of the link map (R475). -/
def mbRead (s : State) (set off : Nat) : Word :=
  if off < 0x800 then
    let n := off / 256
    if slotState s set n = 2 then 0
    else BitVec.ofNat 32 (leNat ((List.range 4).map (fun i => slotByte s set n (off % 256 + i))))
  else if off = 0x804 then BitVec.ofNat 32 ((List.range 8).foldl (fun t n => t + slotState s set n * 4 ^ n) 0)
  else if off = 0x808 then BitVec.ofNat 32 (slotMask s set 3)
  else if off = 0x80C then mbIrq s set
  else if off = 0x810 then mbErr s set
  else if off = 0x814 then BitVec.ofNat 32 (0x7160 + sessionCount s * 2 ^ 16 + (if s.flag Adr.smStat 2 then 2 ^ 31 else 0))
  else 0

/-- Slots are rung in ascending number (R471, R472); before READY nothing happens (R475). -/
def ringSlots (s : State) (set mask : Nat) : State :=
  if !s.flag Adr.smStat 2 then s
  else (List.range 8).foldl (fun s n =>
    if !mask.testBit n then s
    else if slotState s set n ≠ 0 then setMbErr s set 1
    else
      let s := setSlotState s set n 1
      { s with sm := { s.sm with rung := s.sm.rung ++ [set * 8 + n] } }) s

/-- DONE slots are freed (R471). -/
def freeSlots (s : State) (set mask : Nat) : State :=
  (List.range 8).foldl (fun s n => if mask.testBit n && slotState s set n = 3 then setSlotState s set n 0 else s) s

/-- A write of a word of the SPI map or of the mailbox part of the link map (R471, R475). -/
def mbWrite (s : State) (set off : Nat) (v : Word) : State :=
  if off < 0x800 then
    (if slotState s set (off / 256) = 0 then putBlock s set (off / 256) (off % 256) (leBytes 4 v.toNat) else setMbErr s set 0)
  else if off = 0x800 then ringSlots s set (bits v 7 0)
  else if off = 0x808 then freeSlots s set (bits v 7 0)
  else if off = 0x80C then { s with sm := { s.sm with mbIrq := Sparse.put (fun _ => 0) s.sm.mbIrq set (v &&& 0x1FF) } }
  else if off = 0x810 then { s with sm := { s.sm with mbErr := Sparse.put (fun _ => 0) s.sm.mbErr set (mbErr s set &&& ~~~v) } }
  else s

/-- Set that a port reaches: the host's, or the debug link's (R470). -/
def portSet (link : Bool) : Nat := if link then 2 else 0

/-- MAILBOX_RING. -/
def execMailboxRing (link : Bool) (mask : Byte) (s : State) : Host.Outcome State Fault Refusal :=
  .next (if portsAnswer s then ringSlots s (portSet link) mask.toNat else s)

/-- MAILBOX_FREE. -/
def execMailboxFree (link : Bool) (mask : Byte) (s : State) : Host.Outcome State Fault Refusal :=
  .next (if portsAnswer s then freeSlots s (portSet link) mask.toNat else s)

/-! ### The host SPI port -/

/-- Words of a frame written at rising addresses (R474). -/
def spiWords (s : State) (a : Nat) : List Byte → State
  | b0 :: b1 :: b2 :: b3 :: l =>
    spiWords (mbWrite s 0 (a % 2 ^ 16) (BitVec.ofNat 32 (leNat [b0, b1, b2, b3]))) (a + 4) l
  | _ => s

/-- A WRITE or QWRITE frame (R474): the whole words take effect. -/
def spiPut (s : State) (addr : Nat) (data : List Byte) : State :=
  if !portsAnswer s then s
  else if addr % 4 ≠ 0 then setMbErr s 0 5
  else
    let s := spiWords s addr data
    if data.length % 4 = 0 then s else setMbErr s 0 3

/-- SPI_WRITE. -/
def execSpiWrite (addr : BitVec 16) (data : List Byte) (s : State) : Host.Outcome State Fault Refusal := .next (spiPut s addr.toNat data)

/-- SPI_QWRITE. -/
def execSpiQwrite (addr : BitVec 16) (data : List Byte) (s : State) : Host.Outcome State Fault Refusal := .next (spiPut s addr.toNat data)

/-- Bytes that the host port shifts out. -/
def spiShift (s : State) (l : List Byte) : State := { s with sm := { s.sm with spiOut := l } }

/-- A READ or QREAD frame (R474): zero where the frame is ignored. -/
def spiGet (s : State) (addr n : Nat) : State :=
  if !portsAnswer s then spiShift s (List.replicate (4 * n) 0)
  else if addr % 4 ≠ 0 then spiShift (setMbErr s 0 5) (List.replicate (4 * n) 0)
  else spiShift s ((List.range n).flatMap (fun i => leBytes 4 (mbRead s 0 ((addr + 4 * i) % 2 ^ 16)).toNat))

/-- SPI_READ. -/
def execSpiRead (addr : BitVec 16) (words : Fin 1024) (s : State) : Host.Outcome State Fault Refusal := .next (spiGet s addr.toNat words.val)

/-- SPI_QREAD. -/
def execSpiQread (addr : BitVec 16) (words : Fin 1024) (s : State) : Host.Outcome State Fault Refusal := .next (spiGet s addr.toNat words.val)

/-- SPI_STAT (R474). -/
def spiStat (s : State) : Nat :=
  if !portsAnswer s then 0
  else (if slotMask s 0 3 ≠ 0 then 1 else 0) + (if slotMask s 0 0 ≠ 0 then 2 else 0) + (if mbErr s 0 ≠ 0 then 4 else 0) +
    (if s.flag Adr.smStat 2 then 128 else 0)

/-- SPI_STATUS. -/
def execSpiStatus (s : State) : Host.Outcome State Fault Refusal := .next (spiShift s (leBytes 1 (spiStat s)))

/-- SPI_BAD_INSTRUCTION (R474): one of the six known instruction bytes is no such frame. -/
def execSpiBadInstruction (b : Byte) (s : State) : Host.Outcome State Fault Refusal :=
  .next (if [0x02, 0x32, 0x0B, 0x6B, 0x05, 0xAB].contains b.toNat || !portsAnswer s then s else setMbErr s 0 2)

/-- True while HSPI_IRQ_N is driven low (R475). -/
def hspiIrq (s : State) : Bool :=
  portsAnswer s && ((slotMask s 0 3 &&& bits (mbIrq s 0) 7 0) ≠ 0 || (bit (mbIrq s 0) 8 && mbErr s 0 ≠ 0))

/-! ### Sessions -/

/-- A session by index. -/
def sessionOf (s : State) (i : Nat) : Option Session := Sparse.get (fun _ => none) s.sm.sessions i
/-- The state with a session replaced. -/
def setSession (s : State) (i : Nat) (x : Option Session) : State :=
  { s with sm := { s.sm with sessions := Sparse.put (fun _ => none) s.sm.sessions i x } }

/-- DBT of the roles, and the house watchdog's pause, follow the units that are unlocked (R513, R607, R608). -/
def applyUnlocks (s : State) : State :=
  let full : Ticket := ⟨0, BitVec.ofNat 48 (2 ^ 48 - 1), 0xFF, 0xFFF, 0, true⟩
  let l := s.sm.unlocked
  let s := (List.range 528).foldl (fun s r =>
    let t := if l.any (fun x => (uibChain (uibOf r)).contains x.1) then full else Ticket.null
    if (s.role r).dbt = t then s else s.modRole r (fun x => { x with dbt := t })) s
  s.setFlag Adr.hwdStat 8 (l.any (fun x => x.2.2))

/-- A session ends (R486, R513). -/
def endSession (s : State) (i : Nat) : State :=
  if (sessionOf s i).isNone then s
  else
    let s := setSession s i none
    applyUnlocks { s with sm := { s.sm with unlocked := s.sm.unlocked.filter (fun x => x.2.1 ≠ i) } }

/-! ### Responses -/

/-- The 256 bytes of a response to a block (R479, R480); `key` is K_rsp, none for a zero tag. -/
def responseBlock (b : List Byte) (status : Nat) (pay : List Byte) (key : Option (BitVec 256)) : List Byte :=
  let head := b.take 4 ++ leBytes 2 pay.length ++ leBytes 2 (1 + at_ b 6 2 / 2 % 2 * 2) ++ (b.drop 8).take 4 ++ leBytes 2 status ++ [0, 0]
  let tag := match key with
    | some k => (leBytes 32 (Config.hmac k (head ++ pay)).toNat).take 16
    | none => List.replicate 16 0
  head ++ pay ++ List.replicate (224 - pay.length) 0 ++ tag

/-- A response reaches its slot (R471, R477): a set 1 completion is a NOTICE 0x50 to the slot's owner. -/
def deliverResponse (s : State) (set n status : Nat) (l : List Byte) : State :=
  if set ≠ 1 then setSlotState (putBlock s set n 0 l) set n 3
  else
    let a := set1Base + n * 0x100
    let s := if storeError s a then s else smStore s a l
    let s := s.setFlag Adr.mb1State n false
    let w := s.reg (Adr.mb1Own n)
    if bit w 16 then noticeTo s (bits w 9 0) (bits w 15 12) 242 0x50 (leBytes 1 n ++ (l.drop 2).take 2 ++ leBytes 2 status) else s

/-! ### Doorbells of set 1 -/

/-- The queue of a doorbell (R470). -/
def doorQueue (k : Nat) : Nat := 320 + k

/-- The copy that the SM makes of a set 1 slot (R477). -/
def copySlot (s : State) (n : Nat) : State × Option (List Byte) :=
  match readMem s agentSm (set1Base + n * 0x100) 256 with
  | (s, .ok l) => (s, some l)
  | (s, .error _) => (s, none)

/-- What a doorbell word asks (R477): it is bad, its slot is executing, or the slot's block is taken. -/
def answerDoor (s : State) (w : Word) : State :=
  let n := bits w 2 0
  let bad := fun (s : State) => s.incField Adr.mb1Err 15 0
  if bits w 15 3 ≠ 0 || !s.flag (Adr.mb1Own n) 16 then bad s
  else if s.flag Adr.mb1State n then s.incField Adr.mb1Err 31 16
  else
    match copySlot s n with
    | (s, some l) => if at_ l 2 2 = bits w 31 16 then putBlock (s.setFlag Adr.mb1State n true) 1 n 0 l else bad s
    | (s, none) => bad s

/-- True for a doorbell word that starts a command. -/
def doorStarts (s : State) (w : Word) : Bool :=
  bits w 15 3 == 0 && s.flag (Adr.mb1Own (bits w 2 0)) 16 && !s.flag Adr.mb1State (bits w 2 0)

/-- True while the stage manager takes commands (R472, R549 step 1). -/
def smRuns (s : State) : Bool := portsAnswer s && s.flag Adr.smStat 2 && s.sm.entering = .no

/-- The SM pops a doorbell word of a house queue (R472): of no queue behind a more urgent one, and no command while one is in progress. -/
def takeDoor (s : State) (k : Nat) : State :=
  let q := doorQueue k
  if !smRuns s || !popReady s q || (List.range k).any (fun j => popReady s (doorQueue j)) then s
  else
    let w := match (s.queue q).stages with
      | g :: _ => g.data
      | [] => 0
    if doorStarts s w && (s.sm.cmdWait.isSome || s.field Adr.mb1State 7 0 ≠ 0) then s
    else
      match pop s q with
      | (s, some p) => answerDoor (wakeProducers s q) p.data
      | (s, none) => s

/-- SET1_DOORBELL. -/
def execSet1Doorbell (q : Fin 4) (s : State) : Host.Outcome State Fault Refusal := .next (takeDoor s q.val)

/-! ### Warm reset of the stage manager -/

/-- Set 1 commands in progress complete with ABORTED (R466). -/
def abortSet1 (s : State) : State :=
  (List.range 8).foldl (fun s n =>
    if !s.flag Adr.mb1State n then s
    else
      let b := blockAt s 1 n
      let key := (s.sm.sessions.findSome? (fun e => e.2.bind (fun x => if x.sid.toNat = at_ b 8 4 && x.set = 1 then some x.krsp else none)))
      deliverResponse s 1 n 0x0B (responseBlock b 0x0B (leBytes 2 0 ++ leBytes 2 0xFFFF) key)) s

/-- An SM warm reset (R466, R519): sessions and opens end, slots of sets 0 and 2 return to FREE. -/
def warmReset (s : State) : State :=
  let s := abortSet1 s
  let s := match s.sm.cmdWait with
    | some w => if w.set = 3 then endPwrreq s w.slot 0x0B else s
    | none => s
  let n := min 0xFFFF (s.sm.warmResets + 1)
  let s := { s with sm := { s.sm with
    sessions := [], opens := [], unlocked := [], slotState := [], rung := [], cmdWait := none, warmResets := n, spiOut := []
    slotBytes := s.sm.slotBytes.filter (fun e => 2048 ≤ e.1 && e.1 < 4096), vidTarget := s.sm.vid } }
  let s := setMbErr (setMbErr (applyUnlocks s) 0 4) 2 4
  notice (setLayer s) 242 0x51 (leBytes 2 n)

/-- SM_WARM_RESET: an uncorrectable word of SM SRAM is counted in MEC[176] and UIB 242 (R394, R401); the
manual does not say which word it is. -/
def execSmWarmReset (cause : WarmCause) (s : State) : Host.Outcome State Fault Refusal :=
  .next (if !portsAnswer s then s
    else match cause with
      | .sramError =>
        let (s, v) := s.fresh
        warmReset (raiseFault (countMec s 176 v.toNat true false) 242 1 1 0 none)
      | .mismatch | .stall => warmReset s)

end Sys2Proof.Machine
end

