-- ==== Sys2Proof/Machine/Manager.lean ====
section
/-! DEFINITION. How the stage manager runs a command (R479 to R500): the command table, the checks of R481 in order, the response, and the
end of work that outlasts its command row. -/

namespace Sys2Proof.Machine

/-! ### The command table -/

/-- A floor of R488. -/
inductive Floor where
  | none | reader | operator | maintainer | owner | debug
deriving DecidableEq, Repr

/-- A row of the command tables: opcode, floor, whether IMAGE meets it too, whether it is session-less, the least and greatest LENGTH, and
the payload bytes that its layout does not name (R494). -/
structure CmdRow where
  op : Nat
  floor : Floor
  img : Bool
  less : Bool
  lo : Nat
  hi : Nat
  zero : List Nat
deriving DecidableEq, Repr

/-- Commands on sessions, images, units and power (R501, R505). -/
def cmdRowsA : List CmdRow := [
  ⟨0x0001, .none, false, true, 1, 1, []⟩,
  ⟨0x0002, .none, false, true, 68, 68, []⟩,
  ⟨0x0003, .none, false, false, 0, 0, []⟩,
  ⟨0x0101, .none, false, true, 0, 0, []⟩,
  ⟨0x0102, .reader, false, false, 0, 0, []⟩,
  ⟨0x0103, .reader, true, false, 2, 2, []⟩,
  ⟨0x0104, .owner, false, false, 20, 20, [1, 2, 3, 13, 14, 15]⟩,
  ⟨0x0201, .maintainer, false, false, 7, 224, []⟩,
  ⟨0x0202, .maintainer, false, false, 8, 8, [7]⟩,
  ⟨0x0203, .maintainer, false, false, 2, 2, []⟩,
  ⟨0x0204, .owner, false, false, 6, 6, []⟩,
  ⟨0x0301, .operator, true, false, 5, 5, []⟩,
  ⟨0x0302, .operator, true, false, 4, 4, []⟩,
  ⟨0x0303, .operator, false, false, 2, 2, []⟩,
  ⟨0x0304, .debug, false, false, 4, 4, []⟩,
  ⟨0x0401, .operator, true, false, 4, 4, []⟩,
  ⟨0x0402, .operator, false, false, 22, 22, [2, 3]⟩,
  ⟨0x0403, .operator, false, false, 1, 1, []⟩,
  ⟨0x0404, .operator, false, false, 72, 72, []⟩]

/-- Commands on spares, memory, CXL, compressors, cues and pins (R507, R508). -/
def cmdRowsB : List CmdRow := [
  ⟨0x0501, .maintainer, false, false, 7, 7, [3]⟩,
  ⟨0x0502, .maintainer, false, false, 3, 3, []⟩,
  ⟨0x0503, .maintainer, false, false, 2, 2, []⟩,
  ⟨0x0504, .owner, false, false, 2, 2, []⟩,
  ⟨0x0601, .maintainer, false, false, 2, 2, []⟩,
  ⟨0x0602, .maintainer, false, false, 4, 4, []⟩,
  ⟨0x0701, .owner, false, false, 8, 8, [5]⟩,
  ⟨0x0702, .owner, false, false, 10, 10, []⟩,
  ⟨0x0703, .owner, false, false, 2, 2, []⟩,
  ⟨0x0704, .maintainer, false, false, 2, 2, []⟩,
  ⟨0x0705, .maintainer, false, false, 2, 2, []⟩,
  ⟨0x0801, .maintainer, false, false, 18, 18, []⟩,
  ⟨0x0802, .maintainer, false, false, 10, 10, []⟩,
  ⟨0x0803, .operator, false, false, 12, 12, [3]⟩,
  ⟨0x0804, .reader, true, false, 8, 8, [1]⟩,
  ⟨0x0901, .maintainer, false, false, 36, 36, [33, 34, 35]⟩,
  ⟨0x0902, .operator, false, false, 8, 8, []⟩,
  ⟨0x0A01, .maintainer, false, false, 6, 204, []⟩,
  ⟨0x0A02, .maintainer, false, false, 6, 204, []⟩,
  ⟨0x0A03, .operator, true, false, 24, 24, []⟩]

/-- Commands on registers, log, time, fuses and debug (R510). -/
def cmdRowsC : List CmdRow := [
  ⟨0x0B01, .reader, false, false, 8, 8, [7]⟩,
  ⟨0x0B02, .owner, false, false, 12, 216, [7]⟩,
  ⟨0x0C01, .reader, false, false, 6, 6, []⟩,
  ⟨0x0D01, .operator, false, false, 8, 8, []⟩,
  ⟨0x0D02, .reader, false, false, 0, 0, []⟩,
  ⟨0x0D03, .operator, false, false, 8, 8, []⟩,
  ⟨0x0E01, .reader, false, false, 0, 0, []⟩,
  ⟨0x0E02, .owner, false, false, 36, 36, [2, 3]⟩,
  ⟨0x0E03, .owner, false, false, 1, 1, []⟩,
  ⟨0x0E04, .owner, false, false, 1, 1, []⟩,
  ⟨0x0E05, .owner, false, false, 12, 12, [1, 2, 3]⟩,
  ⟨0x0F01, .debug, false, false, 4, 4, []⟩,
  ⟨0x0F02, .owner, false, false, 4, 4, []⟩]

/-- The row of an opcode; none for an unknown one. -/
def cmdRow (op : Nat) : Option CmdRow := (cmdRowsA ++ cmdRowsB ++ cmdRowsC).find? (fun r => r.op == op)

/-! ### A command -/

/-- A command that has passed the first six checks: where it came from, its header, its payload, the session's index and keys, and the CID
that a session-less command of set 1 acts for. -/
structure Cmd where
  set : Nat
  slot : Nat
  op : Nat
  seq : Nat
  pay : List Byte
  sess : Option (Nat × Session)
  cid : Nat
deriving DecidableEq, Repr

/-- A payload field of n bytes. -/
def Cmd.at (c : Cmd) (off n : Nat) : Nat := at_ c.pay off n
/-- Role code of the command's session, 0 for none. -/
def Cmd.code (c : Cmd) : Nat :=
  match c.sess with
  | some x => x.2.code
  | none => 0
/-- True for a command that acts with the authority of an image (R488, R497). -/
def Cmd.byImage (c : Cmd) : Bool := c.sess.isNone && c.set == 1

/-- A response: STATUS, payload, the sessions that end after it, and whether the stage manager restarts after it. -/
structure Reply where
  status : Nat
  pay : List Byte
  ends : List Nat
  restart : Bool
deriving DecidableEq, Repr

/-- Done in full, with a payload. -/
def Reply.ok (pay : List Byte) : Reply := ⟨0, pay, [], false⟩
/-- A failure with its detail code and the offset at fault (R496). -/
def Reply.fail (status detail off : Nat) : Reply := ⟨status, leBytes 2 detail ++ leBytes 2 off, [], false⟩
/-- A failure with no detail and no single field at fault. -/
def Reply.bare (status : Nat) : Reply := Reply.fail status 0 0xFFFF
/-- BADARG at an offset. -/
def Reply.badArg (off : Nat) : Reply := Reply.fail 0x0C 0 off

/-- What a command does once its checks 1 to 6 have passed. -/
abbrev CmdBody := Cmd → State → State × Reply

/-- The image that owns a set 1 slot. -/
def slotCid (s : State) (n : Nat) : Nat :=
  match s.sm.images.find? (fun i => i.slots.any (fun x => x.1 == n)) with
  | some i => i.cid
  | none => 0

/-! ### The checks -/

/-- True for a session's role that meets a floor (R488). -/
def roleMeets (code : Nat) (f : Floor) : Bool :=
  match f with
  | .none => 1 ≤ code && code ≤ 5
  | .reader => 1 ≤ code && code ≤ 5
  | .operator => 1 ≤ code && code ≤ 3
  | .maintainer => code == 1 || code == 2
  | .owner => code == 1
  | .debug => code == 5

/-- True where FORCE is set in POWER_REQ or HOUSE_STATE, which a DEBUG session may then send (R503, R628). -/
def forced (op : Nat) (pay : List Byte) : Bool := (op == 0x0401 && (at_ pay 3 1).testBit 0) || (op == 0x0402 && (at_ pay 1 1).testBit 0)

/-- Check 6 of R481. -/
def meetsFloor (c : Cmd) (r : CmdRow) : Bool :=
  match c.sess with
  | some x => roleMeets x.2.code r.floor || (x.2.code == 5 && forced c.op c.pay)
  | none => r.floor == .none || (c.byImage && r.img) || (r.op == 0x0E02 && c.set == 0)

/-- The layout part of check 7 (R494): the reply to a payload of another length, or with a nonzero byte that no layout names. -/
def layoutReply (r : CmdRow) (pay : List Byte) : Option Reply :=
  if pay.length < r.lo || r.hi < pay.length then some (Reply.badArg 0xFFFF)
  else (r.zero.find? (fun i => at_ pay i 1 ≠ 0)).map Reply.badArg

/-- The session of a command's SESSION field (check 2 of R481, R485). -/
def findSession (s : State) (set slot sid : Nat) : Option (Nat × Session) :=
  (List.range 4).findSome? (fun i => (sessionOf s i).bind (fun x =>
    if x.sid.toNat == sid && x.set == set && (set != 1 || x.cid == slotCid s slot) then some (i, x) else none))

/-- True for a session-less command that check 2 lets pass (R481, R497, R511). -/
def sessionless (s : State) (set op : Nat) : Bool :=
  set == 1 || (match cmdRow op with
    | some r => r.less
    | none => false) ||
    (op == 0x0E02 && set == 0 && (List.range 8).all (fun k => (Sparse.get (fun _ => (⟨0, 0⟩ : KeySlot)) s.sm.keys k).code == 0))

/-- Checks 1 and 2 of R481: the status of the one that fails, or the command. -/
def openCmd (s : State) (set slot : Nat) (b : List Byte) : Except Nat Cmd :=
  let len := at_ b 4 2
  let sid := at_ b 8 4
  let c : Cmd := ⟨set, slot, at_ b 0 2, at_ b 2 2, (b.drop 16).take len, none, if set = 1 then slotCid s slot else 0⟩
  if at_ b 6 2 % 2 ≠ 0 || 4 ≤ at_ b 6 2 || 224 < len || at_ b 12 4 ≠ 0 then .error 0x02
  else if sid = 0 then (if sessionless s set c.op then .ok c else .error 0x03)
  else
    match findSession s set slot sid with
    | some x => .ok { c with sess := some x, cid := 0 }
    | none => .error 0x03

/-- Checks 3 and 4 of R481: the status of the one that fails. -/
def sessionCheck (c : Cmd) (b : List Byte) : Option Nat :=
  match c.sess with
  | none => none
  | some x =>
    if (b.drop 240).take 16 ≠ (leBytes 32 (Config.hmac x.2.kcmd (b.take (16 + c.pay.length))).toNat).take 16 then some 0x04
    else if c.seq ≤ x.2.last then some 0x05
    else none

/-- Checks 5 and 6 and the layout part of 7 of R481. -/
def tableCheck (c : Cmd) : Option Reply :=
  match cmdRow c.op with
  | none => some (Reply.bare 0x06)
  | some r => if meetsFloor c r then layoutReply r c.pay else some (Reply.bare 0x07)

/-! ### Running a command -/

/-- A command that failed at check 3 or later is held in the log (R517). -/
def logFailure (s : State) (c : Cmd) (status : Nat) : State :=
  if [0x00, 0x01, 0x13].contains status then s
  else logRecord s (noticeRec s 0 0 242 0x5F (leBytes 2 c.op ++ leBytes 2 status ++ leBytes 1 c.set ++ leBytes 2 c.seq))

/-- Key of a command's response. -/
def Cmd.key (c : Cmd) : Option (BitVec 256) := c.sess.map (fun x => x.2.krsp)

/-- The response of a command is written and a failure logged. -/
def reply (s : State) (c : Cmd) (b : List Byte) (r : Reply) : State :=
  deliverResponse (logFailure s c r.status) c.set c.slot r.status (responseBlock b r.status r.pay c.key)

/-- The response of an accepted command is written, and what its row leaves for afterwards happens (R485, R500). -/
def answer (s : State) (c : Cmd) (b : List Byte) (r : Reply) : State :=
  let s := reply s c b r
  let last := match c.sess with
    | some x => if c.seq = 0xFFFF then [x.1] else []
    | none => []
  let s := (r.ends ++ last).foldl endSession s
  if r.restart then warmReset s else s

/-- The SEQ of an accepted command is its session's last (R485). -/
def acceptSeq (s : State) (c : Cmd) : State :=
  match c.sess with
  | some x => setSession s x.1 (some { x.2 with last := c.seq })
  | none => s

/-- The stage manager takes the command of a slot and runs it. While its work goes on, the response waits. -/
def serve (s : State) (set slot : Nat) (b : List Byte) (body : CmdBody) : State :=
  match openCmd s set slot b with
  | .error e => deliverResponse s set slot e (responseBlock b e (leBytes 2 0 ++ leBytes 2 0xFFFF) none)
  | .ok c =>
    match sessionCheck c b with
    | some e => reply s c b (Reply.bare e)
    | none =>
      let s := acceptSeq s c
      match tableCheck c with
      | some r => answer s c b r
      | none =>
        let (s, r) := body c s
        if s.sm.cmdWait.isSome then s else answer s c b r

/-- True where a slot holds a command that is its set's next (R472). -/
def isNext (s : State) (set slot : Nat) : Bool :=
  if set = 1 then s.flag Adr.mb1State slot
  else slotState s set slot == 1 && (s.sm.rung.filter (fun k => k / 8 == set)).head? == some (set * 8 + slot)

/-- A rung slot of set 0 or 2 enters EXEC. -/
def takeSlot (s : State) (set slot : Nat) : State :=
  if set = 1 then s
  else
    let s := setSlotState s set slot 2
    { s with sm := { s.sm with rung := s.sm.rung.filter (fun k => k ≠ set * 8 + slot) } }

/-- True where a row may run the block of a slot: one that holds its opcode, or one that no command has. -/
def rowTakes (s : State) (op set slot : Nat) : Bool :=
  let o := at_ (blockAt s set slot) 0 2
  smRuns s && s.sm.cmdWait.isNone && isNext s set slot && (o == op || (cmdRow o).isNone)

/-- A command row: the slot's command where the stage manager can take it now. -/
def runCmd (op : Nat) (body : CmdBody) (set : Fin 3) (slot : Fin 8) (s : State) : State :=
  if rowTakes s op set.val slot.val then serve (takeSlot s set.val slot.val) set.val slot.val (blockAt s set.val slot.val) body else s

/-! ### Work that outlasts its row -/

/-- The command whose work has ended is answered. -/
def endWait (s : State) (status : Nat) (pay : List Byte) : State :=
  match s.sm.cmdWait with
  | none => s
  | some w =>
    let s := { s with sm := { s.sm with cmdWait := none } }
    if w.set = 3 then endPwrreq s w.slot status
    else
      let b := blockAt s w.set w.slot
      match openCmd s w.set w.slot b with
      | .ok c => answer s c b ⟨status, pay, [], false⟩
      | .error e => deliverResponse s w.set w.slot e (responseBlock b e (leBytes 2 0 ++ leBytes 2 0xFFFF) none)

/-- True while a session's command is in progress. -/
def sessionBusy (s : State) (i : Nat) : Bool :=
  match s.sm.cmdWait, sessionOf s i with
  | some w, some x => w.set != 3 && at_ (blockAt s w.set w.slot) 8 4 == x.sid.toNat
  | _, _ => false

/-! ### Switch segments -/

/-- Segments that the switch of a domain, or of a gate at 128 + its physical slot, has lost (R382): its type 0x4 records, which hold the
domain and the segment (R380). -/
def lostSegments (s : State) (k : Nat) : List Nat :=
  (List.range 4).filter (fun i => s.sm.records.contains (4, k + 512 * i))

/-- Core that a switch powers alone: a player's gate, or the domain of a lead (R382, R540). -/
def switchCore (s : State) (k : Nat) : Option Nat :=
  if 128 ≤ k then carriedBy s (k - 128)
  else if 40 ≤ k && k < 50 then carriedBy s (160 + (k - 40))
  else none

/-- The test of a switch's segments at a power-on (R382): each one that fails is disabled with a record. A player or lead whose switch is left
with 2 is due to retire with cause 0x06. -/
def testSegments (s : State) (k : Nat) (bad : BitVec 4) : State :=
  let new := (List.range 4).filter (fun i => bad.getLsbD i && !(lostSegments s k).contains i)
  let s := new.foldl (fun s i => addFuseRecord s 4 (k + 512 * i)) s
  match switchCore s k with
  | some core => if !new.isEmpty && 2 ≤ (lostSegments s k).length then addDue s ⟨core, 6, []⟩ else s
  | none => s

/-! ### Switching and voltage -/

/-- A domain reaches ON, or a gate (R540). The request waits for it no longer. -/
def reachOn (s : State) (d : Nat) (slot : Option Nat) : State :=
  let s := match slot with
    | some n =>
      if s.sm.gateReq.contains n then
        { s with sm := { s.sm with gateReq := s.sm.gateReq.filter (· ≠ n) } }.setField (Adr.coreGate (n / 5)) (2 * (n % 5) + 1) (2 * (n % 5)) 0
      else s
    | none =>
      if s.field (Adr.domainSet (d / 16)) (2 * (d % 16) + 1) (2 * (d % 16)) = 0 then setDomState s d 0 else s
  match s.sm.cmdWait with
  | none => s
  | some w =>
    if w.vid then s
    else
      let doms := w.doms.filter (fun d => domSetting s d ≠ 0)
      let gates := w.gates.filter (fun n => gateSetting s (n / 5) (n % 5) ≠ 0)
      let s := { s with sm := { s.sm with cmdWait := some { w with doms := doms, gates := gates } } }
      if doms.isEmpty && gates.isEmpty then endWait s 0 [] else s

/-- DOMAIN_ON_COMPLETE: of the domain, or of the physical player slot where one is named; `bad` are the segments that fail the test. -/
def execDomainOnComplete (d : Fin 66) (slot : Option PhysId) (bad : BitVec 4) (s : State) : Host.Outcome State Fault Refusal :=
  .next (if 1 < houseNow s || s.sm.entering = .waiting || s.boot.porst || s.boot.brown ≠ 0 then s
    else
      match slot with
      | some n =>
        if n.val < 160 && s.sm.gateReq.contains n.val then reachOn (testSegments s (128 + n.val) bad) d.val (some n.val) else s
      | none =>
        if domOn s d.val || s.field (Adr.domainSet (d.val / 16)) (2 * (d.val % 16) + 1) (2 * (d.val % 16)) ≠ 0 then s
        else reachOn (testSegments s d.val bad) d.val none)

/-- VID_STEP (R53): one code nearer to the target; the command is answered once it is reached. -/
def execVidStep (s : State) : Host.Outcome State Fault Refusal :=
  .next (if s.sm.vid = s.sm.vidTarget || !portsAnswer s then s
    else
      let v := if s.sm.vid < s.sm.vidTarget then s.sm.vid + 1 else s.sm.vid - 1
      let s := { s with sm := { s.sm with vid := v } }
      match s.sm.cmdWait with
      | some w => if w.vid && v = s.sm.vidTarget then endWait s 0 (leBytes 1 v) else s
      | none => s)

end Sys2Proof.Machine
end

