-- ==== Sys2Proof/Machine/CmdSession.lean ====
section
/-! DEFINITION. Session commands (R482 to R490, R501, R502), jobs (R498) and what ends by time: opens, sessions, locks and finished jobs. -/

namespace Sys2Proof.Machine

/-! ### Key slots -/

/-- A fused key slot (R488). -/
def keySlot (s : State) (k : Nat) : KeySlot := Sparse.get (fun _ => ⟨0, 0⟩) s.sm.keys k
/-- The state with a key slot's fuses replaced. -/
def setKeySlot (s : State) (k : Nat) (x : KeySlot) : State :=
  { s with sm := { s.sm with keys := Sparse.put (fun _ => ⟨0, 0⟩) s.sm.keys k x } }
/-- Lockout counters of a key slot (R489). -/
def lockout (s : State) (k : Nat) : Lockout := Sparse.get (fun _ => ⟨0, 0, 0⟩) s.sm.lockouts k
/-- The state with lockout counters replaced. -/
def setLockout (s : State) (k : Nat) (x : Lockout) : State :=
  { s with sm := { s.sm with lockouts := Sparse.put (fun _ => ⟨0, 0, 0⟩) s.sm.lockouts k x } }

/-- A failed proof is counted (R489): the fifth locks the slot. -/
def countFailure (s : State) (k : Nat) : State :=
  let x := lockout s k
  if x.fails + 1 < 5 then setLockout s k { x with fails := x.fails + 1 }
  else
    let t := min (2 ^ x.level) 3600
    notice (setLockout s k ⟨0, min 12 (x.level + 1), t⟩) 242 0x53 (leBytes 1 k ++ leBytes 4 t)

/-- A LOCKED response (R482, R496): some number of seconds of the lock remains. -/
def lockedReply (s : State) (k : Nat) : State × Reply :=
  let (s, v) := s.fresh
  (s, ⟨0x08, leBytes 4 (1 + v.toNat % (lockout s k).lock), [], false⟩)

/-- LOCKOUT_EXPIRY: the lock's time has passed (R489). -/
def execLockoutExpiry (slot : Fin 8) (s : State) : Host.Outcome State Fault Refusal :=
  .next (if (lockout s slot.val).lock = 0 then s else setLockout s slot.val { lockout s slot.val with lock := 0 })

/-! ### Opening a session -/

/-- A pending open by index. -/
def openOf (s : State) (i : Nat) : Option OpenRec := Sparse.get (fun _ => none) s.sm.opens i
/-- The state with a pending open replaced. -/
def setOpen (s : State) (i : Nat) (x : Option OpenRec) : State :=
  { s with sm := { s.sm with opens := Sparse.put (fun _ => none) s.sm.opens i x } }

/-- OPEN_SESSION (R482). -/
def openSession : CmdBody := fun c s =>
  let k := c.at 0 1
  let x := keySlot s k
  if 8 ≤ k then (s, Reply.badArg 0)
  else if x.code = 0 || x.code = 15 || (x.code = 5 && s.sm.debugDis) then (s, Reply.bare 0x07)
  else if (lockout s k).lock ≠ 0 then lockedReply s k
  else
    match (List.range 4).find? (fun i => (openOf s i).isNone) with
    | none => (s, Reply.bare 0x09)
    | some i =>
      let (s, h) := s.fresh
      let (s, n) := s.fresh
      let handle := 1 + h.toNat % (2 ^ 32 - 1)
      (setOpen s i (some ⟨BitVec.ofNat 32 handle, n, c.set, k, if c.set = 1 then slotCid s c.slot else 0⟩),
        Reply.ok (leBytes 4 handle ++ leBytes 32 n.toNat))

/-- OPEN_SESSION's row. -/
def execOpenSession (set : Fin 3) (slot : Fin 8) (s : State) : Host.Outcome State Fault Refusal := .next (runCmd 0x0001 openSession set slot s)

/-- A session id that no open session has (R483). -/
def newSid (s : State) (v : Nat) : Nat :=
  ((List.range 5).map (fun i => 1 + (v + i) % (2 ^ 32 - 1))).find? (fun n =>
    (List.range 4).all (fun i => match sessionOf s i with
      | some x => x.sid.toNat != n
      | none => true)) |>.getD 0

/-- A proof that is right opens a session (R483, R484). -/
def startSession (s : State) (i : Nat) (o : OpenRec) (nh : List Byte) : State × Reply :=
  let (s, v) := s.fresh
  let k := keySlot s o.slot
  let nd := leBytes 32 o.nonce.toNat
  let sid := newSid s v.toNat
  let info : List Byte := [0x53, 0x4C, 0x37, 0x31, 0x36, 0x30, 0x20, 0x53, 0x45, 0x53, 0x53, 0x49, 0x4F, 0x4E] ++ leBytes 1 o.slot ++ leBytes 4 sid
  let out := Config.hkdf k.key (nd ++ nh) info
  let s := setSession (setLockout s o.slot ⟨0, 0, (lockout s o.slot).lock⟩) i
    (some ⟨BitVec.ofNat 32 sid, o.set, o.slot, k.code, 0, o.cid, out.extractLsb' 0 256, out.extractLsb' 256 256⟩)
  let pd := Config.hmac k.key (nh ++ nd ++ leBytes 1 o.slot ++ leBytes 4 sid)
  (s, Reply.ok (leBytes 4 sid ++ leBytes 1 k.code ++ [0, 0, 0] ++ leBytes 32 pd.toNat))

/-- PROVE (R483): the open is consumed whatever the outcome. -/
def prove : CmdBody := fun c s =>
  let h := c.at 0 4
  match (List.range 4).findSome? (fun i => (openOf s i).bind (fun o => if o.handle.toNat == h && o.set == c.set then some (i, o) else none)) with
  | none => (s, Reply.bare 0x03)
  | some (i, o) =>
    let s := setOpen s i none
    let nh := (c.pay.drop 4).take 32
    if (lockout s o.slot).lock ≠ 0 then lockedReply s o.slot
    else if (c.pay.drop 36).take 32 ≠ leBytes 32 (Config.hmac (keySlot s o.slot).key (leBytes 32 o.nonce.toNat ++ nh ++ leBytes 1 o.slot)).toNat then
      (countFailure s o.slot, Reply.bare 0x0A)
    else
      match (List.range 4).find? (fun j => (sessionOf s j).isNone) with
      | none => (s, Reply.bare 0x09)
      | some j => startSession s j o nh

/-- PROVE's row. -/
def execProve (set : Fin 3) (slot : Fin 8) (s : State) : Host.Outcome State Fault Refusal := .next (runCmd 0x0002 prove set slot s)

/-- CLOSE_SESSION (R501): of a command without a session there is none to close. -/
def closeSession : CmdBody := fun c s =>
  match c.sess with
  | some x => (s, ⟨0, [], [x.1], false⟩)
  | none => (s, Reply.bare 0x03)

/-- CLOSE_SESSION's row. -/
def execCloseSession (set : Fin 3) (slot : Fin 8) (s : State) : Host.Outcome State Fault Refusal := .next (runCmd 0x0003 closeSession set slot s)

/-- OPEN_EXPIRY: an open is discarded after 10 s (R482). -/
def execOpenExpiry (i : Fin 4) (s : State) : Host.Outcome State Fault Refusal := .next (if portsAnswer s then setOpen s i.val none else s)

/-- SESSION_IDLE_TIMEOUT (R486). -/
def execSessionIdleTimeout (i : Fin 4) (s : State) : Host.Outcome State Fault Refusal :=
  .next (if portsAnswer s && !sessionBusy s i.val then endSession s i.val else s)

/-! ### Reports -/

/-- IDENTIFY (R501). -/
def identifyCmd : CmdBody := fun _ s =>
  (s, Reply.ok (leBytes 2 0x7160 ++ leBytes 1 0x21 ++ leBytes 1 Config.order.toNat ++ leBytes 8 Config.dieId.toNat ++ leBytes 1 2 ++
    leBytes 1 (s.field Adr.smStat 1 0) ++ leBytes 2 (s.field Adr.smStat 31 16) ++ leBytes 4 Config.romVersion.toNat))

/-- IDENTIFY's row. -/
def execIdentify (set : Fin 3) (slot : Fin 8) (s : State) : Host.Outcome State Fault Refusal := .next (runCmd 0x0101 identifyCmd set slot s)

/-- Flags of HEALTH (R502). -/
def healthFlags (s : State) : Nat :=
  let f := fun (b : Bool) (n : Nat) => if b then 2 ^ n else 0
  f (!s.time.xtal) 0 + f s.sm.timeUnset 1 + f (portExists s 0 && !linkUp s 0) 2 + f (portExists s 1 && !linkUp s 1) 3 +
    f (winC s == 2 && mirState s ≠ 1) 4 + f ([0, 1, 2].any (fun w => s.flag (Adr.cxlWin w) 15)) 5 + f (s.field Adr.scrubPass 31 16 ≠ 0) 6 +
    f (decide (120 < s.sm.records.length)) 7 + f ((List.range 136).any (coreDark s)) 8 + f s.sm.overlayRefused 9

/-- Jobs that run. -/
def runningJobs (s : State) : List Job := s.sm.jobs.filterMap (fun e => e.2.bind (fun j => if j.running then some j else none))

/-- HEALTH (R502). -/
def health : CmdBody := fun _ s =>
  (s, Reply.ok (leBytes 4 (healthFlags s) ++
    leBytes 9 ((List.range 66).foldl (fun t d => if 2 ≤ (lostSegments s d).length then t + 2 ^ d else t) 0) ++
    leBytes 1 ((List.range 32).filter (fun t => ownState s (208 + t) == 7)).length ++
    leBytes 1 ((List.range 2).filter (fun k => ownState s (240 + k) == 7)).length ++ [0] ++
    leBytes 2 (s.field Adr.darkCnt 15 0) ++ leBytes 1 (sessionCount s) ++ leBytes 1 (runningJobs s).length ++ leBytes 4 (metroLo s).toNat))

/-- HEALTH's row. -/
def execHealth (set : Fin 3) (slot : Fin 8) (s : State) : Host.Outcome State Fault Refusal := .next (runCmd 0x0102 health set slot s)

/-- SM_POLICY (R501): every selected field is checked before one is written. -/
def smPolicy : CmdBody := fun c s =>
  let m := c.at 0 1
  let note := BitVec.ofNat 32 (c.at 8 4)
  let loop := BitVec.ofNat 32 (c.at 16 4)
  if 16 ≤ m then (s, Reply.badArg 0)
  else if m.testBit 0 && !(10 ≤ c.at 4 4 && c.at 4 4 ≤ 86400) then (s, Reply.badArg 4)
  else if m.testBit 1 && (527 < bits note 9 0 || bits note 11 10 ≠ 0 || !(1 ≤ bits note 15 12 && bits note 15 12 ≤ 12) || bits note 31 17 ≠ 0) then
    (s, Reply.badArg 8)
  else if m.testBit 2 && 2 ≤ c.at 12 1 then (s, Reply.badArg 12)
  else if m.testBit 3 && (badSheet loop || bits loop 11 10 ≠ 0 || bits loop 31 17 ≠ 0) then (s, Reply.badArg 16)
  else
    let s := if m.testBit 0 then s.setReg Adr.smIdle (BitVec.ofNat 32 (c.at 4 4)) else s
    let s := if m.testBit 1 then s.setReg Adr.smNote note else s
    let s := if m.testBit 2 then s.setReg Adr.smDarkpol (BitVec.ofNat 32 (c.at 12 1)) else s
    (if m.testBit 3 then s.setReg Adr.cxLooprpt loop else s, Reply.ok [])

/-- SM_POLICY's row. -/
def execSmPolicy (set : Fin 3) (slot : Fin 8) (s : State) : Host.Outcome State Fault Refusal := .next (runCmd 0x0104 smPolicy set slot s)

/-! ### Jobs -/

/-- The state with a job replaced. Numbers 0 to 7 run; finished ones follow in the order they finished. -/
def setJob (s : State) (i : Nat) (j : Option Job) : State := { s with sm := { s.sm with jobs := Sparse.put (fun _ => none) s.sm.jobs i j } }
/-- A job by number. -/
def jobOf (s : State) (i : Nat) : Option Job := Sparse.get (fun _ => none) s.sm.jobs i

/-- A command goes on as a job (R498): a ninth gives BUSY. -/
def startJob (c : Cmd) (k : JobKind) (s : State) : State × Reply :=
  match (List.range 8).find? (fun i => (jobOf s i).isNone) with
  | none => (s, Reply.bare 0x09)
  | some i =>
    let id := s.sm.nextJob
    let s := setJob s i (some ⟨id, k, true, 0, 0, [], if c.byImage then c.cid else 0⟩)
    ({ s with sm := { s.sm with nextJob := if id = 0xFFFF then 1 else id + 1 } }, ⟨0x01, leBytes 2 id, [], false⟩)

/-- True where the table of jobs has room. -/
def jobFree (s : State) : Bool := (List.range 8).any (fun i => (jobOf s i).isNone)

/-- JOB_STATUS (R498, R501): a finished job is forgotten once it is read. How far a running one has come is a free value. -/
def jobStatus : CmdBody := fun c s =>
  match s.sm.jobs.findSome? (fun e => e.2.bind (fun j => if j.id = c.at 0 2 then some (e.1, j) else none)) with
  | none => (s, Reply.bare 0x0D)
  | some (i, j) =>
    if c.byImage && j.cid ≠ c.cid then (s, Reply.bare 0x07)
    else
      let show_ := fun (state progress : Nat) =>
        Reply.ok (leBytes 1 state ++ [0] ++ leBytes 2 j.status ++ leBytes 4 progress ++ (j.result ++ List.replicate 32 0).take 32)
      if j.running then
        let (s, v) := s.fresh
        (s, show_ 0 (v.toNat % 1001))
      else (setJob s i none, show_ 1 1000)

/-- JOB_STATUS's row. -/
def execJobStatus (set : Fin 3) (slot : Fin 8) (s : State) : Host.Outcome State Fault Refusal := .next (runCmd 0x0103 jobStatus set slot s)

/-- A job is finished (R498). -/
def finishJob (s : State) (i : Nat) (j : Job) (status : Nat) (result : List Byte) : State :=
  let last := s.sm.jobs.foldl (fun m e => max m e.1) 7
  setJob (setJob s i none) (last + 1) (some { j with running := false, status := status, progress := 1000, result := result })

/-- An image load ends (R505, R532): verified, installed and, where asked, started. -/
def endImageLoad (s : State) (i : Nat) (j : Job) (a flags : Nat) : State :=
  let (s, l) := loadImage s a (flags.testBit 1) (flags.testBit 2)
  if l.status ≠ 0 then finishJob s i j l.status (leBytes 2 l.detail ++ leBytes 2 l.off)
  else
    let s := finishJob s i j 0 (leBytes 2 l.cid)
    match flags.testBit 0, imageOfCid s l.cid with
    | true, some img => startImage s img 0 (if flags.testBit 1 then 1 else 0)
    | _, _ => s

/-- True where the work of a job that ends well is done. -/
def jobDone (s : State) (k : JobKind) : Bool :=
  match k with
  | .imageLoad _ _ _ => true
  | .repair n => 2 ≤ repState s n
  | .format w => !s.flag (Adr.shdCfg w) 1
  | .playback h => !s.flag (Adr.pbCtl h) 1

/-- What a job leaves for JOB_STATUS (R507, R508). -/
def jobResult (s : State) (k : JobKind) : List Byte :=
  match k with
  | .repair n => leBytes 1 n
  | .playback h => leBytes 4 (s.reg (Adr.pbCnt h)).toNat ++ leBytes 4 (s.reg (Adr.pbSkip h)).toNat
  | _ => []

/-- JOB_COMPLETE: an image load ends with the status that its checks give; other work ends well once it is done, or with the status that
the hardware's failure has. -/
def execJobComplete (i : Fin 8) (status : Byte) (s : State) : Host.Outcome State Fault Refusal :=
  .next (match jobOf s i.val with
    | none => s
    | some j =>
      if !portsAnswer s then s
      else
        match j.kind with
        | .imageLoad a flags _ => endImageLoad s i.val j a flags
        | k =>
          if status = 0 then (if jobDone s k then finishJob s i.val j 0 (jobResult s k) else s)
          else finishJob s i.val j status.toNat (leBytes 2 0 ++ leBytes 2 0xFFFF))

/-- JOB_EXPIRY: the i-th finished job has been kept for 1 h (R498). -/
def execJobExpiry (i : Fin 8) (s : State) : Host.Outcome State Fault Refusal :=
  .next (match ((s.sm.jobs.filter (fun e => 8 ≤ e.1))[i.val]?) with
    | some e => setJob s e.1 none
    | none => s)

end Sys2Proof.Machine
end

