-- ==== Sys2Proof/Machine/CmdImage.lean ====
section
/-! DEFINITION. Commands on images and units (R505), and dark cores restarted by the stage manager's policy (R491). -/

namespace Sys2Proof.Machine

/-! ### What a running job holds -/

/-- True where a job that runs acts on a CXL window (R498). -/
def busyWindow (s : State) (w : Nat) : Bool :=
  (runningJobs s).any (fun j => match j.kind with
    | .imageLoad a _ _ => decide (2 ^ 40 ≤ a) && decide (a < 2 ^ 42) && winOf a == w
    | .format v => v == w
    | _ => false)

/-- True where a playback job runs on a compressor. -/
def busyHc (s : State) (h : Nat) : Bool :=
  (runningJobs s).any (fun j => match j.kind with
    | .playback g => g == h
    | _ => false)

/-- True for an address in a CXL window. -/
def inWindow (a : Nat) : Bool := 2 ^ 40 ≤ a && a < 2 ^ 42

/-- True for a range of one CXL window. -/
def oneWindow (a n : Nat) : Bool := inWindow a && inWindow (a + n - 1) && winOf a == winOf (a + n - 1)

/-! ### Images -/

/-- IMAGE_CHUNK. -/
def imageChunk : CmdBody := fun c s =>
  let a := c.at 0 6
  let n := c.pay.length - 6
  let sram := decide (0x3000000 ≤ a) && decide (a + n ≤ 0x3400000)
  if !sram && !oneWindow a n then (s, Reply.badArg 0)
  else if !sram && !winOpen s (winOf a) then (s, Reply.bare 0x18)
  else if !sram && busyWindow s (winOf a) then (s, Reply.bare 0x09)
  else if grantedTo s a n 0 || meetsReserved s a n then (s, Reply.bare 0x0F)
  else if rangeError s a n || coversAbsent s a n then (s, Reply.bare 0x14)
  else (smStore s a (c.pay.drop 6), Reply.ok [])

/-- IMAGE_CHUNK's row. -/
def execImageChunk (set : Fin 3) (slot : Fin 8) (s : State) : Host.Outcome State Fault Refusal := .next (runCmd 0x0201 imageChunk set slot s)

/-- IMAGE_LOAD: the work is a job. -/
def imageLoad : CmdBody := fun c s =>
  let a := c.at 0 6
  let f := c.at 6 1
  if 8 ≤ f then (s, Reply.badArg 6)
  else if f.testBit 2 && c.code ≠ 1 then (s, Reply.bare 0x07)
  else if inWindow a && !winOpen s (winOf a) then (s, Reply.bare 0x18)
  else if inWindow a && busyWindow s (winOf a) then (s, Reply.bare 0x09)
  else startJob c (.imageLoad a f 0) s

/-- IMAGE_LOAD's row. -/
def execImageLoad (set : Fin 3) (slot : Fin 8) (s : State) : Host.Outcome State Fault Refusal := .next (runCmd 0x0202 imageLoad set slot s)

/-- IMAGE_UNLOAD. -/
def imageUnload : CmdBody := fun c s =>
  match imageOfCid s (c.at 0 2) with
  | none => (s, Reply.bare 0x0D)
  | some i => if imageStarted s i then (s, Reply.bare 0x16) else (unloadImage s i, Reply.ok [])

/-- IMAGE_UNLOAD's row. -/
def execImageUnload (set : Fin 3) (slot : Fin 8) (s : State) : Host.Outcome State Fault Refusal := .next (runCmd 0x0203 imageUnload set slot s)

/-- OVERLAY_LOAD: an overlay that passes takes over by an SM warm reset; one that fails leaves the layers that run as they are. -/
def overlayLoad : CmdBody := fun c s =>
  let a := c.at 0 6
  if inWindow a && !winOpen s (winOf a) then (s, Reply.bare 0x18)
  else
    match checkOverlay s a with
    | (s, .error k) => (notice s 242 0x54 (leBytes 1 k), Reply.fail 0x10 k 0xFFFF)
    | (s, .ok o) => ({ s with sm := { s.sm with overlay := some o } }, ⟨0, [], [], true⟩)

/-- OVERLAY_LOAD's row. -/
def execOverlayLoad (set : Fin 3) (slot : Fin 8) (s : State) : Host.Outcome State Fault Refusal := .next (runCmd 0x0204 overlayLoad set slot s)

/-! ### Units -/

/-- The image and the unit that UNIT_START and UNIT_STOP name, or the reply that refuses them. -/
def namedUnit (c : Cmd) (s : State) : Except Reply (Image × Nat) :=
  let u := c.at 2 2
  match imageOfCid s (c.at 0 2) with
  | none => .error (Reply.bare 0x0D)
  | some i =>
    if c.byImage && i.cid ≠ c.cid then .error (Reply.bare 0x07)
    else if !uibPresent u then .error (Reply.bare 0x0D)
    else if c.byImage && (rolesAt i u).isEmpty then .error (Reply.bare 0x07)
    else .ok (i, u)

/-- UNIT_START: a role on a dark or unpowered core cannot start. -/
def unitStart : CmdBody := fun c s =>
  match namedUnit c s with
  | .error r => (s, r)
  | .ok (i, u) =>
    let fresh := (rolesAt i u).filter (fun r => !(s.role r).started)
    if 2 ≤ c.at 4 1 then (s, Reply.badArg 4)
    else if fresh.any (fun r => !coreOn s (coreOf r) || coreDark s (coreOf r)) then (s, Reply.bare 0x16)
    else (startImage s i u (c.at 4 1), Reply.ok [])

/-- UNIT_START's row. -/
def execUnitStart (set : Fin 3) (slot : Fin 8) (s : State) : Host.Outcome State Fault Refusal := .next (runCmd 0x0301 unitStart set slot s)

/-- A role stops on command (R505): an open scene is lost (R336). The manual gives that abandonment no cause, so it is a free value. -/
def stopOnCommand (s : State) (r : Nat) : State :=
  let s := (stopRole s r).modRole r (fun x => { x with wentDark := false })
  if !recFlag s r 8 then s
  else
    let s := backOut s r
    let (s, v) := s.fresh
    let s := noteAbandon s r (v.toNat % 256) 0
    let x := s.scene r
    let s := s.setScene r { x with wings := [], ownFrame := false, effects := if x.releasing then x.effects else 0, retired := 0, jpos := 0, faults := 0 }
    setRecFlag (setRecFlag (setRecFlag s r 8 false) r 9 false) r 10 false

/-- UNIT_STOP. -/
def unitStop : CmdBody := fun c s =>
  match namedUnit c s with
  | .error r => (s, r)
  | .ok (i, u) => (((rolesAt i u).filter (fun r => (startedRoles s i).contains r)).foldl stopOnCommand s, Reply.ok [])

/-- UNIT_STOP's row. -/
def execUnitStop (set : Fin 3) (slot : Fin 8) (s : State) : Host.Outcome State Fault Refusal := .next (runCmd 0x0302 unitStop set slot s)

/-- A dark core restarts (R270, R491): the roles that reached dark start at vector 1, the others go on from where they froze, and the
core's dark bit clears. -/
def restartCore (s : State) (core : Nat) : State :=
  let s := (rolesOf core).foldl (fun s r =>
    if (s.role r).wentDark then startRole s r 1 3 else s.modRole r (fun x => { x with frozen := false })) s
  let s := { s with sm := { s.sm with darkHeld := s.sm.darkHeld.filter (· ≠ core) } }
  if core < 128 then s.setFlag (Adr.darkP (core / 32)) (core % 32) false else s.setFlag Adr.darkL (core - 128) false

/-- UNIT_RESTART. -/
def unitRestart : CmdBody := fun c s =>
  let u := c.at 0 2
  if !uibIsCore u then (s, Reply.bare 0x0D)
  else if !coreDark s (coreOfUib u) then (s, Reply.bare 0x16)
  else (restartCore s (coreOfUib u), Reply.ok [])

/-- UNIT_RESTART's row. -/
def execUnitRestart (set : Fin 3) (slot : Fin 8) (s : State) : Host.Outcome State Fault Refusal := .next (runCmd 0x0303 unitRestart set slot s)

/-- UNIT_HOLD. -/
def unitHold : CmdBody := fun c s =>
  let u := c.at 0 2
  if !uibPresent u then (s, Reply.bare 0x0D)
  else if 2 ≤ c.at 2 1 then (s, Reply.badArg 2)
  else if 16 ≤ c.at 3 1 then (s, Reply.badArg 3)
  else
    let s := writeHold s u (BitVec.ofNat 32 (c.at 2 1 + c.at 3 1 * 16))
    (s, Reply.ok (leBytes 1 (if unitHeld s u then 1 else 0)))

/-- UNIT_HOLD's row. -/
def execUnitHold (set : Fin 3) (slot : Fin 8) (s : State) : Host.Outcome State Fault Refusal := .next (runCmd 0x0304 unitHold set slot s)

/-! ### Dark cores -/

/-- Restarts of a core by the policy in the last hour (R491). -/
def darkRestarts (s : State) (core : Nat) : List Nat :=
  (Sparse.get (fun _ => []) s.sm.darkTimes core).filter (fun t => decide (s.metro.toNat < t + 3600000000))

/-- The policy of R491 meets a dark core. -/
def darkPolicy (s : State) (core : Nat) : State :=
  let l := darkRestarts s core
  if 3 ≤ l.length then
    notice { s with sm := { s.sm with darkHeld := s.sm.darkHeld ++ [core] } } (uibOfCore core) 0x55 []
  else
    let s := restartCore s core
    let s := { s with sm := { s.sm with darkTimes := Sparse.put (fun _ => []) s.sm.darkTimes core (l ++ [s.metro.toNat]) } }
    notice s (uibOfCore core) 0x52 (leBytes 1 (l.length + 1))

/-- DARK_AUTO_RESTART. -/
def execDarkAutoRestart (core : CoreId) (s : State) : Host.Outcome State Fault Refusal :=
  .next (if smRuns s && s.flag Adr.smDarkpol 0 && coreDark s core.val && !s.sm.darkHeld.contains core.val then darkPolicy s core.val else s)

end Sys2Proof.Machine
end

