-- ==== Sys2Proof/Machine/CmdPower.lean ====
section
/-! DEFINITION. Commands on power, house state and voltage (R499, R503 to R505, R543, R548, R628). -/

namespace Sys2Proof.Machine

/-! ### What a power request reaches -/

/-- Units that a power request at a unit acts on: the house itself keeps its own domains (R43, R543). -/
def actedUnits (s : State) (u : Nat) : List Nat := (selectedUnits s 3 u).filter (· ≠ 0)

/-- Domains that a request at one unit switches (R539, R543); a lead's is the one of the silicon that carries it. -/
def unitDoms (s : State) (u : Nat) : List Nat :=
  if 192 ≤ u && u ≤ 199 then
    match s.field Adr.lmap (2 * (u - 192) + 1) (2 * (u - 192)) with
    | 0 => [40 + (u - 192)]
    | 1 => [48]
    | 2 => [49]
    | _ => []
  else unitDomains u

/-- Physical player slots whose gates a request at one unit switches (R540, R543). A logical core with no carrier has none. -/
def unitGates (s : State) (u : Nat) : List Nat :=
  if 64 ≤ u && u ≤ 191 then (if carrier s (u - 64) = 7 then [] else [(u - 64) / 4 * 5 + carrier s (u - 64)])
  else if 208 ≤ u && u ≤ 239 then [(u - 208) * 5 + 4]
  else []

/-- Cores at or beneath a unit; a spare's is the one that it carries. -/
def unitCores (s : State) (u : Nat) : List Nat :=
  coresBeneath u ++
    (if 208 ≤ u && u ≤ 239 then (carriedBy s ((u - 208) * 5 + 4)).toList
    else if u = 240 || u = 241 then (carriedBy s (168 + (u - 240))).toList
    else [])

/-- Roles at or beneath the units that a power request acts on. -/
def actedRoles (s : State) (u : Nat) : List Nat := ((actedUnits s u).flatMap (unitCores s)).flatMap rolesOf

/-! ### Held units -/

/-- The held core whose UIB index a DEFERRED_HOLD gives (R503). -/
def heldCore (s : State) (roles : List Nat) : Option Nat := (roles.find? (fun r => (s.role r).onHold)).map uibOf

/-- A role is released by FORCE (R503, R612). -/
def forceRole (s : State) (r : Nat) : State :=
  let s := s.modRole r (fun x => { x with holdReq := false })
  if !(s.role r).onHold then s
  else releaseRole (if (s.role r).prompt then endPrompt (abandonWork s r 1).1 r 5 0 0 else s) r

/-- FORCE writes HOLD = 0 to the units of some roles and waits for their release (R503). -/
def forceRelease (s : State) (roles : List Nat) : State :=
  let held := roles.filter (fun r => (s.role r).onHold || (s.role r).holdReq)
  let s := ((held.flatMap (fun r => uibChain (uibOf r))).filter holdable).foldl (fun s u => s.setFlag (Adr.uibHold u) 0 false) s
  held.foldl forceRole s

/-! ### POWER_REQ -/

/-- Units that a running job acts on (R498). -/
def jobUnit (k : JobKind) (s : State) : Option Nat :=
  match k with
  | .imageLoad a _ _ => if inWindow a then some 243 else if onChip a then some (ownerUib a) else none
  | .format _ => some 243
  | .playback h => some (244 + h)
  | .repair n => some (ownerUib (bankBase (s.field (Adr.repEntry n) 7 0)))

/-- True where a pad or a peripheral is claimed (R543). -/
def anyClaim (s : State) : Bool := !s.sm.claims.isEmpty || (List.range 192).any (fun p => (padCid s p).isSome)

/-- The refusal of a power request by the state of its units (R505, R543): OFF with a started role, RETAIN with a role that neither waits nor
is unstarted, the CXL controller and the field I/O ring while they are in use. -/
def powerState (s : State) (u req : Nat) : Bool :=
  let acted := actedUnits s u
  let roles := (actedRoles s u).filter (fun r => (s.role r).started)
  (req == 3 && !roles.isEmpty) || (req == 2 && roles.any (fun r => !roleWaits s r)) ||
    (req != 1 && acted.contains 243 && (List.range 3).any (windowGranted s)) || (req != 1 && acted.contains 248 && anyClaim s)

/-- The reply that refuses a power request; none where it may act. -/
def powerRefused (s : State) (u req : Nat) (force : Bool) : Option Reply :=
  let acted := actedUnits s u
  if !uibPresent u then some (Reply.bare 0x0D)
  else if acted.any (fun v => [242, 246, 247, 249].contains v) then some (Reply.bare 0x07)
  else if powerState s u req then some (Reply.bare 0x16)
  else if (runningJobs s).any (fun j => (jobUnit j.kind s).any acted.contains) then some (Reply.bare 0x09)
  else
    match heldCore s (actedRoles s u) with
    | some v => if force then none else some (Reply.fail 0x0E v 0xFFFF)
    | none => none

/-- Setting code (R541) of a request: 1 ON, 2 RETAIN, 3 OFF (R30). -/
def requestCode (req : Nat) : Nat := if req = 1 then 0 else if req = 2 then 1 else 2

/-- A domain or a gate (128 + slot) is requested, and the SM's own table follows. A compressor drains before its domain leaves ON (R543). -/
def requestKey (v : Nat) (s : State) (key : Nat) : State :=
  let s := if (key = 57 || key = 58) && v ≠ 0 && domOn s key then drainHc s (key - 57) else s
  let s := setPowTab s key v
  if key < 128 then requestDom s key v else requestGate s ((key - 128) / 5) ((key - 128) % 5) v

/-- Domains and gates of a power request, a group's before its children's. -/
def powerKeys (s : State) (u : Nat) : List Nat :=
  (actedUnits s u).flatMap (fun v => unitDoms s v ++ (unitGates s v).map (128 + ·))

/-- A power request acts (R43, R543): what is to be ON is waited for. -/
def powerAct (s : State) (set slot u req : Nat) (force : Bool) : State :=
  let s := if force then forceRelease s (actedRoles s u) else s
  let keys := powerKeys s u
  let s := (if req = 1 then keys else keys.reverse).foldl (requestKey (requestCode req)) s
  let doms := keys.filter (fun k => k < 128 && domSetting s k ≠ 0)
  let gates := (keys.filter (fun k => 128 ≤ k && gateSetting s ((k - 128) / 5) ((k - 128) % 5) ≠ 0)).map (· - 128)
  if req ≠ 1 || (doms.isEmpty && gates.isEmpty) then s
  else { s with sm := { s.sm with cmdWait := some ⟨set, slot, doms, gates, false⟩ } }

/-- True where an image may send a power request: every unit that it acts on carries a role of the image (R497). -/
def imageMayPower (s : State) (cid u : Nat) : Bool :=
  match imageOfCid s cid with
  | some i => (selectedUnits s 3 u).all (fun v => v ≠ 0 && !(rolesAt i v).isEmpty)
  | none => false

/-- POWER_REQ. -/
def powerReq : CmdBody := fun c s =>
  let u := c.at 0 2
  let req := c.at 2 1
  let force := (c.at 3 1).testBit 0
  if !(1 ≤ req && req ≤ 3) then (s, Reply.badArg 2)
  else if 2 ≤ c.at 3 1 then (s, Reply.badArg 3)
  else if (force && c.code ≠ 5) || (c.byImage && !imageMayPower s c.cid u) then (s, Reply.bare 0x07)
  else
    match powerRefused s u req force with
    | some r => (s, r)
    | none => (powerAct s c.set c.slot u req force, Reply.ok [])

/-- The pending request of the lowest UIB runs as POWER_REQ with FORCE clear (R30, R31, R499). -/
def uibRequest (s : State) : State :=
  match (List.range 251).find? (fun u => uibPresent u && s.field (Adr.uibPwrreq u) 3 2 = 1) with
  | none => s
  | some u =>
    let req := s.field (Adr.uibPwrreq u) 1 0
    match powerRefused s u req false with
    | some r => endPwrreq s u r.status
    | none =>
      let s := powerAct s 3 u u req false
      if s.sm.cmdWait.isSome then s else endPwrreq s u 0

/-- POWER_REQ's row: the slot's command, or where the slot has none, a UIB's request. -/
def execPowerReq (set : Fin 3) (slot : Fin 8) (s : State) : Host.Outcome State Fault Refusal :=
  .next (if rowTakes s 0x0401 set.val slot.val then runCmd 0x0401 powerReq set slot s
    else if smRuns s && s.sm.cmdWait.isNone then uibRequest s
    else s)

/-! ### HOUSE_STATE -/

/-- Banks that bytes 4 to 21 name. -/
def retained (c : Cmd) : List Nat := (List.range 144).filter (fun n => (c.at (4 + n / 8) 1).testBit (n % 8))

/-- True for a SEGMENT that KEEP keeps: in a CXL window, or in retained banks. -/
def segmentKept (banks : List Nat) (g : Nat × Nat) : Bool :=
  inWindow g.1 || (List.range (g.2 / 0x10000 + 1)).all (fun i => banks.contains (bankOf (g.1 + i * 0x10000))) && banks.contains (bankOf (g.1 + g.2 - 1))

/-- The refusals of R548 for a target other than RUN, with the details they give. -/
def houseRefused (s : State) (t : Nat) (banks : List Nat) : Option Reply :=
  if houseNow s ≠ 0 then some (Reply.bare 0x16)
  else
    match (runningJobs s).head? with
    | some j => if 2 ≤ t then some (Reply.fail 0x09 j.id 0xFFFF) else none
    | none =>
      match s.sm.images.find? (fun i => imageStarted s i && i.segs.any (fun g => !segmentKept banks g)) with
      | some i => if t = 2 then some (Reply.fail 0x16 i.cid 0xFFFF) else if t = 4 && s.sm.walkNext.isNone then some (Reply.bare 0x16) else none
      | none => if t = 4 && s.sm.walkNext.isNone then some (Reply.bare 0x16) else none

/-- HOUSE_STATE: the response comes first, the entry after it (R504). RUN in NAP is a wake with source 8 (R558). -/
def houseState : CmdBody := fun c s =>
  let t := c.at 0 1
  let force := (c.at 1 1).testBit 0
  let all := (s.roles.filter (fun e => e.2.onHold)).map (fun e => e.1)
  if 6 ≤ t then (s, Reply.badArg 0)
  else if 2 ≤ c.at 1 1 then (s, Reply.badArg 1)
  else if force && c.code ≠ 5 then (s, Reply.bare 0x07)
  else if t = 0 then (startWake s 8 0, Reply.ok [])
  else
    match houseRefused s t (retained c), heldCore s all with
    | some r, _ => (s, r)
    | none, some u =>
      if force then
        let s := forceRelease s all
        ({ s with sm := { s.sm with entering := .answered t (retained c) } }, Reply.ok [])
      else (s, Reply.fail 0x0E u 0xFFFF)
    | none, none => ({ s with sm := { s.sm with entering := .answered t (retained c) } }, Reply.ok [])

/-- HOUSE_STATE's row. -/
def execHouseState (set : Fin 3) (slot : Fin 8) (s : State) : Host.Outcome State Fault Refusal := .next (runCmd 0x0402 houseState set slot s)

/-! ### Voltage and walk-through -/

/-- SET_VCORE: the command is answered once VID has reached its code (R53). -/
def setVcore : CmdBody := fun c s =>
  let v := c.at 0 1
  if 45 < v then (s, Reply.badArg 0)
  else
    let s := { s with sm := { s.sm with vidTarget := v } }
    if s.sm.vid = v then (s, Reply.ok (leBytes 1 v))
    else ({ s with sm := { s.sm with cmdWait := some ⟨c.set, c.slot, [], [], true⟩ } }, Reply.ok [])

/-- SET_VCORE's row. -/
def execSetVcore (set : Fin 3) (slot : Fin 8) (s : State) : Host.Outcome State Fault Refusal := .next (runCmd 0x0403 setVcore set slot s)

/-- WALK_CONFIG: the whole block is held for the next entry. -/
def walkConfig : CmdBody := fun c s =>
  let bad := (List.range 16).findSome? (fun i =>
    let lo := c.at (8 + 4 * i) 2
    let hi := c.at (10 + 4 * i) 2
    if 0xFFF < lo then some (8 + 4 * i) else if 0xFFF < hi then some (10 + 4 * i) else if hi < lo then some (8 + 4 * i) else none)
  if !(1 ≤ c.at 0 4 && c.at 0 4 ≤ 3600000) then (s, Reply.badArg 0)
  else
    match bad with
    | some o => (s, Reply.badArg o)
    | none => ({ s with sm := { s.sm with walkNext := some c.pay } }, Reply.ok [])

/-- WALK_CONFIG's row. -/
def execWalkConfig (set : Fin 3) (slot : Fin 8) (s : State) : Host.Outcome State Fault Refusal := .next (runCmd 0x0404 walkConfig set slot s)

end Sys2Proof.Machine
end

