-- ==== Sys2Proof/Machine/CmdWear.lean ====
section
/-! DEFINITION. Commands on spares and memory repair (R366, R371, R379, R380, R393, R507). -/

namespace Sys2Proof.Machine

/-! ### Retirement -/

/-- WEAR_POLICY. -/
def wearPolicy : CmdBody := fun c s =>
  let thr := c.at 0 2
  let faults := c.at 2 1
  let days := c.at 4 2
  if !(50 ≤ thr && thr ≤ 300) then (s, Reply.badArg 0)
  else if !(1 ≤ faults && faults ≤ 15) then (s, Reply.badArg 2)
  else if !(1 ≤ days && days ≤ 365) then (s, Reply.badArg 4)
  else if 2 ≤ c.at 6 1 then (s, Reply.badArg 6)
  else ({ s with sm := { s.sm with wear := ⟨thr, faults, days, c.at 6 1 == 1⟩ } }, Reply.ok [])

/-- WEAR_POLICY's row. -/
def execWearPolicy (set : Fin 3) (slot : Fin 8) (s : State) : Host.Outcome State Fault Refusal := .next (runCmd 0x0501 wearPolicy set slot s)

/-- True where a job acts on the domain or the unit of a core (R498). -/
def coreBusy (s : State) (core : Nat) : Bool :=
  (runningJobs s).any (fun j => (jobUnit j.kind s).any (fun u => (uibChain (uibOfCore core)).contains u && u ≠ 0))

/-- A core migrates on command to its spare (R368, R372). -/
def migrateNow (s : State) (core cause : Nat) : State :=
  let charged := (s.sm.due.filter (fun d => d.core == core)).flatMap (fun d => d.charged)
  if core < 128 then migrateCore s ⟨core, cause, charged⟩
  else
    match freeSpare s with
    | some k => migrateLead s (core - 128) k cause
    | none => s

/-- True for a core that silicon carries. -/
def coreCarried (s : State) (core : Nat) : Bool :=
  if core < 128 then carrier s core ≠ 7 else s.field Adr.lmap (2 * (core - 128) + 1) (2 * (core - 128)) ≠ 3

/-- RETIRE_DECIDE: with no spare an approved retirement leaves the core in service (R371). -/
def retireDecide : CmdBody := fun c s =>
  let u := c.at 0 2
  let core := coreOfUib u
  let p := physOf s core
  let s' := { s with sm := { s.sm with pendingRet := s.sm.pendingRet.filter (· ≠ p) } }
  if !uibIsCore u then (s, Reply.bare 0x0D)
  else if 2 ≤ c.at 2 1 then (s, Reply.badArg 2)
  else if !coreCarried s core || !s.sm.pendingRet.contains p then (s, Reply.bare 0x16)
  else if c.at 2 1 = 0 then (setDeclined s' p (some (slowOf s p)), Reply.ok [])
  else
    let cause := if s.sm.wear.thr ≤ slowOf s p then 1 else 2
    if coreBusy s core then (s, Reply.bare 0x09)
    else if spareFree s core then (migrateNow s' core cause, Reply.ok [])
    else (wearNotice s' core 0x24 cause, Reply.bare 0x12)

/-- RETIRE_DECIDE's row. -/
def execRetireDecide (set : Fin 3) (slot : Fin 8) (s : State) : Host.Outcome State Fault Refusal := .next (runCmd 0x0502 retireDecide set slot s)

/-- MIGRATE. -/
def migrate : CmdBody := fun c s =>
  let u := c.at 0 2
  let core := coreOfUib u
  if !uibIsCore u then (s, Reply.bare 0x0D)
  else if !coreCarried s core then (s, Reply.bare 0x16)
  else if coreBusy s core then (s, Reply.bare 0x09)
  else if spareFree s core then (migrateNow s core 5, Reply.ok [])
  else (s, Reply.bare 0x12)

/-- MIGRATE's row. -/
def execMigrate (set : Fin 3) (slot : Fin 8) (s : State) : Host.Outcome State Fault Refusal := .next (runCmd 0x0503 migrate set slot s)

/-- Number of the record that holds a retirement and that none revokes. -/
def retirement (s : State) (ty body : Nat) : Option Nat :=
  (List.range s.sm.records.length).find? (fun n => s.sm.records[n]? == some (ty, body) && !revoked s n)

/-- UNRETIRE: a type 0xF record, which acts at the next PORST_N (R380). -/
def unretire : CmdBody := fun c s =>
  let t := c.at 0 1
  let k := c.at 1 1
  let lead := decide (0x80 ≤ t)
  if !(t < 32 || (0x80 ≤ t && t < 0x8A)) then (s, Reply.badArg 0)
  else if (if lead then 1 else 4) ≤ k then (s, Reply.badArg 1)
  else
    match (if lead then retirement s 3 (t - 0x80) else retirement s 2 (t + k * 32)) with
    | none => (s, Reply.bare 0x0D)
    | some n => if 128 ≤ s.sm.records.length then (s, Reply.bare 0x12) else (addFuseRecord s 15 n, Reply.ok [])

/-- UNRETIRE's row. -/
def execUnretire (set : Fin 3) (slot : Fin 8) (s : State) : Host.Outcome State Fault Refusal := .next (runCmd 0x0504 unretire set slot s)

/-! ### Memory -/

/-- SCRUB_SET. -/
def scrubSet : CmdBody := fun c s =>
  if 2 ≤ c.at 0 1 then (s, Reply.badArg 0)
  else if !(1 ≤ c.at 1 1 && c.at 1 1 ≤ 168) then (s, Reply.badArg 1)
  else if !domOn s 51 then (s, Reply.bare 0x14)
  else (s.setReg Adr.scrubCtl (BitVec.ofNat 32 (c.at 0 1 + c.at 1 1 * 2 ^ 8)), Reply.ok [])

/-- SCRUB_SET's row. -/
def execScrubSet (set : Fin 3) (slot : Fin 8) (s : State) : Host.Outcome State Fault Refusal := .next (runCmd 0x0601 scrubSet set slot s)

/-- True for an ADDR that a bank and TYPE have (R378): a row of the bank, or a codeword bit and a column group. -/
def repairAddrOk (bank ty adr : Nat) : Bool := if ty = 0 then adr < (if bank < 32 then 128 else 256) else adr < 512 && adr % 128 < 80

/-- SRAM_REPAIR: the copy is a job. -/
def sramRepair : CmdBody := fun c s =>
  let bank := c.at 0 1
  let ty := c.at 1 1
  let adr := c.at 2 2
  if 144 ≤ bank then (s, Reply.badArg 0)
  else if 2 ≤ ty then (s, Reply.badArg 1)
  else if !repairAddrOk bank ty adr then (s, Reply.badArg 2)
  else if !powered s (bankBase bank) || !domOn s 51 then (s, Reply.bare 0x14)
  else if (repOf s bank ty).any (fun n => s.field (Adr.repEntry n) 17 9 == adr && repState s n == 1) || !jobFree s then (s, Reply.bare 0x09)
  else
    match repFree s bank ty, (startRepair s bank ty adr) with
    | some _, (t, some n) => startJob c (.repair n) t
    | _, _ => (s, Reply.bare 0x12)

/-- SRAM_REPAIR's row. -/
def execSramRepair (set : Fin 3) (slot : Fin 8) (s : State) : Host.Outcome State Fault Refusal := .next (runCmd 0x0602 sramRepair set slot s)

end Sys2Proof.Machine
end

