-- ==== Sys2Proof/Machine/CmdCxl.lean ====
section
/-! DEFINITION. Commands on the CXL port (R398, R403, R407, R414, R416, R417, R419, R507). -/

namespace Sys2Proof.Machine

/-- A register that a command has set is recorded at the entry to KEEP (R553). -/
def touch (s : State) (a : Nat) : State :=
  if s.sm.regWritten.contains a then s else { s with sm := { s.sm with regWritten := s.sm.regWritten ++ [a] } }

/-- A register written as the SM and marked. -/
def smWrite (s : State) (a : Nat) (v : Nat) : State := touch (devWrite s .sm a (BitVec.ofNat 32 v)) a

/-- CXL_CONFIG: CTO and DIRTYMAX at once, the rest at the next PORST_N (R403). -/
def cxlConfig : CmdBody := fun c s =>
  let mode := c.at 0 1
  let winc := c.at 2 1
  let dirty := c.at 6 2
  if 3 ≤ mode then (s, Reply.badArg 0)
  else if 3 ≤ c.at 1 1 then (s, Reply.badArg 1)
  else if 3 ≤ winc || (winc ≠ 0 && mode ≠ 1) then (s, Reply.badArg 2)
  else if 2 ≤ c.at 3 1 then (s, Reply.badArg 3)
  else if 5 ≤ c.at 4 1 then (s, Reply.badArg 4)
  else if !(64 ≤ dirty && dirty ≤ 10240) then (s, Reply.badArg 6)
  else if !domOn s 54 then (s, Reply.bare 0x14)
  else
    let s := (s.setField Adr.cxlCfg 10 8 (c.at 4 1)).setField Adr.cxlDir 29 16 dirty
    ({ s with sm := { s.sm with cxlNext := some (mode, c.at 1 1, winc, c.at 3 1) } }, Reply.ok [])

/-- CXL_CONFIG's row. -/
def execCxlConfig (set : Fin 3) (slot : Fin 8) (s : State) : Host.Outcome State Fault Refusal := .next (runCmd 0x0701 cxlConfig set slot s)

/-- True where a window range that a decoder of a port maps is granted to a started image. -/
def decoderGranted (s : State) (p n : Nat) : Bool :=
  match decoder s p n with
  | some (b, z, _, w) => grantedTo s ((if w = 1 then 3 else p + 1) * 2 ^ 40 + b * 2 ^ 28) (decSpan s w z * 2 ^ 28) 0
  | none => false

/-- CXL_DECODER: a set that breaks a rule of R407 stays as it was. The decoder of a port whose device is unknown lies within no capacity. -/
def cxlDecoder : CmdBody := fun c s =>
  let p := c.at 0 1
  let n := c.at 1 1
  let map := c.at 2 2 + c.at 4 2 * 2 ^ 16
  let ctl := c.at 6 2 + c.at 8 1 * 2 ^ 12 + c.at 9 1 * 2 ^ 14
  let known := if p = 0 then s.cxl.dev0.isSome else s.cxl.dev1.isSome
  if 2 ≤ p then (s, Reply.badArg 0)
  else if 4 ≤ n then (s, Reply.badArg 1)
  else if 2 ≤ c.at 9 1 then (s, Reply.badArg 9)
  else if !portExists s p then (s, Reply.bare 0x0D)
  else if 2 ≤ c.at 8 1 then (s, Reply.fail 0x0C 1 8)
  else if 0xFFF < c.at 2 2 then (s, Reply.fail 0x0C 5 2)
  else if 0x1FFF < c.at 4 2 then (s, Reply.fail 0x0C 5 4)
  else if 0xFFF < c.at 6 2 || (!known && c.at 9 1 = 1) then (s, Reply.fail 0x0C 3 6)
  else if !domOn s 54 then (s, Reply.bare 0x14)
  else if busyWindow s p || busyWindow s 2 then (s, Reply.bare 0x09)
  else
    let t := (s.setReg (Adr.hdmMap p n) (BitVec.ofNat 32 map)).setReg (Adr.hdmCtl p n) (BitVec.ofNat 32 ctl)
    if decoderGranted s p n || decoderGranted t p n then (s, Reply.bare 0x0F)
    else
      match ([(0, 0), (0, 1), (0, 2), (0, 3), (1, 0), (1, 1), (1, 2), (1, 3)].filterMap (fun (x : Nat × Nat) => decoderRule t x.1 x.2)).min? with
      | some r => (s, Reply.fail 0x0C r 0xFFFF)
      | none =>
        let t := commitDecoders t false
        (t, Reply.ok (leBytes 1 (t.field (Adr.hdmCtl p n) 15 15)))

/-- CXL_DECODER's row. -/
def execCxlDecoder (set : Fin 3) (slot : Fin 8) (s : State) : Host.Outcome State Fault Refusal := .next (runCmd 0x0702 cxlDecoder set slot s)

/-- CXL_SHADOW (R398): FORMAT is a job. -/
def cxlShadow : CmdBody := fun c s =>
  let w := c.at 0 1
  let act := c.at 1 1
  if 3 ≤ w then (s, Reply.badArg 0)
  else if 3 ≤ act then (s, Reply.badArg 1)
  else if windowGranted s w then (s, Reply.bare 0x0F)
  else if busyWindow s w || (act = 1 && !jobFree s) then (s, Reply.bare 0x09)
  else if !winOpen s w then (s, Reply.bare 0x18)
  else
    let s := s.setField (Adr.shdCfg w) 1 0 (if act = 0 then 0 else if act = 1 then 3 else 1)
    if act = 1 then startJob c (.format w) s else (s, Reply.ok [])

/-- CXL_SHADOW's row. -/
def execCxlShadow (set : Fin 3) (slot : Fin 8) (s : State) : Host.Outcome State Fault Refusal := .next (runCmd 0x0703 cxlShadow set slot s)

/-- CXL_PORT: a port that is up has nothing to retry, and one that is down no link to take down. A retry compares the serial anew. -/
def cxlPort : CmdBody := fun c s =>
  let p := c.at 0 1
  if 2 ≤ p then (s, Reply.badArg 0)
  else if 2 ≤ c.at 1 1 then (s, Reply.badArg 1)
  else if !portExists s p then (s, Reply.bare 0x0D)
  else if !domOn s 54 then (s, Reply.bare 0x14)
  else if busyWindow s p || busyWindow s 2 then (s, Reply.bare 0x09)
  else if linkUp s p == (c.at 1 1 == 0) then (s, Reply.bare 0x16)
  else if c.at 1 1 = 0 then ((s.setField (Adr.cxlLink p) 15 12 0).setFlag (Adr.cxlLink p) 11 false, Reply.ok [])
  else (linkDown (cxlError s p 12 none 0) p, Reply.ok [])

/-- CXL_PORT's row. -/
def execCxlPort (set : Fin 3) (slot : Fin 8) (s : State) : Host.Outcome State Fault Refusal := .next (runCmd 0x0704 cxlPort set slot s)

/-- The good port of a mirror whose AON record is lost (R419): the other port is copied from it. -/
def chooseGood (s : State) (p : Nat) : State × Reply :=
  if winC s ≠ 2 || s.sm.mirrorRec.isSome || !linkUp s p then (s, Reply.bare 0x16)
  else
    let s := recordGood { s with cxl := { s.cxl with pos := 0 } } (some p)
    if linkUp s (1 - p) then (startResync s (1 - p), Reply.ok []) else (s.setField Adr.cxlMir 2 0 (2 + p), Reply.ok [])

/-- CXL_MIRROR. -/
def cxlMirror : CmdBody := fun c s =>
  let a := c.at 0 1
  let x := c.at 1 1
  if 4 ≤ a then (s, Reply.badArg 0)
  else if (if a ≤ 1 then 2 else if a = 2 then 3 else 64) ≤ x then (s, Reply.badArg 1)
  else if !domOn s 54 then (s, Reply.bare 0x14)
  else
    match a with
    | 0 => (s.setField Adr.cxlMir 3 3 x, Reply.ok [])
    | 1 => chooseGood s x
    | 2 => (s.setFlag (Adr.cxlWin x) 15 false, Reply.ok [])
    | _ => if s.flag (Adr.cxlFail0 x) 0 then (freeFail s x, Reply.ok []) else (s, Reply.bare 0x0D)

/-- CXL_MIRROR's row. -/
def execCxlMirror (set : Fin 3) (slot : Fin 8) (s : State) : Host.Outcome State Fault Refusal := .next (runCmd 0x0705 cxlMirror set slot s)

end Sys2Proof.Machine
end

