-- ==== Sys2Proof/Machine/CmdHc.lean ====
section
/-! DEFINITION. Commands on the historian compressors (R430 to R432, R450, R453, R508). -/

namespace Sys2Proof.Machine

/-- True where the domain of a compressor is ON. -/
def hcPowered (s : State) (h : Nat) : Bool := domOn s (57 + h)

/-- True where an installed image holds W over a range. -/
def writeGranted (s : State) (lo n : Nat) : Bool :=
  s.sm.images.any (fun i => i.cores.any (fun c => c.grants.any (fun g =>
    !g.flags.testBit 0 && g.perm.toNat.testBit permW && overlaps g.base g.len lo n)))

/-- True for a table or build area that R430 and R431 allow: in house SRAM or one CXL window, with no grant of W over it, outside set 1
and the tables of the other compressor. An empty one lies nowhere. -/
def placeOk (s : State) (h lo n : Nat) : Bool :=
  n = 0 || (((0x3000000 ≤ lo && lo + n ≤ 0x3400000) || oneWindow lo n) && !writeGranted s lo n &&
    !((set1Base, 0x800) :: hcTables s (1 - h)).any (fun r => overlaps lo n r.1 r.2))

/-- True for a range that can be reached: in SRAM, or in an open window. -/
def placeReady (s : State) (lo n : Nat) : Bool := n = 0 || !inWindow lo || winOpen s (winOf lo)

/-- HC_SETUP. -/
def hcSetup : CmdBody := fun c s =>
  let h := c.at 0 1
  let cx := c.at 2 6
  let n := c.at 8 2
  let bd := c.at 10 6
  if 2 ≤ h then (s, Reply.badArg 0)
  else if 2 ≤ c.at 1 1 then (s, Reply.badArg 1)
  else if 0x8000 < n then (s, Reply.badArg 8)
  else if cx % 0x1000 ≠ 0 || !placeOk s h cx (n * 64) then (s, Reply.badArg 2)
  else if bd % 0x8000 ≠ 0 || !placeOk s h bd (n * 0x8000) || overlaps cx (n * 64) bd (n * 0x8000) then (s, Reply.badArg 10)
  else if !hcPowered s h || !placeReady s cx (n * 64) || !placeReady s bd (n * 0x8000) then (s, Reply.bare 0x18)
  else if busyHc s h then (s, Reply.bare 0x09)
  else
    let s := smWrite s (Adr.hcCtl h) 0
    let s := smWrite (smWrite s (Adr.hcCtxl h) (cx % 2 ^ 32)) (Adr.hcCtxh h) (cx / 2 ^ 32 + n * 2 ^ 16)
    let s := smWrite (smWrite s (Adr.hcBldl h) (bd % 2 ^ 32)) (Adr.hcBldh h) (bd / 2 ^ 32)
    (smWrite (smWrite s (Adr.hcAge h) (c.at 16 2)) (Adr.hcCtl h) (c.at 1 1), Reply.ok [])

/-- HC_SETUP's row. -/
def execHcSetup (set : Fin 3) (slot : Fin 8) (s : State) : Host.Outcome State Fault Refusal := .next (runCmd 0x0801 hcSetup set slot s)

/-- The descriptor of the playback that runs on a compressor. -/
def playing (s : State) (h : Nat) : Option (List Byte) := if busyHc s h then (hcOf s h).play else none

/-- HC_RING: EN is cleared first, as the ring's registers take writes only while it is 0 (R462). -/
def hcRing : CmdBody := fun c s =>
  let h := c.at 0 1
  let r := c.at 1 1
  let b := c.at 2 6
  let f := c.at 9 1
  if 2 ≤ h then (s, Reply.badArg 0)
  else if 4 ≤ r then (s, Reply.badArg 1)
  else if !(4 ≤ c.at 8 1 && c.at 8 1 ≤ 26) then (s, Reply.badArg 8)
  else if 4 ≤ f then (s, Reply.badArg 9)
  else if b % 0x1000 ≠ 0 || !oneWindow b ((2 ^ c.at 8 1 + 1) * 0x1000) then (s, Reply.badArg 2)
  else if !hcPowered s h || !winOpen s (winOf b) then (s, Reply.bare 0x18)
  else if busyWindow s (winOf b) || (playing s h).any (fun d => at_ d 0 1 == r) then (s, Reply.bare 0x09)
  else
    let cfg := b / 2 ^ 32 + c.at 8 1 * 2 ^ 16 + f % 2 * 2 ^ 21
    let s := smWrite s (Adr.rngCfg h r) cfg
    let s := smWrite (smWrite s (Adr.rngCfg h r) cfg) (Adr.rngBasel h r) (b % 2 ^ 32)
    let s := if f.testBit 1 then smWrite s (Adr.rngCfg h r) (cfg + 2 ^ 22) else s
    (s, Reply.ok (leBytes 4 (s.reg (Adr.rngProd h r)).toNat))

/-- HC_RING's row. -/
def execHcRing (set : Fin 3) (slot : Fin 8) (s : State) : Host.Outcome State Fault Refusal := .next (runCmd 0x0802 hcRing set slot s)

/-- HC_CHANNEL: through HC_CMD; its high channel bit names the compressor (R429). -/
def hcChannel : CmdBody := fun c s =>
  let chan := c.at 0 2
  let h := chan / 0x8000
  let op := c.at 2 1
  if !(1 ≤ op && op ≤ 4) then (s, Reply.badArg 2)
  else if !hcPowered s h || !s.flag (Adr.hcCtl h) 0 then (s, Reply.bare 0x18)
  else if s.flag (Adr.hcCmd h) 19 || (playing s h).any (fun d => at_ d 2 2 == chan) then (s, Reply.bare 0x09)
  else
    let s := devWrite s .sm (Adr.hcCmdcfg h) (BitVec.ofNat 32 (c.at 4 4))
    let s := devWrite s .sm (Adr.hcCmdper h) (BitVec.ofNat 32 (c.at 8 4))
    let s := devWrite s .sm (Adr.hcCmd h) (BitVec.ofNat 32 (chan + op * 2 ^ 16 + 2 ^ 20))
    if s.flag (Adr.hcCmd h) 20 then (s, Reply.fail 0x0C (s.field (Adr.hcCmd h) 23 21) 0xFFFF) else (s, Reply.ok [])

/-- HC_CHANNEL's row. -/
def execHcChannel (set : Fin 3) (slot : Fin 8) (s : State) : Host.Outcome State Fault Refusal := .next (runCmd 0x0803 hcChannel set slot s)

/-- True for a descriptor whose fields are in range and whose zero bytes are (R453). -/
def descriptorOk (d : List Byte) : Bool :=
  at_ d 0 1 < 4 && at_ d 1 1 == 0 && at_ d 28 6 % 16 == 0 && at_ d 34 2 == 0 && leNat (d.drop 40) == 0 &&
    (at_ d 28 6 + 16 * at_ d 36 4 ≤ 0x3400000 || at_ d 36 4 == 0 || oneWindow (at_ d 28 6) (16 * at_ d 36 4))

/-- True where a grant of an image holds W over a range. -/
def imageHolds (s : State) (cid lo n : Nat) : Bool :=
  n = 0 || s.sm.images.any (fun i => i.cid == cid && i.cores.any (fun c => c.grants.any (fun g =>
    !g.flags.testBit 0 && g.perm.toNat.testBit permW && g.base ≤ lo && lo + n ≤ g.base + g.len)))

/-- HC_PLAYBACK: the scan is a job. -/
def hcPlayback : CmdBody := fun c s =>
  let h := c.at 0 1
  let a := c.at 2 6
  if 2 ≤ h then (s, Reply.badArg 0)
  else if a % 64 ≠ 0 then (s, Reply.badArg 2)
  else if !hcPowered s h || (inWindow a && !winOpen s (winOf a)) then (s, Reply.bare 0x18)
  else if busyHc s h || s.flag (Adr.pbCtl h) 1 || !jobFree s then (s, Reply.bare 0x09)
  else
    match readMem (recallLoads s none a 64) agentSm a 64 with
    | (s, .error _) => (s, Reply.bare 0x14)
    | (s, .ok d) =>
      let out := at_ d 28 6
      let n := 16 * at_ d 36 4
      if !descriptorOk d then (s, Reply.badArg 2)
      else if c.byImage && !imageHolds s c.cid out n then (s, Reply.bare 0x07)
      else if !c.byImage && (grantedTo s out n 0 || meetsReserved s out n) then (s, Reply.bare 0x0F)
      else
        let s := devWrite s .sm (Adr.pbDescl h) (BitVec.ofNat 32 a)
        let s := devWrite s .sm (Adr.pbDesch h) (BitVec.ofNat 32 (a / 2 ^ 32))
        startJob c (.playback h) (devWrite s .sm (Adr.pbCtl h) 1)

/-- HC_PLAYBACK's row. -/
def execHcPlayback (set : Fin 3) (slot : Fin 8) (s : State) : Host.Outcome State Fault Refusal := .next (runCmd 0x0804 hcPlayback set slot s)

end Sys2Proof.Machine
end

