-- ==== Sys2Proof/Machine/CmdCue.lean ====
section
/-! DEFINITION. Commands on cue routes, fires, claims and latched pads (R285, R508, R509, R524, R588). -/

namespace Sys2Proof.Machine

/-! ### Routes -/

/-- True where a CID may route to a consumer (R509): its own roles' WAITCUE inputs and its own items; a queue belongs to none. -/
def routeOwned (s : State) (cid id : Nat) : Bool :=
  let role := fun r => match imageOfCid s cid with
    | some i => cid ≠ 0 && i.roles.contains r
    | none => false
  if 0x1000 ≤ id then role ((id - 0x1000) / 4)
  else if 0x200 ≤ id && id < 0x2C0 then padCid s (id - 0x200) == some cid
  else if 0x300 ≤ id && id < 0x304 then claimOf s 3 (id - 0x300) == some cid
  else if 0x400 ≤ id && id < 0x440 then claimOf s 4 (id - 0x400) == some cid
  else if 0x500 ≤ id && id < 0x548 then claimOf s 1 ((id - 0x500) / 4) == some cid
  else if 0x560 ≤ id && id < 0x580 then claimOf s 2 ((id - 0x560) / 4) == some cid
  else true

/-- The first route of a command that its CID does not own: 0 to 3, or 4 for the call-sheet route. -/
def routeConflict (s : State) (c : Cmd) : Option Nat :=
  let cid := c.at 0 2
  let rt := (List.range 4).find? (fun k =>
    let w := BitVec.ofNat 32 (c.at (12 + 4 * k) 4)
    bit w 16 && legalRoute (bits w 12 0) (bits w 18 17) && !routeOwned s cid (bits w 12 0))
  let cs := BitVec.ofNat 32 (c.at 8 4)
  rt.orElse fun _ => if bit cs 16 && !badSheet cs && !routeOwned s cid (0x1000 + 4 * bits cs 9 0) then some 4 else none

/-- The writes of CUE_ROUTE after EN is cleared: register, address, payload offset, in order (R509). -/
def routeWrites (ch : Nat) : List (Reg × Nat × Nat) :=
  [(.chCs, Adr.chCs ch, 8), (.chRt, Adr.chRt ch 0, 12), (.chRt, Adr.chRt ch 1, 16), (.chRt, Adr.chRt ch 2, 20), (.chRt, Adr.chRt ch 3, 24)]

/-- Writes of routing registers in order: the first that R285 refuses ends them, and is answered by its offset. -/
def writeRoutes (c : Cmd) (s : State) : List (Reg × Nat × Nat) → State × Option Nat
  | [] => (s, none)
  | (g, a, o) :: rest =>
    let v := BitVec.ofNat 32 (c.at o 4)
    let t := smWrite s a (c.at o 4)
    if badRoute g v then (t, some o) else writeRoutes c t rest

/-- Queues that the routes of a command push to. -/
def routedQueues (c : Cmd) : List Nat :=
  (List.range 4).filterMap (fun k =>
    let w := BitVec.ofNat 32 (c.at (12 + 4 * k) 4)
    if bit w 16 && 0x800 ≤ bits w 12 0 && bits w 12 0 < 0x950 then some (bits w 12 0 - 0x800) else none)

/-- CUE_ROUTE: a write that is refused leaves the channel with EN = 0. -/
def cueRoute : CmdBody := fun c s =>
  let ch := c.at 2 2
  if 1024 ≤ ch then (s, Reply.bare 0x0D)
  else if 2 ≤ c.at 32 1 then (s, Reply.badArg 32)
  else if !domOn s 51 then (s, Reply.bare 0x14)
  else
    match routeConflict s c with
    | some k => (s, Reply.fail 0x0F k 0xFFFF)
    | none =>
      let s := touch (s.setFlag (Adr.chSrc ch) 16 false) (Adr.chSrc ch)
      match writeRoutes c s (routeWrites ch) with
      | (s, some o) => (s, Reply.badArg o)
      | (s, none) =>
        let s := if c.at 32 1 = 1 then (routedQueues c).foldl (fun s q => smWrite s (Adr.cqConst q) (c.at 28 4)) s else s
        match writeRoutes c s [(.chSrc, Adr.chSrc ch, 4)] with
        | (s, some o) => (s, Reply.badArg o)
        | (s, none) => (s, Reply.ok [])

/-- CUE_ROUTE's row. -/
def execCueRoute (set : Fin 3) (slot : Fin 8) (s : State) : Host.Outcome State Fault Refusal := .next (runCmd 0x0901 cueRoute set slot s)

/-- CUE_FIRE: with every SM latch full there is no place for the fire. -/
def cueFire : CmdBody := fun c s =>
  if 1024 ≤ c.at 0 2 then (s, Reply.bare 0x0D)
  else if !domOn s 51 then (s, Reply.bare 0x14)
  else
    match fireSm s (c.at 0 2) ((c.pay.drop 2).take 6) with
    | some s => (s, Reply.ok [])
    | none => (s, Reply.bare 0x09)

/-- CUE_FIRE's row. -/
def execCueFire (set : Fin 3) (slot : Fin 8) (s : State) : Host.Outcome State Fault Refusal := .next (runCmd 0x0902 cueFire set slot s)

/-! ### Claims -/

/-- Items that PIN_CLAIM and PIN_RELEASE name, or the reply that refuses their layout. -/
def pinItems (c : Cmd) (s : State) : Except Reply (List Nat) :=
  let n := c.at 3 1
  let items := (List.range n).map (fun i => c.at (4 + 2 * i) 2)
  if 0xFFE < c.at 0 2 then .error (Reply.badArg 0)
  else if 5 ≤ c.at 2 1 then .error (Reply.badArg 2)
  else if c.pay.length ≠ 4 + 2 * n then .error (Reply.badArg 3)
  else
    match (List.range n).find? (fun i => !itemOk s (c.at 2 1) (c.at (4 + 2 * i) 2)) with
    | some i => .error (Reply.badArg (4 + 2 * i))
    | none => if c.at 2 1 ≤ 2 && !domOn s 59 then .error (Reply.bare 0x14) else .ok items

/-- PIN_CLAIM. -/
def pinClaim : CmdBody := fun c s =>
  match pinItems c s with
  | .error r => (s, r)
  | .ok items =>
    match claimItems s (c.at 0 2) (c.at 2 1) items with
    | (s, some owner) => (s, Reply.fail 0x0F owner 0xFFFF)
    | (s, none) => (s, Reply.ok [])

/-- PIN_CLAIM's row. -/
def execPinClaim (set : Fin 3) (slot : Fin 8) (s : State) : Host.Outcome State Fault Refusal := .next (runCmd 0x0A01 pinClaim set slot s)

/-- PIN_RELEASE. -/
def pinRelease : CmdBody := fun c s =>
  match pinItems c s with
  | .error r => (s, r)
  | .ok items =>
    let kind := c.at 2 1
    if items.any (fun i => !holdsItem s (c.at 0 2) kind i) then (s, Reply.bare 0x0D)
    else
      match (List.range items.length).find? (fun k => kind == 0 && padFunc s ((items[k]?).getD 0) != 0) with
      | some k => (s, Reply.fail 0x16 k 0xFFFF)
      | none => (releaseItems s kind items, Reply.ok [])

/-- PIN_RELEASE's row. -/
def execPinRelease (set : Fin 3) (slot : Fin 8) (s : State) : Host.Outcome State Fault Refusal := .next (runCmd 0x0A02 pinRelease set slot s)

/-- PAD_RELEASE: an image releases its own pads only (R497). -/
def padRelease : CmdBody := fun c s =>
  let pads := (List.range 192).filter (fun p => (c.at (p / 8) 1).testBit (p % 8))
  if c.byImage && pads.any (fun p => padCid s p != some c.cid) then (s, Reply.bare 0x07)
  else (pads.foldl releasePad s, Reply.ok [])

/-- PAD_RELEASE's row. -/
def execPadRelease (set : Fin 3) (slot : Fin 8) (s : State) : Host.Outcome State Fault Refusal := .next (runCmd 0x0A03 padRelease set slot s)

end Sys2Proof.Machine
end

