-- ==== Sys2Proof/Machine/CmdRegs.lean ====
section
/-! DEFINITION. Peeks (R11, R606), and commands on registers, the log, time, fuses and debug (R510 to R518). -/

namespace Sys2Proof.Machine

/-! ### Peeks -/

/-- What a peek finds: a status of R495 (0, NOPEEK or HWERROR), the word, and of a QDATA its tags and whether it is empty or has an unfilled
slot at its head (R606). -/
structure Peek where
  status : Nat
  word : Word
  tags : Nat
  empty : Bool
  unfilled : Bool
deriving DecidableEq, Repr

/-- A peek that finds a word. -/
def Peek.ok (w : Word) : Peek := ⟨0, w, 0, false, false⟩
/-- A peek that ends with a status. -/
def Peek.fail (status : Nat) : Peek := ⟨status, 0, 0, false, false⟩

/-- A peek of QDATA (R606): nothing is popped, corrected in place or counted. -/
def peekQueue (s : State) (q : Nat) : Peek :=
  match (s.queue q).stages with
  | [] => ⟨0, 0, 0, true, false⟩
  | g :: _ =>
    if g.slot && !g.filled then ⟨0, 0, 0, false, true⟩
    else if 320 ≤ q then (if g.err = 2 then Peek.fail 0x14 else ⟨0, g.data, stageTags g false, false, false⟩)
    else ⟨0, g.data, stageTags g (g.poison || g.err ≠ 0), false, false⟩

/-- A peek of a word of the device region (R11, R606): the session engine's block and words of stopped clocks answer NOPEEK. -/
def peekDev (s : State) (a : Nat) : State × Peek :=
  if loadError s a then (s, Peek.fail 0x14)
  else
    match regionOf a with
    | .port q => (s, peekQueue s q)
    | .block 247 => (s, Peek.fail 0x13)
    | _ =>
      if !clockOn s a then (s, Peek.fail 0x13)
      else if pwmPosition s a then
        let (s, v) := s.fresh
        (s, Peek.ok (BitVec.ofNat 32 v.toNat))
      else (s, Peek.ok (regValue s a))

/-! ### Registers -/

/-- Peeks of n words from an address on (R515): the words, the mask of those with NP, and the index of the first that is absent. -/
def peekRun (a i : Nat) : Nat → State → State × List Word × Nat × Option Nat
  | 0, s => (s, [], 0, none)
  | n + 1, s =>
    let (s, p) := peekDev s (a + 4 * i)
    if p.status = 0x14 then (s, [], 0, some i)
    else
      let (s, l, m, e) := peekRun a (i + 1) n s
      (s, p.word :: l, m + (if p.status = 0x13 then 2 ^ i else 0), e)

/-- True for a word address of the device region (R246). -/
def devWordAddr (a : Nat) : Bool := a % 4 = 0 && 0x10000000 ≤ a && a < 0x11100000

/-- REG_READ (R515). -/
def regRead : CmdBody := fun c s =>
  let n := c.at 6 1
  if !devWordAddr (c.at 0 6) then (s, Reply.badArg 0)
  else if n = 0 || 52 < n then (s, Reply.badArg 6)
  else
    match peekRun (c.at 0 6) 0 n s with
    | (s, _, _, some i) => (s, Reply.fail 0x14 i 0xFFFF)
    | (s, l, m, none) => (s, ⟨if m = 0 then 0 else 0x13, leBytes 8 m ++ l.flatMap (fun w => leBytes 4 w.toNat), [], false⟩)

/-- REG_READ's row. -/
def execRegRead (set : Fin 3) (slot : Fin 8) (s : State) : Host.Outcome State Fault Refusal := .next (runCmd 0x0B01 regRead set slot s)

/-- Registers that another command reaches, and UIB_HOLD (R516). -/
def otherCommands (g : Reg) : Bool :=
  match g with
  | .uibHold | .chSrc | .chCs | .chRt | .cqConst | .cxLooprpt | .csBasel | .csCfg | .scnQr | .scnCast | .scrubCtl | .cxlCfg | .hdmMap | .hdmCtl
  | .shdCfg | .hcCtl | .hcCtxl | .hcCtxh | .hcBldl | .hcBldh | .hcAge | .hcCmd | .hcCmdcfg | .hcCmdper | .rngBasel | .rngCfg | .pbDescl
  | .pbDesch | .pbCtl | .tmap | .lmap => true
  | _ => false

/-- True for a word that REG_WRITE refuses (R516). -/
def writeDenied (a : Nat) : Bool :=
  (match regionOf a with
    | .uib i | .block i => i == 242 || i == 247 || i == 249
    | _ => false) ||
  (match regAt a with
    | some x => otherCommands x.d.reg
    | none => false)

/-- Writes of a run of words by the SM (R516): the index of the first that draws an error response; the words before it stay written. -/
def writeRun (c : Cmd) (a i : Nat) : Nat → State → State × Option Nat
  | 0, s => (s, none)
  | n + 1, s =>
    let b := a + 4 * i
    if isPort b || storeError s b then (s, some i)
    else writeRun c a (i + 1) n (touch (arriveWrite s .sm b (BitVec.ofNat 32 (c.at (8 + 4 * i) 4))) b)

/-- REG_WRITE (R516). -/
def regWrite : CmdBody := fun c s =>
  let a := c.at 0 6
  let n := c.at 6 1
  if !devWordAddr a then (s, Reply.badArg 0)
  else if c.pay.length ≠ 8 + 4 * n then (s, Reply.badArg 6)
  else if (List.range n).any (fun i => writeDenied (a + 4 * i)) then (s, Reply.bare 0x07)
  else
    match writeRun c a 0 n s with
    | (s, some i) => (s, Reply.fail 0x14 i 0xFFFF)
    | (s, none) => (s, Reply.ok [])

/-- REG_WRITE's row. -/
def execRegWrite (set : Fin 3) (slot : Fin 8) (s : State) : Host.Outcome State Fault Refusal := .next (runCmd 0x0B02 regWrite set slot s)

/-! ### The log -/

/-- Sequence number of the oldest record held (R517). -/
def logOldest (s : State) : Word := s.log.next - BitVec.ofNat 32 s.log.recs.length

/-- Index of the first record that a read from a sequence returns; none where it returns no record (R517). -/
def logFirst (s : State) (f : Word) : Option Nat :=
  let d := (s.log.next - f).toNat
  if d = 0 || 2 ^ 31 ≤ d || s.log.recs.isEmpty then none else some (s.log.recs.length - min d s.log.recs.length)

/-- Bytes of the records of a reply; the PHASE bit of a record in the log is a free value (log 8). -/
def logBytes (l : List CsRec) (v : BitVec 256) : List Byte :=
  (List.range l.length).flatMap (fun i => match l[i]? with
    | some x => x.bytes (v.getLsbD i)
    | none => [])

/-- LOG_READ (R517). With no record to return, the sequence of the first one is a free value. -/
def logRead : CmdBody := fun c s =>
  let n := c.at 4 1
  let clear := (c.at 5 1).testBit 0
  if n = 0 || 13 < n then (s, Reply.badArg 4)
  else if 2 ≤ c.at 5 1 then (s, Reply.badArg 5)
  else if clear && c.code ≠ 1 && c.code ≠ 2 then (s, Reply.fail 0x07 0 5)
  else
    let head := leBytes 4 s.log.next.toNat ++ leBytes 4 (logOldest s).toNat
    let (s, v) := s.fresh
    match logFirst s (BitVec.ofNat 32 (c.at 0 4)) with
    | none => (s, Reply.ok (head ++ leBytes 4 v.toNat ++ [0, 0, 0, 0]))
    | some i =>
      let l := (s.log.recs.drop i).take n
      let r := Reply.ok (head ++ leBytes 4 (logOldest s + BitVec.ofNat 32 i).toNat ++ leBytes 1 l.length ++ [0, 0, 0] ++ logBytes l v)
      (if clear then { s with log := { s.log with recs := s.log.recs.drop (i + l.length) } } else s, r)

/-- LOG_READ's row. -/
def execLogRead (set : Fin 3) (slot : Fin 8) (s : State) : Host.Outcome State Fault Refusal := .next (runCmd 0x0C01 logRead set slot s)

/-! ### Time -/

/-- TIME_SET (R518): the offset moves, never the metronome. -/
def timeSet : CmdBody := fun c s =>
  let off := BitVec.ofNat 64 (c.at 0 8) - s.metro.setWidth 64
  ({ s with sm := { s.sm with timeOff := off, timeUnset := false } }, Reply.ok (leBytes 6 s.metro.toNat))

/-- TIME_SET's row. -/
def execTimeSet (set : Fin 3) (slot : Fin 8) (s : State) : Host.Outcome State Fault Refusal := .next (runCmd 0x0D01 timeSet set slot s)

/-- TIME_GET. -/
def timeGet : CmdBody := fun _ s => (s, Reply.ok (leBytes 8 (todNow s) ++ leBytes 6 s.metro.toNat))

/-- TIME_GET's row. -/
def execTimeGet (set : Fin 3) (slot : Fin 8) (s : State) : Host.Outcome State Fault Refusal := .next (runCmd 0x0D02 timeGet set slot s)

/-- RTC_ALARM (R510, R561). -/
def rtcAlarm : CmdBody := fun c s =>
  let t := c.at 0 8
  if t = 0 then ({ s with sm := { s.sm with alarm := none } }, Reply.ok [])
  else if t < todNow s then (s, Reply.badArg 0)
  else ({ s with sm := { s.sm with alarm := some (BitVec.ofNat 64 t) } }, Reply.ok [])

/-- RTC_ALARM's row. -/
def execRtcAlarm (set : Fin 3) (slot : Fin 8) (s : State) : Host.Outcome State Fault Refusal := .next (runCmd 0x0D03 rtcAlarm set slot s)

/-! ### Fuses -/

/-- A fused ROM patch unit. -/
def patchUnit (s : State) (u : Nat) : Option (Word × Word) := Sparse.get (fun _ => none) s.sm.patches u

/-- FUSE_READ. -/
def fuseRead : CmdBody := fun _ s =>
  let used := (List.range 16).foldl (fun t u => if (patchUnit s u).isSome then t + 2 ^ u else t) 0
  (s, Reply.ok ((List.range 8).flatMap (fun k => leBytes 1 (keySlot s k).code) ++ leBytes 1 s.sm.ovlRollback ++
    leBytes 1 s.sm.records.length ++ leBytes 2 used ++ [if s.sm.debugDis then 1 else 0]))

/-- FUSE_READ's row. -/
def execFuseRead (set : Fin 3) (slot : Fin 8) (s : State) : Host.Outcome State Fault Refusal := .next (runCmd 0x0E01 fuseRead set slot s)

/-- Mask over the key of KEY_PROVISION (R511): none for a command without a session. -/
def keyWrap (c : Cmd) : BitVec 256 :=
  match c.sess with
  | some x => Config.hmac x.2.kcmd ([0x53, 0x4C, 0x37, 0x31, 0x36, 0x30, 0x20, 0x4B, 0x45, 0x59, 0x57, 0x52, 0x41, 0x50] ++ leBytes 2 c.seq)
  | none => 0

/-- KEY_PROVISION (R510, R511). -/
def keyProvision : CmdBody := fun c s =>
  let k := c.at 0 1
  let code := c.at 1 1
  if 8 ≤ k then (s, Reply.badArg 0)
  else if code = 0 || 5 < code || (c.sess.isNone && code ≠ 1) then (s, Reply.badArg 1)
  else if (keySlot s k).code ≠ 0 then (s, Reply.bare 0x0F)
  else (setKeySlot s k ⟨BitVec.ofNat 256 (c.at 4 32) ^^^ keyWrap c, code⟩, Reply.ok [])

/-- KEY_PROVISION's row. -/
def execKeyProvision (set : Fin 3) (slot : Fin 8) (s : State) : Host.Outcome State Fault Refusal := .next (runCmd 0x0E02 keyProvision set slot s)

/-- Sessions that satisfy a test. -/
def sessionsWhere (s : State) (p : Session → Bool) : List Nat :=
  (List.range 4).filter (fun i => match sessionOf s i with
    | some x => p x
    | none => false)

/-- Pending opens of slots that satisfy a test are dropped. -/
def dropOpens (s : State) (p : Nat → Bool) : State :=
  (List.range 4).foldl (fun s i => match openOf s i with
    | some o => if p o.slot then setOpen s i none else s
    | none => s) s

/-- KEY_REVOKE (R512). -/
def keyRevoke : CmdBody := fun c s =>
  let k := c.at 0 1
  let others := (List.range 8).any (fun j => j != k && (keySlot s j).code == 1)
  if 8 ≤ k then (s, Reply.badArg 0)
  else if (keySlot s k).code = 0 then (s, Reply.bare 0x0D)
  else if !others then (s, Reply.bare 0x16)
  else
    let s := dropOpens (setKeySlot s k { keySlot s k with code := 15 }) (· == k)
    (s, ⟨0, [], sessionsWhere s (fun x => x.slot == k), false⟩)

/-- KEY_REVOKE's row. -/
def execKeyRevoke (set : Fin 3) (slot : Fin 8) (s : State) : Host.Outcome State Fault Refusal := .next (runCmd 0x0E03 keyRevoke set slot s)

/-- ROLLBACK_RAISE (R469). -/
def rollbackRaise : CmdBody := fun c s =>
  let n := c.at 0 1
  match s.sm.overlay with
  | some o => if o.2 = n && s.sm.ovlRollback < n then ({ s with sm := { s.sm with ovlRollback := n } }, Reply.ok []) else (s, Reply.badArg 0)
  | none => (s, Reply.badArg 0)

/-- ROLLBACK_RAISE's row. -/
def execRollbackRaise (set : Fin 3) (slot : Fin 8) (s : State) : Host.Outcome State Fault Refusal := .next (runCmd 0x0E04 rollbackRaise set slot s)

/-- PATCH_PROGRAM. -/
def patchProgram : CmdBody := fun c s =>
  let u := c.at 0 1
  if 16 ≤ u then (s, Reply.badArg 0)
  else if (patchUnit s u).isSome then (s, Reply.bare 0x0F)
  else
    let p := some (BitVec.ofNat 32 (c.at 4 4), BitVec.ofNat 32 (c.at 8 4))
    ({ s with sm := { s.sm with patches := Sparse.put (fun _ => none) s.sm.patches u p } }, Reply.ok [])

/-- PATCH_PROGRAM's row. -/
def execPatchProgram (set : Fin 3) (slot : Fin 8) (s : State) : Host.Outcome State Fault Refusal := .next (runCmd 0x0E05 patchProgram set slot s)

/-! ### Debug -/

/-- Units unlocked replaced: DBT and the pause follow (R513, R607). -/
def setUnlocked (s : State) (l : List (Nat × Nat × Bool)) : State := applyUnlocks { s with sm := { s.sm with unlocked := l } }

/-- DEBUG_UNLOCK (R513). -/
def debugUnlock : CmdBody := fun c s =>
  let u := c.at 0 2
  if c.set ≠ 2 then (s, Reply.bare 0x07)
  else if s.sm.debugDis then (s, Reply.bare 0x17)
  else if !uibPresent u then (s, Reply.bare 0x0D)
  else if 2 ≤ c.at 2 1 then (s, Reply.badArg 2)
  else if 2 ≤ c.at 3 1 then (s, Reply.badArg 3)
  else if c.at 2 1 = 1 then (setUnlocked s (s.sm.unlocked.filter (fun x => !(uibChain x.1).contains u)), Reply.ok [])
  else
    match c.sess with
    | some x => (setUnlocked s (s.sm.unlocked.filter (fun y => y.1 != u) ++ [(u, x.1, c.at 3 1 == 1)]), Reply.ok [])
    | none => (s, Reply.bare 0x07)

/-- DEBUG_UNLOCK's row. -/
def execDebugUnlock (set : Fin 3) (slot : Fin 8) (s : State) : Host.Outcome State Fault Refusal := .next (runCmd 0x0F01 debugUnlock set slot s)

/-- DEBUG_DISABLE (R514). -/
def debugDisable : CmdBody := fun c s =>
  if c.at 0 4 ≠ 0x0D15AB1E then (s, Reply.badArg 0)
  else
    let s := setUnlocked { s with sm := { s.sm with debugDis := true } } []
    let s := dropOpens s (fun k => (keySlot s k).code == 5)
    (s, ⟨0, [], sessionsWhere s (fun x => x.code == 5), false⟩)

/-- DEBUG_DISABLE's row. -/
def execDebugDisable (set : Fin 3) (slot : Fin 8) (s : State) : Host.Outcome State Fault Refusal := .next (runCmd 0x0F02 debugDisable set slot s)

end Sys2Proof.Machine
end

