-- ==== Sys2Proof/Machine/Repeat.lean ====
section
/-! DEFINITION. The repeat prefix (R171 to R177), prompts (R613 to R615), and the rows of SCN_CTL (R359). -/

namespace Sys2Proof.Machine

/-- The body of each instruction, for the words that a repeat or a prompt runs. REP itself is neither (R172, R615). -/
def bodyOf : Op → Body
  | .add => doAdd
  | .addc => doAddc
  | .sub => doSub
  | .subc => doSubc
  | .and => doAnd
  | .or => doOr
  | .xor => doXor
  | .andn => doAndn
  | .mov => doMov
  | .not => doNot
  | .lsl => doLsl
  | .lsr => doLsr
  | .asr => doAsr
  | .ror => doRor
  | .cmp => doCmp
  | .cmpa => doCmpa
  | .tst => doTst
  | .tstx => doTstx
  | .mins => doMins
  | .maxs => doMaxs
  | .minu => doMinu
  | .maxu => doMaxu
  | .clz => doClz
  | .sxb => doSxb
  | .sxh => doSxh
  | .zxh => doZxh
  | .addi => doAddi
  | .addif => doAddif
  | .cmpi => doCmpi
  | .andi => doAndi
  | .ori => doOri
  | .xori => doXori
  | .tsti => doTsti
  | .lsli => doLsli
  | .lsri => doLsri
  | .asri => doAsri
  | .rori => doRori
  | .shin => doShin
  | .dadd => doDadd
  | .daddC => doDaddC
  | .dsub => doDsub
  | .dsubC => doDsubC
  | .dadj => doDadj
  | .dshl => doDshl
  | .dshr => doDshr
  | .bin2d => doBin2d
  | .d2bin => doD2bin
  | .mul => doMul
  | .mulu => doMulu
  | .div => doDiv
  | .divu => doDivu
  | .load => doLoad
  | .store => doStore
  | .qpush => doQpush
  | .qpop => doQpop
  | .qpopt => doQpopt
  | .qopen => doQopen
  | .qclose => doQclose
  | .cue => doCue
  | .ldx => doLdx
  | .ldxp => doLdxp
  | .stx => doStx
  | .stxp => doStxp
  | .tmove => doTmove
  | .tclr => doTclr
  | .tnarrow => doTnarrow
  | .tperm => doTperm
  | .tseal => doTseal
  | .tunseal => doTunseal
  | .tload => doTload
  | .tstore => doTstore
  | .tget => doTget
  | .trds => doTrds
  | .twrs => doTwrs
  | .branch => doBranch
  | .bl => doBl
  | .callt => doCallt
  | .rett => doRett
  | .jr => doJr
  | .jrl => doJrl
  | .mfs => doMfs
  | .mts => doMts
  | .syncI => doSyncI
  | .wait => doWait
  | .waitcue => doWaitcue
  | .mask => doMask
  | .rfe => doRfe
  | .sceneBegin => doSceneBegin
  | .sceneEnd => doSceneEnd
  | .dmul16 => doDmul16
  | .ddiv16 => doDdiv16
  | .mul64 => doMul64
  | .mul64u => doMul64u
  | .div64 => doDiv64
  | .div64u => doDiv64u
  | .crc32c => doCrc32c
  | .hpint => doHpint
  | .hprice => doHprice
  | .lbar => doLbar
  | .lmoder => doLmoder
  | .lmodew => doLmodew
  | .lclean => doLclean
  | .rep => fun s _ _ => s

/-! ### Repeats -/

/-- Registers that a word can write in j iterations (R173). -/
def destsOf (w : Word) (n : Nat) : List Nat :=
  match Ulufy.cls w with
  | 0 | 2 => [fGd w]
  | 1 => [iGd w]
  | 4 => (List.range n).flatMap (fun j => if mSz w = 3 then [mGd w + 2 * j, mGd w + 2 * j + 1] else [mGd w + j])
  | _ => []

/-- The repeat of a word begins or resumes with a count (R171, R175). -/
def beginRep (s : State) (r : Nat) (w pw : Word) (n : BitVec 16) (st0 : Word) : State :=
  let c := s.scene r
  s.modRole r (fun x =>
    let ds := if bit w 23 then [] else ((destsOf pw n.toNat).map (· % 32)).eraseDups
    let p : Rep := ⟨w, pw, !bit w 23, n, ds.map (fun d => (d, x.greg d)), st0, [], c.wings.length,
      if x.sc && !isLead r then journalCount s r else 0, c.effects, c.retired⟩
    { x with rc := n, st := setBit x.st 8 false, rep := some p })

/-- A fault of the prefixed word before its first iteration (R97, R177): RA is set and RC holds the full count. -/
def repFault (s : State) (r : Nat) (n : BitVec 16) (vec detail : Nat) (instr : Word) (addr : Option Nat) : State :=
  syncFault (s.modRole r (fun x => { x with rc := n, st := setBit x.st 8 true })) r vec detail instr addr

/-- The word that a REP prefixes: held, or fetched (R95, R137). -/
def wordAfter (s : State) (r : Nat) : Option (State × Fetched) :=
  let pc := (s.role r).pc + 4
  match (s.role r).fetchQ.find? (fun h => h.pc == pc) with
  | some h => some (s, h.got)
  | none => fetchAt s r pc

/-- REP (R171, R175): the count is taken, or the RC of a resumed repeat, and the prefixed word is tested before any iteration. -/
def doRep : Body := fun s r w =>
  let x := s.role r
  let n : BitVec 16 := if x.ra then x.rc
    else if bit w 22 then BitVec.ofNat 16 (x.greg (bits w 21 17)).toNat else BitVec.ofNat 16 (bits w 15 0)
  if !x.ra && !bit w 23 && 8 < n.toNat then faultAt s r 2 5 w
  else
    match wordAfter s r with
    | none => block s r w
    | some (s, .fault vec d a) => repFault s r n vec.toNat d.toNat 0 (some a.toNat)
    | some (s, .word pw) =>
      match Ulufy.decodePrefixed (isLead r) false pw with
      | .error d => repFault s r n 2 d.toNat pw (pcAddr s r)
      | .ok _ => beginRep (s.modRole r (fun x => { x with busy := .idle })) r w pw n x.st
/-- REP. -/
def execRep (r : RoleId) (w : Word) (s : State) : Host.Outcome State Fault Refusal := .next (issue s r.val .rep w doRep)

/-- True where a role can run the next iteration of its repeat (R174, R351). -/
def canIterate (s : State) (r : Nat) : Bool :=
  let x := s.role r
  x.started && !x.onHold && !x.frozen && coreOn s (coreOf r) && !coreDark s (coreOf r) && !markerDue s r

/-- True where an iteration would touch a destination of a long operation in flight (R215). -/
def iterHazard (x : Role) (op : Op) (pw : Word) : Bool :=
  longHazard x op pw || (Ulufy.cls pw = 4 || Ulufy.cls pw = 5) &&
    x.longOps.any (fun o => (longDests o.word).any (fun n => n % 32 ≠ 0 &&
      (destsOf (setBits pw 27 24 4) x.rc.toNat).any (fun m => m % 32 == n % 32)))

/-- A beat of a repeat: the prefixed word runs once, or the repeat ends on a count of 0 or a failing condition (R171, R177). -/
def iterate (s : State) (r : Nat) (p : Rep) (op : Op) : State :=
  let x := s.role r
  let a := instrAddr x (x.pc + 4)
  if x.rc = 0 then endRepeat (startIssue s r) r
  else if iterHazard x op p.pword || spotWaits s r spotX a 4 [p.pword] then s
  else
    let held := spotHolds s r spotX a 4 [p.pword]
    if held && x.holdReq then s
    else
      let s := spotEvent s r spotX a 4 [p.pword]
      if held && (s.role r).holdReq then s
      else
        let s := startIssue s r
        if condHolds (s.role r).st (bits p.pword 31 28) then bodyOf op s r p.pword else endRepeat (countRetired s r) r

/-- REP_ITERATION. -/
def execRepIteration (r : RoleId) (s : State) : Host.Outcome State Fault Refusal :=
  let x := s.role r.val
  match x.rep with
  | none => .next s
  | some p =>
    if !canIterate s r.val then .next s
    else
      match Ulufy.decodePrefixed (isLead r.val) false p.pword with
      | .error _ => .next s
      | .ok op =>
        match x.busy with
        | .idle => .next (iterate s r.val p op)
        | .blocked v => .next (bodyOf op s r.val v)
        | _ => .next s

/-! ### Prompts -/

/-- True where the core of a held role has beats for a prompt. -/
def promptBeats (s : State) (r : Nat) : Bool := !(s.role r).frozen && coreOn s (coreOf r) && !coreDark s (coreOf r)

/-- A prompt runs its word in a beat of the role, through steps 4 to 6 of R95 (R614). It waits where the word would wait to issue. -/
def runPrompt (s : State) (r : Nat) : State :=
  let w := promptWord s r
  match Ulufy.decode (isLead r) (s.role r).dbt.tag w with
  | .error d => faultAt s r 2 d.toNat w
  | .ok op =>
    if !mayIssue s r op w then s
    else
      let a := instrAddr (s.role r) (s.role r).pc
      let s := (spotEvent s r spotX a 4 [w]).modRole r ageProducts
      if condHolds (s.role r).st (bits w 31 28) then bodyOf op s r w else finish s r none

/-- GO, and the role's next owned beat where it has one (R614). -/
def promptGo (s : State) (r : Nat) : State :=
  let was := (s.role r).prompt
  let s := beginPrompt s r
  if !was && (s.role r).prompt && promptBeats s r then runPrompt s r else s

/-- PROMPT_GO. -/
def execPromptGo (r : RoleId) (s : State) : Host.Outcome State Fault Refusal := .next (promptGo s r.val)

/-- PROMPT_CANCEL. -/
def execPromptCancel (r : RoleId) (s : State) : Host.Outcome State Fault Refusal := .next (promptCancel s r.val)

/-- What a waiting prompt waits for is tried again, and completes it where it can (R614, R615). -/
def promptRetire (s : State) (r : Nat) : State :=
  if !(s.role r).prompt || !promptBeats s r then s
  else
    match (s.role r).busy with
    | .idle | .waiting => runPrompt s r
    | .blocked w =>
      match Ulufy.decode (isLead r) (s.role r).dbt.tag w with
      | .ok op => bodyOf op s r w
      | .error _ => s
    | .multi w => retireMulti s r w
    | .load w => respond s r w
    | .push w => pushAccept s r w
    | .pop w => popDeliver s r w
    | .waitcue w => wakeCue s r w
    | .curtain _ =>
      match (s.scene r).cur with
      | some c => if c.marked then curtainPoint s r c else s
      | none => s
    | .long w =>
      match (s.role r).longOps.find? (fun o => o.word == w) with
      | some o => if faultPending s r o.unit then s else retireLong s r o
      | none => s

/-- PROMPT_RETIRE. -/
def execPromptRetire (r : RoleId) (s : State) : Host.Outcome State Fault Refusal := .next (promptRetire s r.val)

/-! ### SCN_CTL -/

/-- SCN_CTL_ABANDON (R359): by the SM or through DBT, or by the role itself in its scene, with vector 10. Any other write is ignored. -/
def execScnCtlAbandon (a : Agent) (r : RoleId) (s : State) : Host.Outcome State Fault Refusal :=
  .next (if isSmOrDbt a then ctlAbandon s r.val
    else if a = .role r false && sceneCtlActs s r.val && (s.role r.val).sc then
      abandonAt (abandonWork s r.val 3).1 r.val 0x0D 5 (wordAtPc s r.val)
    else s)

/-- SCN_CTL_REPLAY (R359, R611). -/
def execScnCtlReplay (a : Agent) (r : RoleId) (s : State) : Host.Outcome State Fault Refusal :=
  .next (if isSmOrDbt a then ctlReplay s r.val else s)

/-- SCN_CTL_CLRCNT (R359). -/
def execScnCtlClrcnt (r : RoleId) (s : State) : Host.Outcome State Fault Refusal :=
  .next (if isLead r.val then s else clearAbnCount s r.val)

end Sys2Proof.Machine
end

