-- ==== Sys2Proof/Machine/Tap.lean ====
section
/-! DEFINITION. The TAP (R602, R603, R662), the debug link (R604 to R606, R630) and the trace port (R622 to R624). -/

namespace Sys2Proof.Machine

/-! ### Boundary scan -/

/-- What the boundary cells of a ball capture: input, output and output enable; none for a cell whose level the manual leaves to the outside. -/
structure BallCells where
  input : Option Bool
  output : Option Bool
  enable : Option Bool
deriving DecidableEq, Repr

/-- An input-only ball, whose output and enable cells capture zero (R662). -/
def BallCells.inputOnly (b : Option Bool) : BallCells := ⟨b, some false, some false⟩

/-- A field pad. -/
def padCells (s : State) (p : Nat) : BallCells :=
  ⟨some (s.flag (Adr.padCtl p) 5), some (padShows s p).level, some (padShows s p).drive⟩

/-- True while LOCKUP_N is driven low (R269). -/
def lockup (s : State) : Bool := (List.range 136).any (coreDark s)

/-- The balls of the right region (R662): HSPI_SCLK, HSPI_CS_N, HSPI_IO0 to 3, HSPI_IRQ_N; TRACE_CLK and TRACE_D0 to 15; VID0 to 5; TEST_N,
LOCKUP_N; PFAIL_N, PORST_N, SDA_W, SCL_W; WAKE0 to 15. -/
def rightCells (s : State) (n : Nat) : BallCells :=
  if n < 2 then BallCells.inputOnly none
  else if n < 6 then ⟨none, none, none⟩
  else if n = 6 then ⟨none, some false, some (hspiIrq s)⟩
  else if n < 24 then ⟨none, none, none⟩
  else if n < 30 then ⟨none, some (s.sm.vid.testBit (n - 24)), none⟩
  else if n = 30 then BallCells.inputOnly none
  else if n = 31 then ⟨none, some false, some (lockup s)⟩
  else if n = 32 then BallCells.inputOnly (some (!s.cxl.pfail))
  else if n = 33 then BallCells.inputOnly (some (!s.boot.porst))
  else if n < 36 then ⟨none, none, none⟩
  else BallCells.inputOnly (some (s.flag (Adr.wakePin (n - 36)) 6))

/-- The ball at a place of the boundary register (R662): the top region's pads, the right region, the bottom region's pads, PERST0_N and
PERST1_N. -/
def ballCells (s : State) (j : Nat) : BallCells :=
  if j < 96 then padCells s j
  else if j < 148 then rightCells s (j - 96)
  else if j < 244 then padCells s (j - 52)
  else ⟨none, some (!s.boot.perst.testBit (j - 244)), none⟩

/-- The 738 cells as a capture finds them; those that the manual does not fix are free values (log 8). -/
def capture (s : State) : State × BitVec 738 :=
  let (s, a) := s.fresh
  let (s, b) := s.fresh
  let (s, c) := s.fresh
  let bitOf := fun (o : Option Bool) (k : Nat) => match o with
    | some x => x
    | none => if k < 256 then a.getLsbD k else if k < 512 then b.getLsbD (k - 256) else c.getLsbD (k - 512)
  let v := (List.range 246).foldl (fun (t : Nat) j =>
    let x := ballCells s j
    t + (if bitOf x.input (3 * j) then 2 ^ (3 * j) else 0) + (if bitOf x.output (3 * j + 1) then 2 ^ (3 * j + 1) else 0) +
      (if bitOf x.enable (3 * j + 2) then 2 ^ (3 * j + 2) else 0)) 0
  (s, BitVec.ofNat 738 v)

/-- Place of a field pad in the boundary register. -/
def padBall (p : Nat) : Nat := if p < 96 then p else p + 52

/-- Output level and enable that EXTEST gives a field pad: only while PORST_N is low (R603). -/
def extestPad (s : State) (p : Nat) : Option (Bool × Bool) :=
  if s.tap.ir = 0 && s.boot.porst then some (s.tap.cells.getLsbD (3 * padBall p + 1), s.tap.cells.getLsbD (3 * padBall p + 2)) else none

/-! ### The TAP -/

/-- The instruction register loaded. -/
def setIr (s : State) (c : BitVec 5) : State := { s with tap := { s.tap with ir := c } }

/-- A boundary-scan instruction: the cells are captured, shifted out, and updated with what was shifted in. -/
def boundaryScan (s : State) (c : BitVec 5) (cells : BitVec 738) : State :=
  let (s, v) := capture s
  { s with tap := { s.tap with ir := c, capt := v, cells := cells } }

/-- The data register that the TAP shows (R602, R604): the captured cells, IDCODE, the link's result, or the bypass bit, which is 0. -/
def tapShows (s : State) : Nat :=
  if s.tap.ir = 0 || s.tap.ir = 1 then s.tap.capt.toNat
  else if s.tap.ir = 2 then 0x271609CB
  else if s.tap.ir = 8 then
    (if domOn s 63 then s.tap.status + s.tap.addr.toNat * 2 ^ 2 + s.tap.data.toNat * 2 ^ 18 else 2)
  else 0

/-- TAP_RESET (R602). -/
def execTapReset (s : State) : Host.Outcome State Fault Refusal := .next (setIr s 2)
/-- EXTEST (R602, R603). -/
def execExtest (cells : BitVec 738) (s : State) : Host.Outcome State Fault Refusal := .next (boundaryScan s 0 cells)
/-- SAMPLE_PRELOAD (R602). -/
def execSamplePreload (cells : BitVec 738) (s : State) : Host.Outcome State Fault Refusal := .next (boundaryScan s 1 cells)
/-- IDCODE (R602). -/
def execIdcode (s : State) : Host.Outcome State Fault Refusal := .next (setIr s 2)
/-- YALNOV (R602). -/
def execYalnov (s : State) : Host.Outcome State Fault Refusal := .next (setIr s 8)
/-- BYPASS (R602). -/
def execBypass (s : State) : Host.Outcome State Fault Refusal := .next (setIr s 31)

/-! ### The debug link -/

/-- The result of a link operation: status 0 OK, 1 WAIT, 2 ERROR with its code (R604, R605). -/
def linkEnd (s : State) (addr : BitVec 16) (status : Nat) (data : Word) (code : Nat) : State :=
  { s with tap := { s.tap with
    status := status, addr := addr, data := if status = 0 then data else 0
    errcode := if status = 2 then code else s.tap.errcode } }

/-- An operation that went well. -/
def linkOk (s : State) (addr : BitVec 16) (data : Word) : State := linkEnd s addr 0 data 0
/-- An operation that failed. -/
def linkFail (s : State) (addr : BitVec 16) (code : Nat) : State := linkEnd s addr 2 0 code

/-- True while a DEBUG session is open on set 2. -/
def debugOpen (s : State) : Bool :=
  (List.range 4).any (fun i => match sessionOf s i with
    | some x => x.code == 5 && x.set == 2
    | none => false)

/-- True while the link registers act (R605). -/
def linkActs (s : State) : Bool := debugOpen s && !s.sm.unlocked.isEmpty

/-- DL_STAT (R605). -/
def dlStat (s : State) : Word :=
  let f := fun (b : Bool) n => if b then 2 ^ n else 0
  BitVec.ofNat 32 (f (debugOpen s) 0 + f (!s.sm.unlocked.isEmpty) 1 + f s.sm.debugDis 2 + s.tap.errcode % 256 * 2 ^ 8 + s.tap.qtags % 8 * 2 ^ 16 +
    f s.tap.qempty 19 + f s.tap.qunfilled 20)

/-- Target of DL_DATA. -/
def linkTarget (s : State) : Nat := s.tap.addrl.toNat + s.tap.addrh.toNat % 2 ^ 16 * 2 ^ 32

/-- Unit over an address: none for an absent one. -/
def unitOver (a : Nat) : Option Nat :=
  match regionOf a with
  | .absent => none
  | .sram | .book _ => some (ownerUib a)
  | .cxl _ => some 243
  | .uib i | .block i => some i
  | .port q => some (if q < 320 then queueUib q else 0)
  | .cueFire _ => some 246

/-- True for a target under an unlocked unit (R605). -/
def linkReaches (s : State) (a : Nat) : Bool :=
  match unitOver a with
  | some u => s.sm.unlocked.any (fun x => (uibChain u).contains x.1)
  | none => s.sm.unlocked.any (fun x => x.1 == 0)

/-- The address advances after an access with AUTOINC. -/
def linkAdvance (s : State) : State :=
  if !bit s.tap.addrh 16 then s
  else
    let t := (linkTarget s + 4) % 2 ^ 48
    { s with tap := { s.tap with addrl := BitVec.ofNat 32 t, addrh := BitVec.ofNat 32 (t / 2 ^ 32 + 2 ^ 16) } }

/-- A peek of a word of memory (R606): nothing but the use of free values is left behind. -/
def peekMemWord (s : State) (a : Nat) : State × Peek :=
  match readMem (recallLoads s none a 4) agentSm a 4 with
  | (t, .ok l) => ({ s with freeNext := t.freeNext }, Peek.ok (BitVec.ofNat 32 (leNat l)))
  | (t, .error _) => ({ s with freeNext := t.freeNext }, Peek.fail 0x14)

/-- A peek through the link (R606). -/
def linkPeek (s : State) (addr : BitVec 16) : State :=
  let a := linkTarget s
  let (s, p) := if isMemory a then peekMemWord s a else peekDev s a
  let s := match regionOf a with
    | .port _ => { s with tap := { s.tap with qtags := p.tags, qempty := p.empty, qunfilled := p.unfilled } }
    | _ => s
  linkAdvance (if p.status = 0 then linkOk s addr p.word else linkFail s addr p.status)

/-- Unit that a power command acts on while its work goes on (R503): none where no such command waits. -/
def powerTarget (s : State) : Option Nat :=
  s.sm.cmdWait.map (fun w =>
    if w.set = 3 then w.slot
    else
      let b := blockAt s w.set w.slot
      if at_ b 0 2 = 0x0401 then at_ b 16 2 else 0)

/-- True for a link write of UIB_HOLD that stalls until a power command is answered (R503). -/
def holdStalls (s : State) (a : Nat) : Bool :=
  match regAt a, powerTarget s with
  | some x, some u => x.d.reg == .uibHold && (uibChain x.unit).contains u
  | _, _ => false

/-- A store through the link, with DBT authority (R605, R606). -/
def linkStore (s : State) (addr : BitVec 16) (v : Word) : State :=
  let a := linkTarget s
  if holdStalls s a then linkEnd s addr 1 0 0
  else if isPort a then linkAdvance (linkFail s addr 0x0C)
  else if storeError s a then linkAdvance (linkFail s addr 0x14)
  else if isMemory a then linkAdvance (linkOk (smStore s a (leBytes 4 v.toNat)) addr 0)
  else linkAdvance (linkOk (arriveWrite s .link a v) addr 0)

/-- True where the mailbox part of the link map lies (R605). -/
def linkMailbox (addr : BitVec 16) : Bool := addr.toNat * 4 < 0x1000

/-- A read operation (R604 to R606). -/
def linkReadOp (s : State) (addr : BitVec 16) : State :=
  let a := addr.toNat * 4
  if linkMailbox addr then (if portsAnswer s then linkOk s addr (mbRead s 2 a) else linkFail s addr 0x14)
  else if s.sm.debugDis then (if a = 0x1000 then linkOk s addr (dlStat s) else linkFail s addr 0x17)
  else if !linkActs s then linkFail s addr 0x07
  else if a = 0x1000 then linkOk s addr (dlStat s)
  else if a = 0x1004 then linkOk s addr s.tap.addrl
  else if a = 0x1008 then linkOk s addr s.tap.addrh
  else if a = 0x100C then (if linkReaches s (linkTarget s) then linkPeek s addr else linkFail s addr 0x07)
  else linkOk s addr 0

/-- A write operation (R604 to R606). -/
def linkWriteOp (s : State) (addr : BitVec 16) (v : Word) : State :=
  let a := addr.toNat * 4
  if linkMailbox addr then (if portsAnswer s then linkOk (mbWrite s 2 a v) addr 0 else linkFail s addr 0x14)
  else if s.sm.debugDis then linkFail s addr 0x17
  else if !linkActs s then linkFail s addr 0x07
  else if a = 0x1004 then linkOk { s with tap := { s.tap with addrl := v &&& 0xFFFFFFFC } } addr 0
  else if a = 0x1008 then linkOk { s with tap := { s.tap with addrh := v &&& 0x1FFFF } } addr 0
  else if a = 0x100C then (if linkReaches s (linkTarget s) then linkStore s addr v else linkFail s addr 0x07)
  else linkOk s addr 0

/-- LINK_READ: only under YALNOV; nothing starts while D63 is not ON (R630). -/
def execLinkRead (addr : BitVec 16) (s : State) : Host.Outcome State Fault Refusal :=
  .next (if s.tap.ir = 8 && domOn s 63 then linkReadOp s addr else s)

/-- LINK_WRITE. -/
def execLinkWrite (addr : BitVec 16) (v : Word) (s : State) : Host.Outcome State Fault Refusal :=
  .next (if s.tap.ir = 8 && domOn s 63 then linkWriteOp s addr v else s)

/-! ### The trace port -/

/-- The port drives a packet. -/
def driveTrace (s : State) (p : DWord) (t : Trace) : State := { s with trace := { t with last := p } }

/-- Packets sent since the last sync packet (R623). -/
def countSent (t : Trace) : Trace := if t.sent + 1 < 4096 then { t with sent := t.sent + 1 } else { t with sent := 0, syncOwed := true }

/-- The next packet (R622 to R624): an owed overflow packet once there is room, an owed sync packet, the head of the FIFO, or an all-zero
packet. -/
def sendTrace (s : State) : State :=
  let t := s.trace
  if 0 < t.owed && t.fifo.length < 256 then driveTrace s (packet s 5 0 (min t.owed 0xFFFF)) (countSent { t with owed := 0 })
  else if t.syncOwed then driveTrace s (BitVec.ofNat 64 (6 + s.metro.toNat * 2 ^ 14)) { t with syncOwed := false, sent := 0 }
  else
    match t.fifo with
    | p :: rest => driveTrace s p (countSent { t with fifo := rest })
    | [] => driveTrace s 0 t

/-- TRACE_PACKET_SENT. -/
def execTracePacketSent (s : State) : Host.Outcome State Fault Refusal :=
  .next (if s.flag Adr.trCtl 0 && domOn s 63 then sendTrace s else s)

end Sys2Proof.Machine
end

