-- ==== Sys2Proof/Machine/Dispatch.lean ====
section
/-! DEFINITION. The arms of the machine: one for each command. -/

namespace Sys2Proof.Machine

open Sys2Proof

def exec (i : Instr) (s : State) : Host.Outcome State Fault Refusal :=
  match i with
  | .add r w => Sys2Proof.Machine.execAdd r w s
  | .addc r w => Sys2Proof.Machine.execAddc r w s
  | .sub r w => Sys2Proof.Machine.execSub r w s
  | .subc r w => Sys2Proof.Machine.execSubc r w s
  | .and r w => Sys2Proof.Machine.execAnd r w s
  | .or r w => Sys2Proof.Machine.execOr r w s
  | .xor r w => Sys2Proof.Machine.execXor r w s
  | .andn r w => Sys2Proof.Machine.execAndn r w s
  | .mov r w => Sys2Proof.Machine.execMov r w s
  | .not r w => Sys2Proof.Machine.execNot r w s
  | .lsl r w => Sys2Proof.Machine.execLsl r w s
  | .lsr r w => Sys2Proof.Machine.execLsr r w s
  | .asr r w => Sys2Proof.Machine.execAsr r w s
  | .ror r w => Sys2Proof.Machine.execRor r w s
  | .cmp r w => Sys2Proof.Machine.execCmp r w s
  | .cmpa r w => Sys2Proof.Machine.execCmpa r w s
  | .tst r w => Sys2Proof.Machine.execTst r w s
  | .tstx r w => Sys2Proof.Machine.execTstx r w s
  | .mins r w => Sys2Proof.Machine.execMins r w s
  | .maxs r w => Sys2Proof.Machine.execMaxs r w s
  | .minu r w => Sys2Proof.Machine.execMinu r w s
  | .maxu r w => Sys2Proof.Machine.execMaxu r w s
  | .clz r w => Sys2Proof.Machine.execClz r w s
  | .sxb r w => Sys2Proof.Machine.execSxb r w s
  | .sxh r w => Sys2Proof.Machine.execSxh r w s
  | .zxh r w => Sys2Proof.Machine.execZxh r w s
  | .addi r w => Sys2Proof.Machine.execAddi r w s
  | .addif r w => Sys2Proof.Machine.execAddif r w s
  | .cmpi r w => Sys2Proof.Machine.execCmpi r w s
  | .andi r w => Sys2Proof.Machine.execAndi r w s
  | .ori r w => Sys2Proof.Machine.execOri r w s
  | .xori r w => Sys2Proof.Machine.execXori r w s
  | .tsti r w => Sys2Proof.Machine.execTsti r w s
  | .lsli r w => Sys2Proof.Machine.execLsli r w s
  | .lsri r w => Sys2Proof.Machine.execLsri r w s
  | .asri r w => Sys2Proof.Machine.execAsri r w s
  | .rori r w => Sys2Proof.Machine.execRori r w s
  | .shin r w => Sys2Proof.Machine.execShin r w s
  | .dadd r w => Sys2Proof.Machine.execDadd r w s
  | .daddC r w => Sys2Proof.Machine.execDaddC r w s
  | .dsub r w => Sys2Proof.Machine.execDsub r w s
  | .dsubC r w => Sys2Proof.Machine.execDsubC r w s
  | .dadj r w => Sys2Proof.Machine.execDadj r w s
  | .dshl r w => Sys2Proof.Machine.execDshl r w s
  | .dshr r w => Sys2Proof.Machine.execDshr r w s
  | .bin2d r w => Sys2Proof.Machine.execBin2d r w s
  | .d2bin r w => Sys2Proof.Machine.execD2bin r w s
  | .mul r w => Sys2Proof.Machine.execMul r w s
  | .mulu r w => Sys2Proof.Machine.execMulu r w s
  | .productLanding r => Sys2Proof.Machine.execProductLanding r s
  | .div r w => Sys2Proof.Machine.execDiv r w s
  | .divu r w => Sys2Proof.Machine.execDivu r w s
  | .multiBeatRetire r => Sys2Proof.Machine.execMultiBeatRetire r s
  | .load r w => Sys2Proof.Machine.execLoad r w s
  | .loadResponse r => Sys2Proof.Machine.execLoadResponse r s
  | .store r w => Sys2Proof.Machine.execStore r w s
  | .storeAccepted r k => Sys2Proof.Machine.execStoreAccepted r k s
  | .storeErrorResponse r k => Sys2Proof.Machine.execStoreErrorResponse r k s
  | .qpush r w => Sys2Proof.Machine.execQpush r w s
  | .qpop r w => Sys2Proof.Machine.execQpop r w s
  | .qpopt r w => Sys2Proof.Machine.execQpopt r w s
  | .qopen r w => Sys2Proof.Machine.execQopen r w s
  | .qclose r w => Sys2Proof.Machine.execQclose r w s
  | .queuePushAccepted r => Sys2Proof.Machine.execQueuePushAccepted r s
  | .queuePopDelivered r => Sys2Proof.Machine.execQueuePopDelivered r s
  | .cue r w => Sys2Proof.Machine.execCue r w s
  | .ldx r w => Sys2Proof.Machine.execLdx r w s
  | .ldxp r w => Sys2Proof.Machine.execLdxp r w s
  | .stx r w => Sys2Proof.Machine.execStx r w s
  | .stxp r w => Sys2Proof.Machine.execStxp r w s
  | .tmove r w => Sys2Proof.Machine.execTmove r w s
  | .tclr r w => Sys2Proof.Machine.execTclr r w s
  | .tnarrow r w => Sys2Proof.Machine.execTnarrow r w s
  | .tperm r w => Sys2Proof.Machine.execTperm r w s
  | .tseal r w => Sys2Proof.Machine.execTseal r w s
  | .tunseal r w => Sys2Proof.Machine.execTunseal r w s
  | .tload r w => Sys2Proof.Machine.execTload r w s
  | .tstore r w => Sys2Proof.Machine.execTstore r w s
  | .tget r w => Sys2Proof.Machine.execTget r w s
  | .trds r w => Sys2Proof.Machine.execTrds r w s
  | .twrs r w => Sys2Proof.Machine.execTwrs r w s
  | .branch r w => Sys2Proof.Machine.execBranch r w s
  | .bl r w => Sys2Proof.Machine.execBl r w s
  | .callt r w => Sys2Proof.Machine.execCallt r w s
  | .rett r w => Sys2Proof.Machine.execRett r w s
  | .jr r w => Sys2Proof.Machine.execJr r w s
  | .jrl r w => Sys2Proof.Machine.execJrl r w s
  | .mfs r w => Sys2Proof.Machine.execMfs r w s
  | .mts r w => Sys2Proof.Machine.execMts r w s
  | .syncI r w => Sys2Proof.Machine.execSyncI r w s
  | .wait r w => Sys2Proof.Machine.execWait r w s
  | .waitcue r w => Sys2Proof.Machine.execWaitcue r w s
  | .waitcueWake r => Sys2Proof.Machine.execWaitcueWake r s
  | .mask r w => Sys2Proof.Machine.execMask r w s
  | .rfe r w => Sys2Proof.Machine.execRfe r w s
  | .rep r w => Sys2Proof.Machine.execRep r w s
  | .repIteration r => Sys2Proof.Machine.execRepIteration r s
  | .sceneBegin r w => Sys2Proof.Machine.execSceneBegin r w s
  | .sceneEnd r w => Sys2Proof.Machine.execSceneEnd r w s
  | .dmul16 r w => Sys2Proof.Machine.execDmul16 r w s
  | .ddiv16 r w => Sys2Proof.Machine.execDdiv16 r w s
  | .mul64 r w => Sys2Proof.Machine.execMul64 r w s
  | .mul64u r w => Sys2Proof.Machine.execMul64u r w s
  | .div64 r w => Sys2Proof.Machine.execDiv64 r w s
  | .div64u r w => Sys2Proof.Machine.execDiv64u r w s
  | .crc32c r w => Sys2Proof.Machine.execCrc32c r w s
  | .hpint r w => Sys2Proof.Machine.execHpint r w s
  | .hprice r w => Sys2Proof.Machine.execHprice r w s
  | .lbar r w => Sys2Proof.Machine.execLbar r w s
  | .lmoder r w => Sys2Proof.Machine.execLmoder r w s
  | .lmodew r w => Sys2Proof.Machine.execLmodew r w s
  | .lclean r w => Sys2Proof.Machine.execLclean r w s
  | .longOpRetire r unit => Sys2Proof.Machine.execLongOpRetire r unit s
  | .dcacheFill lead line => Sys2Proof.Machine.execDcacheFill lead line s
  | .interruptRecognition r => Sys2Proof.Machine.execInterruptRecognition r s
  | .pfailAssert => Sys2Proof.Machine.execPfailAssert s
  | .pfailDeassert => Sys2Proof.Machine.execPfailDeassert s
  | .gpfPhaseComplete port timeout => Sys2Proof.Machine.execGpfPhaseComplete port timeout s
  | .beatperWindow core beats => Sys2Proof.Machine.execBeatperWindow core beats s
  | .metronomeBoundary ticks => Sys2Proof.Machine.execMetronomeBoundary ticks s
  | .xtalLost => Sys2Proof.Machine.execXtalLost s
  | .oscillatorFailover => Sys2Proof.Machine.execOscillatorFailover s
  | .metroLoRead => Sys2Proof.Machine.execMetroLoRead s
  | .fireTaken latch => Sys2Proof.Machine.execFireTaken latch s
  | .hardwareEventFire event => Sys2Proof.Machine.execHardwareEventFire event s
  | .constantWordPush q => Sys2Proof.Machine.execConstantWordPush q s
  | .padCueAction p => Sys2Proof.Machine.execPadCueAction p s
  | .timerCueAction n => Sys2Proof.Machine.execTimerCueAction n s
  | .uibCueAction u => Sys2Proof.Machine.execUibCueAction u s
  | .callSheetRecordWrite c => Sys2Proof.Machine.execCallSheetRecordWrite c s
  | .csConsWrite r level v => Sys2Proof.Machine.execCsConsWrite r level v s
  | .csDescriptorWrite a r level cfg v => Sys2Proof.Machine.execCsDescriptorWrite a r level cfg v s
  | .crossbarRouteWrite a ch reg v => Sys2Proof.Machine.execCrossbarRouteWrite a ch reg v s
  | .timerStart n => Sys2Proof.Machine.execTimerStart n s
  | .timerStop n => Sys2Proof.Machine.execTimerStop n s
  | .timerExpiry n => Sys2Proof.Machine.execTimerExpiry n s
  | .uibPwrreqWrite u v => Sys2Proof.Machine.execUibPwrreqWrite u v s
  | .uibHoldWrite a u v => Sys2Proof.Machine.execUibHoldWrite a u v s
  | .holdEntry r => Sys2Proof.Machine.execHoldEntry r s
  | .holdRelease r => Sys2Proof.Machine.execHoldRelease r s
  | .uibFaultClear u v => Sys2Proof.Machine.execUibFaultClear u v s
  | .uibFaultClrcnt u => Sys2Proof.Machine.execUibFaultClrcnt u s
  | .uibCueinWrite a u v => Sys2Proof.Machine.execUibCueinWrite a u v s
  | .queueFlush q => Sys2Proof.Machine.execQueueFlush q s
  | .curtainLockGrant r => Sys2Proof.Machine.execCurtainLockGrant r s
  | .curtainFlip r => Sys2Proof.Machine.execCurtainFlip r s
  | .stagingDrain area => Sys2Proof.Machine.execStagingDrain area s
  | .effectRelease r => Sys2Proof.Machine.execEffectRelease r s
  | .coreFaultDetected r kind => Sys2Proof.Machine.execCoreFaultDetected r kind s
  | .stallDetectorExpiry r stage => Sys2Proof.Machine.execStallDetectorExpiry r stage s
  | .scnCtlAbandon a r => Sys2Proof.Machine.execScnCtlAbandon a r s
  | .scnCtlReplay a r => Sys2Proof.Machine.execScnCtlReplay a r s
  | .scnCtlClrcnt r => Sys2Proof.Machine.execScnCtlClrcnt r s
  | .coreMigration core cause => Sys2Proof.Machine.execCoreMigration core cause s
  | .leadMigration c spare cause => Sys2Proof.Machine.execLeadMigration c spare cause s
  | .slackReading slot ps => Sys2Proof.Machine.execSlackReading slot ps s
  | .retirementNoticeRepeat slot => Sys2Proof.Machine.execRetirementNoticeRepeat slot s
  | .scrubWord => Sys2Proof.Machine.execScrubWord s
  | .sramRepairComplete n fused => Sys2Proof.Machine.execSramRepairComplete n fused s
  | .correctionRewrite => Sys2Proof.Machine.execCorrectionRewrite s
  | .shadowFormatDone w => Sys2Proof.Machine.execShadowFormatDone w s
  | .cxlPortBringup p dev => Sys2Proof.Machine.execCxlPortBringup p dev s
  | .cxlLinkTrained p speed width => Sys2Proof.Machine.execCxlLinkTrained p speed width s
  | .cxlLinkError p bit req => Sys2Proof.Machine.execCxlLinkError p bit req s
  | .cxlLinkDown p => Sys2Proof.Machine.execCxlLinkDown p s
  | .cxlCompletion p req status => Sys2Proof.Machine.execCxlCompletion p req status s
  | .cxlCompletionTimeout p req => Sys2Proof.Machine.execCxlCompletionTimeout p req s
  | .cxlRetrainAttempt p serial => Sys2Proof.Machine.execCxlRetrainAttempt p serial s
  | .resyncLineCopy => Sys2Proof.Machine.execResyncLineCopy s
  | .healthScoreDecay => Sys2Proof.Machine.execHealthScoreDecay s
  | .dirtyWriteback => Sys2Proof.Machine.execDirtyWriteback s
  | .feedPop h q => Sys2Proof.Machine.execFeedPop h q s
  | .blockAgeCheck h => Sys2Proof.Machine.execBlockAgeCheck h s
  | .closeEngineHalf h => Sys2Proof.Machine.execCloseEngineHalf h s
  | .contextFetch h => Sys2Proof.Machine.execContextFetch h s
  | .hcConfig h => Sys2Proof.Machine.execHcConfig h s
  | .hcFlush h => Sys2Proof.Machine.execHcFlush h s
  | .hcReset h => Sys2Proof.Machine.execHcReset h s
  | .hcFlushAll h => Sys2Proof.Machine.execHcFlushAll h s
  | .hcDrain h => Sys2Proof.Machine.execHcDrain h s
  | .ringEnable h ring => Sys2Proof.Machine.execRingEnable h ring s
  | .rngConsWrite h ring v => Sys2Proof.Machine.execRngConsWrite h ring v s
  | .playbackStart h => Sys2Proof.Machine.execPlaybackStart h s
  | .playbackDone h => Sys2Proof.Machine.execPlaybackDone h s
  | .mailboxRing link mask => Sys2Proof.Machine.execMailboxRing link mask s
  | .mailboxFree link mask => Sys2Proof.Machine.execMailboxFree link mask s
  | .set1Doorbell q => Sys2Proof.Machine.execSet1Doorbell q s
  | .spiWrite addr data => Sys2Proof.Machine.execSpiWrite addr data s
  | .spiQwrite addr data => Sys2Proof.Machine.execSpiQwrite addr data s
  | .spiRead addr words => Sys2Proof.Machine.execSpiRead addr words s
  | .spiQread addr words => Sys2Proof.Machine.execSpiQread addr words s
  | .spiStatus => Sys2Proof.Machine.execSpiStatus s
  | .spiWake => Sys2Proof.Machine.execSpiWake s
  | .spiBadInstruction b => Sys2Proof.Machine.execSpiBadInstruction b s
  | .smWarmReset cause => Sys2Proof.Machine.execSmWarmReset cause s
  | .openExpiry n => Sys2Proof.Machine.execOpenExpiry n s
  | .sessionIdleTimeout n => Sys2Proof.Machine.execSessionIdleTimeout n s
  | .jobComplete n status => Sys2Proof.Machine.execJobComplete n status s
  | .jobExpiry n => Sys2Proof.Machine.execJobExpiry n s
  | .darkAutoRestart core => Sys2Proof.Machine.execDarkAutoRestart core s
  | .powerReconcile => Sys2Proof.Machine.execPowerReconcile s
  | .vidStep => Sys2Proof.Machine.execVidStep s
  | .openSession set slot => Sys2Proof.Machine.execOpenSession set slot s
  | .prove set slot => Sys2Proof.Machine.execProve set slot s
  | .closeSession set slot => Sys2Proof.Machine.execCloseSession set slot s
  | .identify set slot => Sys2Proof.Machine.execIdentify set slot s
  | .health set slot => Sys2Proof.Machine.execHealth set slot s
  | .jobStatus set slot => Sys2Proof.Machine.execJobStatus set slot s
  | .smPolicy set slot => Sys2Proof.Machine.execSmPolicy set slot s
  | .imageChunk set slot => Sys2Proof.Machine.execImageChunk set slot s
  | .imageLoad set slot => Sys2Proof.Machine.execImageLoad set slot s
  | .imageUnload set slot => Sys2Proof.Machine.execImageUnload set slot s
  | .overlayLoad set slot => Sys2Proof.Machine.execOverlayLoad set slot s
  | .unitStart set slot => Sys2Proof.Machine.execUnitStart set slot s
  | .unitStop set slot => Sys2Proof.Machine.execUnitStop set slot s
  | .unitRestart set slot => Sys2Proof.Machine.execUnitRestart set slot s
  | .unitHold set slot => Sys2Proof.Machine.execUnitHold set slot s
  | .powerReq set slot => Sys2Proof.Machine.execPowerReq set slot s
  | .houseState set slot => Sys2Proof.Machine.execHouseState set slot s
  | .setVcore set slot => Sys2Proof.Machine.execSetVcore set slot s
  | .walkConfig set slot => Sys2Proof.Machine.execWalkConfig set slot s
  | .wearPolicy set slot => Sys2Proof.Machine.execWearPolicy set slot s
  | .retireDecide set slot => Sys2Proof.Machine.execRetireDecide set slot s
  | .migrate set slot => Sys2Proof.Machine.execMigrate set slot s
  | .unretire set slot => Sys2Proof.Machine.execUnretire set slot s
  | .scrubSet set slot => Sys2Proof.Machine.execScrubSet set slot s
  | .sramRepair set slot => Sys2Proof.Machine.execSramRepair set slot s
  | .cxlConfig set slot => Sys2Proof.Machine.execCxlConfig set slot s
  | .cxlDecoder set slot => Sys2Proof.Machine.execCxlDecoder set slot s
  | .cxlShadow set slot => Sys2Proof.Machine.execCxlShadow set slot s
  | .cxlPort set slot => Sys2Proof.Machine.execCxlPort set slot s
  | .cxlMirror set slot => Sys2Proof.Machine.execCxlMirror set slot s
  | .hcSetup set slot => Sys2Proof.Machine.execHcSetup set slot s
  | .hcRing set slot => Sys2Proof.Machine.execHcRing set slot s
  | .hcChannel set slot => Sys2Proof.Machine.execHcChannel set slot s
  | .hcPlayback set slot => Sys2Proof.Machine.execHcPlayback set slot s
  | .cueRoute set slot => Sys2Proof.Machine.execCueRoute set slot s
  | .cueFire set slot => Sys2Proof.Machine.execCueFire set slot s
  | .pinClaim set slot => Sys2Proof.Machine.execPinClaim set slot s
  | .pinRelease set slot => Sys2Proof.Machine.execPinRelease set slot s
  | .padRelease set slot => Sys2Proof.Machine.execPadRelease set slot s
  | .regRead set slot => Sys2Proof.Machine.execRegRead set slot s
  | .regWrite set slot => Sys2Proof.Machine.execRegWrite set slot s
  | .logRead set slot => Sys2Proof.Machine.execLogRead set slot s
  | .timeSet set slot => Sys2Proof.Machine.execTimeSet set slot s
  | .timeGet set slot => Sys2Proof.Machine.execTimeGet set slot s
  | .rtcAlarm set slot => Sys2Proof.Machine.execRtcAlarm set slot s
  | .fuseRead set slot => Sys2Proof.Machine.execFuseRead set slot s
  | .keyProvision set slot => Sys2Proof.Machine.execKeyProvision set slot s
  | .keyRevoke set slot => Sys2Proof.Machine.execKeyRevoke set slot s
  | .rollbackRaise set slot => Sys2Proof.Machine.execRollbackRaise set slot s
  | .patchProgram set slot => Sys2Proof.Machine.execPatchProgram set slot s
  | .debugUnlock set slot => Sys2Proof.Machine.execDebugUnlock set slot s
  | .debugDisable set slot => Sys2Proof.Machine.execDebugDisable set slot s
  | .aonPowerOn => Sys2Proof.Machine.execAonPowerOn s
  | .porstAssert => Sys2Proof.Machine.execPorstAssert s
  | .porstRelease => Sys2Proof.Machine.execPorstRelease s
  | .brownout src => Sys2Proof.Machine.execBrownout src s
  | .houseWatchdogExpiry => Sys2Proof.Machine.execHouseWatchdogExpiry s
  | .sramBistDone => Sys2Proof.Machine.execSramBistDone s
  | .windowReadyBoot w => Sys2Proof.Machine.execWindowReadyBoot w s
  | .fuseProgram => Sys2Proof.Machine.execFuseProgram s
  | .fuseProgramDone ok => Sys2Proof.Machine.execFuseProgramDone ok s
  | .refclkLoss => Sys2Proof.Machine.execRefclkLoss s
  | .refclkReturn => Sys2Proof.Machine.execRefclkReturn s
  | .houseEntryBegin => Sys2Proof.Machine.execHouseEntryBegin s
  | .powerEntry => Sys2Proof.Machine.execPowerEntry s
  | .napEntry => Sys2Proof.Machine.execNapEntry s
  | .houseExit => Sys2Proof.Machine.execHouseExit s
  | .wakeI2cMatch read => Sys2Proof.Machine.execWakeI2cMatch read s
  | .wakePin n level => Sys2Proof.Machine.execWakePin n level s
  | .rtcAlarmMatch => Sys2Proof.Machine.execRtcAlarmMatch s
  | .walkScan codes => Sys2Proof.Machine.execWalkScan codes s
  | .domainOnComplete d slot bad => Sys2Proof.Machine.execDomainOnComplete d slot bad s
  | .eventCrossingLaunch event => Sys2Proof.Machine.execEventCrossingLaunch event s
  | .clockResume d => Sys2Proof.Machine.execClockResume d s
  | .padInputEdge p level => Sys2Proof.Machine.execPadInputEdge p level s
  | .serialTxWrite ch v => Sys2Proof.Machine.execSerialTxWrite ch v s
  | .serialRxByte ch b flags => Sys2Proof.Machine.execSerialRxByte ch b flags s
  | .serialRxFrame ch f => Sys2Proof.Machine.execSerialRxFrame ch f s
  | .serialRxOverrun ch => Sys2Proof.Machine.execSerialRxOverrun ch s
  | .serialTxComplete ch => Sys2Proof.Machine.execSerialTxComplete ch s
  | .serialFlushRx ch => Sys2Proof.Machine.execSerialFlushRx ch s
  | .serialFlushTx ch => Sys2Proof.Machine.execSerialFlushTx ch s
  | .serialReleaseFrame ch => Sys2Proof.Machine.execSerialReleaseFrame ch s
  | .pulsePeriodEnd u => Sys2Proof.Machine.execPulsePeriodEnd u s
  | .pulseCaptureEdge u clocks => Sys2Proof.Machine.execPulseCaptureEdge u clocks s
  | .pulseCountMatch u => Sys2Proof.Machine.execPulseCountMatch u s
  | .pulseCaptureTimeout u => Sys2Proof.Machine.execPulseCaptureTimeout u s
  | .pulseStart u => Sys2Proof.Machine.execPulseStart u s
  | .pulseStop u => Sys2Proof.Machine.execPulseStop u s
  | .pulseClear u => Sys2Proof.Machine.execPulseClear u s
  | .pulseLoad u => Sys2Proof.Machine.execPulseLoad u s
  | .adcGo a => Sys2Proof.Machine.execAdcGo a s
  | .adcTrigger a => Sys2Proof.Machine.execAdcTrigger a s
  | .adcConversionDone a code => Sys2Proof.Machine.execAdcConversionDone a code s
  | .troupeWatchdogExpiry core => Sys2Proof.Machine.execTroupeWatchdogExpiry core s
  | .watchdogService core => Sys2Proof.Machine.execWatchdogService core s
  | .tapReset => Sys2Proof.Machine.execTapReset s
  | .extest cells => Sys2Proof.Machine.execExtest cells s
  | .samplePreload cells => Sys2Proof.Machine.execSamplePreload cells s
  | .idcode => Sys2Proof.Machine.execIdcode s
  | .yalnov => Sys2Proof.Machine.execYalnov s
  | .bypass => Sys2Proof.Machine.execBypass s
  | .linkRead addr => Sys2Proof.Machine.execLinkRead addr s
  | .linkWrite addr v => Sys2Proof.Machine.execLinkWrite addr v s
  | .promptGo r => Sys2Proof.Machine.execPromptGo r s
  | .promptCancel r => Sys2Proof.Machine.execPromptCancel r s
  | .promptRetire r => Sys2Proof.Machine.execPromptRetire r s
  | .registerWrite a addr v => Sys2Proof.Machine.execRegisterWrite a addr v s
  | .crystalReturn => Sys2Proof.Machine.execCrystalReturn s
  | .brownoutRecovery => Sys2Proof.Machine.execBrownoutRecovery s
  | .bankVioLoss b => Sys2Proof.Machine.execBankVioLoss b s
  | .bankVioReturn b => Sys2Proof.Machine.execBankVioReturn b s
  | .ctsAssert ch => Sys2Proof.Machine.execCtsAssert ch s
  | .canErrorStateChange ch st => Sys2Proof.Machine.execCanErrorStateChange ch st s
  | .lockoutExpiry slot => Sys2Proof.Machine.execLockoutExpiry slot s
  | .houseWatchdogService => Sys2Proof.Machine.execHouseWatchdogService s
  | .tracePacketSent => Sys2Proof.Machine.execTracePacketSent s

end Sys2Proof.Machine
end

