-- ==== Sys2Proof/Safety.lean ====
section
/-! DEFINITION. What the claims call a sound state, an executing instruction and its retirement. -/

namespace Sys2Proof.Machine

/-- Every array of the state, outside the stage manager, in its one canonical form: keys strictly rising, and no entry equal to what an unlisted key reads as.
Memory is the first (R242, log 6); the rest are tags, codeword errors, device registers, roles, scenes, cores, staging, queues,
latches, writers' buffers, overflow accounts, crossings, consumer inputs, compressors, held writes, serial channels, pulse units,
ADCs and the pad latch. -/
abbrev State.Canonical (s : State) : Prop :=
  Memory.wf s.mem = true ∧ Sparse.wf (fun _ => false) s.tags = true ∧ Sparse.wf (fun _ => false) s.tagBad = true ∧
  Sparse.wf (fun _ => Cw.clean) s.cw = true ∧ Sparse.wf regReset s.regs = true ∧ Sparse.wf (fun _ => Role.reset) s.roles = true ∧
  Sparse.wf (fun _ => Scene.reset) s.scenes = true ∧ Sparse.wf (fun _ => Core.reset) s.cores = true ∧
  Sparse.wf (fun _ => []) s.staging = true ∧ Sparse.wf (fun _ => Queue.reset) s.queues = true ∧
  Sparse.wf (fun _ => Latch.reset) s.latches = true ∧ Sparse.wf (fun _ => []) s.writers = true ∧
  Sparse.wf (fun _ => Ovf.reset) s.ovf = true ∧ Sparse.wf (fun _ => Xev.reset) s.xev = true ∧
  Sparse.wf (fun _ => none) s.cin = true ∧ Sparse.wf (fun _ => []) s.uibIn = true ∧ Sparse.wf (fun _ => Hc.reset) s.hc = true ∧
  Sparse.wf (fun _ => none) s.heldW = true ∧ Sparse.wf (fun _ => SerCh.reset) s.ser = true ∧
  Sparse.wf (fun _ => PulseU.reset) s.pulse = true ∧ Sparse.wf (fun _ => AdcSt.reset) s.adc = true ∧
  Sparse.wf (fun _ => PadShow.hiz) s.padLatch = true

/-! ### Instructions -/

/-- Role r can take word w as instruction op now, and the word's condition holds: the state that the instruction's own effect starts
from (R95, R137). A role that lost slots to w tries it again (log 3). Otherwise the word is the one the role holds or fetches at its
PC, it decodes to op, and the state is the one that the issue leaves: RA cleared, spot units shown the fetch, products aged, the next
two words held. None where the row does not run the instruction: the role is not ready, w is not its word, a fault of steps 1 to 4 of
R95, a wait before the issue, a hold at it, or a failing condition. -/
def State.takes (s : State) (r : Nat) (op : Op) (w : Word) : Option State :=
  if !ready s r then none
  else
    match (s.role r).busy with
    | .blocked v => if v = w && (Ulufy.decode (isLead r) false w).toOption = some op then some s else none
    | _ =>
      match nextWord s r with
      | some (t, .word v) =>
        if v = w && (Ulufy.decode (isLead r) false w).toOption = some op && mayIssue s r op w then
          let t := dropRa t r w
          let a := instrAddr (t.role r) (t.role r).pc
          let held := spotHolds t r spotX a 4 [w]
          let t := spotEvent t r spotX a 4 [w]
          if held && (t.role r).holdReq then none
          else
            let t := startIssue t r
            if condHolds (t.role r).st (bits w 31 28) then some t else none
        else none
      | _ => none

/-- Row i is the row of instruction op for word w of role r. -/
def IsRow (i : Instr) (r : Nat) (op : Op) (w : Word) : Prop := ∃ body, ∀ s, exec i s = .next (issue s r op w body)

/-- From t to u, role r's instruction retired with x as what it made of the role: PC past it, nothing in progress, CONSEC back to 0
where it counted this instruction (R80), one more instruction counted in an open scene (R331), and nothing else changed. -/
structure Retired (t u : State) (r : Nat) (x : Role) : Prop where
  role : { u.role r with abcnt := 0, abnId := none, starved := false } =
    { x with pc := x.pc + 4, busy := .idle, abcnt := 0, abnId := none, starved := false }
  counted : x.abnId = some ⟨x.pc, (x.tick 0).base⟩ →
    (u.role r).abcnt = setBits x.abcnt 3 0 0 ∧ (u.role r).abnId = none ∧ (u.role r).starved = false
  kept : x.abnId ≠ some ⟨x.pc, (x.tick 0).base⟩ →
    (u.role r).abcnt = x.abcnt ∧ (u.role r).abnId = x.abnId ∧ (u.role r).starved = x.starved
  others : ∀ q, q ≠ r → u.role q = t.role q
  scene : u.scene r =
    (if x.sc ∧ isLead r = false then { t.scene r with retired := (t.scene r).retired + 1 } else t.scene r)
  scenes : ∀ q, q ≠ r → u.scene q = t.scene q
  rest : { u with roles := t.roles, scenes := t.scenes } = t

/-- ST after an instruction of the add family that forms x + y + k (R109): C is bit 32 of the sum, Z and N follow the 32-bit result,
V is set where the operands have one sign and the result the other, H is the carry from bit 3 into bit 4, and no other bit changes. -/
structure SumFlags (old new x y : Word) (k : Nat) : Prop where
  c : bit new 0 = decide (2 ^ 32 ≤ x.toNat + y.toNat + k)
  z : bit new 1 = decide ((x.toNat + y.toNat + k) % 2 ^ 32 = 0)
  n : bit new 2 = decide (2 ^ 31 ≤ (x.toNat + y.toNat + k) % 2 ^ 32)
  v : bit new 3 = (bit x 31 == bit y 31 && decide (2 ^ 31 ≤ (x.toNat + y.toNat + k) % 2 ^ 32) != bit x 31)
  h : bit new 4 = decide (16 ≤ bits x 3 0 + bits y 3 0 + k)
  rest : ∀ n, 5 ≤ n → bit new n = bit old n

/-- ST after a result that only Z and N follow (R108). -/
structure ZnFlags (old new res : Word) : Prop where
  z : bit new 1 = decide (res.toNat = 0)
  n : bit new 2 = decide (2 ^ 31 ≤ res.toNat)
  rest : ∀ n, n ≠ 1 → n ≠ 2 → bit new n = bit old n

/-- ST after a shift (R110): Z and N follow the result, and C is written where the table gives a value. -/
structure ShiftFlags (old new res : Word) (c : Option Bool) : Prop where
  c : bit new 0 = c.getD (bit old 0)
  z : bit new 1 = decide (res.toNat = 0)
  n : bit new 2 = decide (2 ^ 31 ≤ res.toNat)
  rest : ∀ n, 3 ≤ n → bit new n = bit old n

/-- What an issue of another role's, a fetch or a spot unit can change of a role: its hold request (R619), its reservation and its
late store error (R210, R267). All else of the role is what this keeps. -/
def Role.quiet (x : Role) : Role := { x with holdReq := false, resv := none, late := none }

/-- A role beside that and beside the words it holds. -/
def Role.still (x : Role) : Role := { x.quiet with fetchQ := [] }

/-- Row i, run on s, retires role r's instruction from the issued state t with x as what it made of the role. -/
def Completes (i : Instr) (s t : State) (r : Nat) (x : Role) : Prop := ∃ u, exec i s = .next u ∧ Retired t u r x

/-- Row i of word w, once role r takes w as op: G register n gets v, ST meets the claim, and the instruction retires. -/
def Writes (i : Instr) (op : Op) (s t : State) (r : Nat) (w : Word) (n : Nat) (v : Word) (claim : Word → Prop) : Prop :=
  s.takes r op w = some t → ∃ st, Completes i s t r { (t.role r).setG n v with st := st } ∧ claim st

/-- The flag bit F of class 0x0 (R107): with F the claim holds of ST, without it ST is as before. -/
def WithF (w old : Word) (claim : Word → Prop) (st : Word) : Prop := if bit w 0 then claim st else st = old

/-- One packed-decimal addition or subtraction of eight digits (R114): with carry or borrow k into digit 0, digit i of the result is
the low nibble of the digit sum or difference, adjusted by ten where it carries or borrows, and kOut leaves digit 7. -/
def DecimalSum (sub : Bool) (a b : Word) (kIn : Nat) (v : Word) (kOut : Nat) : Prop :=
  ∃ k : Nat → Nat, k 0 = kIn ∧ k 8 = kOut ∧ ∀ i, i < 8 →
    let x := bits a (4 * i + 3) (4 * i)
    let y := bits b (4 * i + 3) (4 * i)
    let d : Int := if sub then (x : Int) - y - k i else (x : Int) + y + k i
    let adj : Bool := if sub then d < 0 else 10 ≤ d
    k (i + 1) = (if adj then 1 else 0) ∧
    (bits v (4 * i + 3) (4 * i) : Int) = (if adj then (if sub then d + 10 else d - 10) else d) % 16

/-- True where some of the eight digits of a is 10 to 15 (R112). -/
def InvalidDigits (a : Word) : Prop := ∃ i, i < 8 ∧ 9 < bits a (4 * i + 3) (4 * i)

/-- ST after a decimal result (R113): D where the instruction writes it, Z, E set where a checked digit is invalid, and no other bit. -/
structure DecimalFlags (old new : Word) (d : Option Bool) (z : Bool) (bad : Prop) : Prop where
  d : bit new 5 = d.getD (bit old 5)
  z : bit new 1 = z
  e : bit new 6 = true ↔ (bit old 6 = true ∨ bad)
  rest : ∀ n, n ≠ 1 → n ≠ 5 → n ≠ 6 → bit new n = bit old n

/-! ### Memory -/

/-- Offset of a load or store outside prompts and repeats (R131): G[ga] + imm9 × size modulo 2^32. -/
def accessOff (x : Role) (w : Word) : Nat :=
  (x.greg (mGa w) + BitVec.ofInt 32 ((BitVec.ofNat 9 w.toNat).toInt * 2 ^ bits w 20 19)).toNat

/-- The n bytes from a on lie outside the CXL windows, in codewords without error (R384). -/
def Plain (s : State) (a n : Nat) : Prop :=
  ∀ i, i < n → inCxl ((a + i) / 16 * 16) = false ∧ inCxl (a + i) = false ∧ cwAt s ((a + i) / 8) = Cw.clean

/-- The n bytes from a on can be read on the chip: no CXL window, no codeword in error, no error response, nothing staged there. -/
def Readable (s : State) (a n : Nat) : Prop :=
  ∀ k, a / 8 ≤ k → k ≤ (a + n - 1) / 8 →
    inCxl (k * 8) = false ∧ cwAt s k = Cw.clean ∧ loadError s (k * 8) = false ∧ s.staged (areaOf (k * 8)) = []

/-- From s to t no byte of memory changes but those where p holds. -/
def KeepsBytes (s t : State) (p : Nat → Prop) : Prop := ∀ k, ¬ p k → byteAt t k = byteAt s k

/-- From s to t at most CLEAN of role r's scene record falls (R334), with what its write does to reservations on that doubleword. -/
def CleanFalls (s t : State) (r : Nat) : Prop :=
  t = s ∨ (isLead r = false ∧ (s.role r).sc = false ∧ recFlag s r 9 = true ∧ t = setRecWord s r 8 (setBit (recWord s r 8) 9 false))

/-- No spot unit of role r's company is enabled. -/
def NoSpots (s : State) (r : Nat) : Prop := ∀ n, n < 16 → s.flag (Adr.spotCtl (companyOf r) n) 0 = false

/-- Row i, run on s, retires role r's instruction after what it made of the state, and of CLEAN, outside a scene. -/
def CompletesUnclean (i : Instr) (s t : State) (r : Nat) : Prop :=
  ∃ c u, CleanFalls t c r ∧ exec i s = .next u ∧ Retired c u r (c.role r)

/-- From t to u, role r's instruction retired with x as what it made of the role, and a jump to p (R137, R163): as `Retired`, but for
the PC and the words that the role holds afterwards, whose fetch can take reservations and hold requests with it. -/
structure Jumped (t u : State) (r : Nat) (x : Role) (p : Word) : Prop where
  role : { (u.role r).still with abcnt := 0, abnId := none, starved := false } =
    { Role.still { x with pc := p, busy := .idle } with abcnt := 0, abnId := none, starved := false }
  counted : x.abnId = some ⟨x.pc, (x.tick 0).base⟩ →
    (u.role r).abcnt = setBits x.abcnt 3 0 0 ∧ (u.role r).abnId = none ∧ (u.role r).starved = false
  kept : x.abnId ≠ some ⟨x.pc, (x.tick 0).base⟩ →
    (u.role r).abcnt = x.abcnt ∧ (u.role r).abnId = x.abnId ∧ (u.role r).starved = x.starved
  others : ∀ q, q ≠ r → (u.role q).quiet = (t.role q).quiet
  scene : u.scene r =
    (if x.sc ∧ isLead r = false then { t.scene r with retired := (t.scene r).retired + 1 } else t.scene r)
  scenes : ∀ q, q ≠ r → u.scene q = t.scene q
  rest : u.cores = t.cores ∧ u.queues = t.queues

/-- Row i, run on s, retires role r's instruction with x as what it made of the role, and jumps to p. -/
def Jumps (i : Instr) (s t : State) (r : Nat) (x : Role) (p : Word) : Prop := ∃ u, exec i s = .next u ∧ Jumped t u r x p

/-- Row i of word w, once role r takes w as op outside a scene: ticket register td gets v, after the instruction's CONSEC is cleared
under the code ticket that it issued with (R80, R158); CLEAN falls and the instruction retires. -/
def WritesTicket (i : Instr) (op : Op) (s t : State) (r : Nat) (w : Word) (v : Ticket) : Prop :=
  s.takes r op w = some t → (t.role r).sc = false →
    CompletesUnclean i s (t.setRole r ((clearConsec (t.role r) (t.role r).pc).setT (tTd w) v)) r

/-- Row i of word w, once role r takes w as op, takes a synchronous fault from the issued state. -/
def Faults (i : Instr) (op : Op) (s t : State) (r : Nat) (w : Word) (vec detail : Nat) (addr : Option Nat) : Prop :=
  s.takes r op w = some t → exec i s = .next (syncFault t r vec detail w addr)

/-! ### Exceptions -/

/-- Role r's frame can be written: its depth is below 16, TST gives the 64 bytes with R, W, LT and ST (R236, R257), and they are
powered memory of the chip without an error. -/
def CanEnter (s : State) (r : Nat) : Prop :=
  let x := s.role r
  let a := x.tst.addr (x.rpd * 64)
  x.rpd < 16 ∧ x.tst.check (x.rpd * 64) 64 [permR, permW, permLT, permST] false false = none ∧ Plain s a 64 ∧
  ∀ i, i < 8 → isMemory (a + 8 * i) = true ∧ storeError s (a + 8 * i) = false

/-- The words of a frame from offset 0x00 to 0x2C (R259, R260), x with its products landed. -/
def frameWords (x : Role) (e : Entry) : List Nat :=
  [e.pc.toNat, e.st.toNat, x.rc.toNat, x.mpl.toNat, x.mph.toNat, x.dq.toNat, x.drm.toNat,
    e.vector + e.detail % 256 * 2 ^ 8 + e.level * 2 ^ 16 + (if e.addr.isSome then 2 ^ 20 else 0) + (if e.stpcv then 2 ^ 21 else 0) +
      (if e.abn then 2 ^ 22 else 0) + (if e.sidv then 2 ^ 23 else 0) + e.merged % 256 * 2 ^ 24,
    e.addr.getD 0 % 2 ^ 32, e.addr.getD 0 / 2 ^ 32 % 2 ^ 16, e.instr.toNat, e.aux.toNat]

/-- From s to c, role r's frame is written (R257 to R259): the words above and T0 at TST.BASE + 64 × depth, with T0's tag where the frame
lies on a granule of SRAM. No other byte changes, and of the role only its products landing and its older posted bytes there. -/
structure FrameWritten (s c : State) (r : Nat) (e : Entry) : Prop where
  bytes : (List.range 64).map (fun i => byteAt c ((s.role r).tst.addr ((s.role r).rpd * 64) + i)) =
    (frameWords (landAll (s.role r)) e).flatMap (leBytes 4) ++ leBytes 16 ((s.role r).tick 0).toNat
  tag : (s.role r).tst.addr ((s.role r).rpd * 64) % 16 = 0 →
    regionOf ((s.role r).tst.addr ((s.role r).rpd * 64) + 56) = .sram →
    tagAt c ((s.role r).tst.addr ((s.role r).rpd * 64) / 16 + 3) = ((s.role r).tick 0).tag
  kept : KeepsBytes s c (fun k =>
    (s.role r).tst.addr ((s.role r).rpd * 64) ≤ k ∧ k < (s.role r).tst.addr ((s.role r).rpd * 64) + 64)
  role : { (c.role r).quiet with posted := [] } = { (landAll (s.role r)).quiet with posted := [] }
  others : ∀ q, q ≠ r → (c.role q).quiet = (s.role q).quiet
  rest : c.cores = s.cores ∧ c.queues = s.queues

/-- From s to u, role r takes entry e (R257): the frame is written, CLEAN falls outside a scene (R334), the level is pushed with frame
kind, the reservation and RA fall, T0 becomes HT, and PC the vector's. All else of the role stays live. -/
def Entered (s u : State) (r : Nat) (e : Entry) : Prop :=
  ∃ c d, FrameWritten s c r e ∧ CleanFalls c d r ∧
    u = d.setRole r { (d.role r).setT 0 (d.role r).ht with
      stack := ⟨BitVec.ofNat 4 e.level, false⟩ :: (d.role r).stack
      resv := none
      st := setBit e.st 8 false
      pc := BitVec.ofNat 32 (0x20 * e.vector)
      fetchQ := []
      rep := none
      busy := .idle
      eoiClosed := false }

/-- From s to u, the core of role r goes dark (R268) with nothing in progress in its roles: they freeze, r is the one that went dark,
the dark register shows the core, the count rises, and no other role changes. -/
structure Darkened (s u : State) (r : Nat) : Prop where
  here : ∀ q, q ∈ rolesOf (coreOf r) → u.role q = { s.role q with
    frozen := true
    fetchQ := []
    wentDark := decide (q = r) || (s.role q).wentDark }
  others : ∀ q, q ∉ rolesOf (coreOf r) → u.role q = s.role q
  shown : coreDark u (coreOf r) = true
  count : u.field Adr.darkCnt 15 0 = min 0xFFFF (s.field Adr.darkCnt 15 0 + 1)
  fault : u.flag (Adr.uibFault (uibOf r)) 0 = true
  mem : u.mem = s.mem

/-! ### Scenes -/

/-- From x to y, a role is restored from the bytes l of its scene record (R325, R350): registers, T0 and the depth of the stack. -/
structure Restored (x y : Role) (l : List Byte) (tag : Bool) : Prop where
  st : ∀ n, n ≠ 9 → bit y.st n = bit (BitVec.ofNat 32 (leNat ((l.drop 0x10).take 4)) : Word) n
  rc : y.rc = BitVec.ofNat 16 (leNat ((l.drop 0x14).take 4))
  mul : y.mpl = BitVec.ofNat 32 (leNat ((l.drop 0x18).take 4)) ∧ y.mph = BitVec.ofNat 32 (leNat ((l.drop 0x1C).take 4))
  div : y.dq = BitVec.ofNat 32 (leNat ((l.drop 0x20).take 4)) ∧ y.drm = BitVec.ofNat 32 (leNat ((l.drop 0x24).take 4))
  t0 : y.tick 0 = Ticket.ofNat (leNat ((l.drop 0x30).take 16)) tag
  ticks : ∀ n, 0 < n → n < 8 → y.tick n = x.tick n
  g : ∀ n, 0 < n → n < 32 → y.greg n = BitVec.ofNat 32 (leNat ((l.drop (0x3C + 4 * n)).take 4))
  stack : y.stack = x.stack.drop (x.stack.length - leNat ((l.drop 8).take 4) % 32)
  idle : y.busy = .idle ∧ y.rep = none ∧ y.prodOld = none ∧ y.prodNew = none

/-! ### Devices -/

/-- From s to u no word of the device region changes but those listed, and nothing else of the state. -/
structure OnlyRegs (s u : State) (l : List Nat) : Prop where
  regs : ∀ a, a ∉ l → u.reg a = s.reg a
  rest : { u with regs := s.regs } = s

/-! ### Commands -/

/-- The command c of a slot runs under the row of opcode op from t (R471, R472, R481): the stage manager can take it, checks 1 to 6 and the
layout pass, and t is s with the slot in EXEC and the command's SEQ its session's last. -/
structure Serves (op : Nat) (set : Fin 3) (slot : Fin 8) (s t : State) (c : Cmd) : Prop where
  takes : rowTakes s op set slot = true
  named : c.op = op
  opened : openCmd (takeSlot s set slot) set slot (blockAt s set slot) = .ok c
  checked : sessionCheck c (blockAt s set slot) = none
  table : tableCheck c = none
  start : t = acceptSeq (takeSlot s set slot) c

/-- Whenever the row of an opcode runs a command c from t, the claim holds; in it, ans u r says that the row's next state is u with the
command answered by r. -/
def Runs (op : Nat) (row : Fin 3 → Fin 8 → Instr) (claim : State → Cmd → (State → Reply → Prop) → Prop) : Prop :=
  ∀ set slot s t c, Serves op set slot s t c →
    claim t c (fun u r => exec (row set slot) s = .next (answer u c (blockAt s set slot) r))

/-- The work k of a command c goes on as a job (R498): BUSY where eight run, else STARTED with the job's id, in the lowest free place. -/
def StartsJob (t : State) (c : Cmd) (k : JobKind) (ans : State → Reply → Prop) : Prop :=
  ((∀ i, i < 8 → jobOf t i ≠ none) → ans t (Reply.bare 0x09)) ∧
  (∀ i, i < 8 → jobOf t i = none → (∀ j, j < i → jobOf t j ≠ none) → ∃ u, ans u ⟨0x01, leBytes 2 t.sm.nextJob, [], false⟩ ∧
    { u with sm := { u.sm with jobs := t.sm.jobs, nextJob := t.sm.nextJob } } = t ∧
    u.sm.nextJob = (if t.sm.nextJob = 0xFFFF then 1 else t.sm.nextJob + 1) ∧
    ∀ j, jobOf u j = if j = i then some ⟨t.sm.nextJob, k, true, 0, 0, [], if c.byImage then c.cid else 0⟩ else jobOf t j)

/-- From s to v every role's DBT follows the units that v has unlocked (R513, R607), and no more of the roles changes. -/
def DbtsFollow (s v : State) : Prop := ∀ r, v.role r = (if r < 528 then
  { s.role r with dbt := if v.sm.unlocked.any (fun x => (uibChain (uibOf r)).contains x.1) then
      ⟨0, BitVec.ofNat 48 (2 ^ 48 - 1), 0xFF, 0xFFF, 0, true⟩ else Ticket.null } else s.role r)

end Sys2Proof.Machine
end

