-- ==== Sys2Proof/WellFormed.lean ====
section
/-! DEFINITION. Well-formed commands: an instruction row carries a word that spells its own instruction, or a reserved word whose
trap the command takes; byte lists have the lengths their transfers have. -/

namespace Sys2Proof

/-- The function and the role and word of an instruction row; none for an event row. -/
def Instr.wordOf : Instr → Option (Op × RoleId × Word)
  | .add r w => some (.add, r, w)
  | .addc r w => some (.addc, r, w)
  | .sub r w => some (.sub, r, w)
  | .subc r w => some (.subc, r, w)
  | .and r w => some (.and, r, w)
  | .or r w => some (.or, r, w)
  | .xor r w => some (.xor, r, w)
  | .andn r w => some (.andn, r, w)
  | .mov r w => some (.mov, r, w)
  | .not r w => some (.not, r, w)
  | .lsl r w => some (.lsl, r, w)
  | .lsr r w => some (.lsr, r, w)
  | .asr r w => some (.asr, r, w)
  | .ror r w => some (.ror, r, w)
  | .cmp r w => some (.cmp, r, w)
  | .cmpa r w => some (.cmpa, r, w)
  | .tst r w => some (.tst, r, w)
  | .tstx r w => some (.tstx, r, w)
  | .mins r w => some (.mins, r, w)
  | .maxs r w => some (.maxs, r, w)
  | .minu r w => some (.minu, r, w)
  | .maxu r w => some (.maxu, r, w)
  | .clz r w => some (.clz, r, w)
  | .sxb r w => some (.sxb, r, w)
  | .sxh r w => some (.sxh, r, w)
  | .zxh r w => some (.zxh, r, w)
  | .addi r w => some (.addi, r, w)
  | .addif r w => some (.addif, r, w)
  | .cmpi r w => some (.cmpi, r, w)
  | .andi r w => some (.andi, r, w)
  | .ori r w => some (.ori, r, w)
  | .xori r w => some (.xori, r, w)
  | .tsti r w => some (.tsti, r, w)
  | .lsli r w => some (.lsli, r, w)
  | .lsri r w => some (.lsri, r, w)
  | .asri r w => some (.asri, r, w)
  | .rori r w => some (.rori, r, w)
  | .shin r w => some (.shin, r, w)
  | .dadd r w => some (.dadd, r, w)
  | .daddC r w => some (.daddC, r, w)
  | .dsub r w => some (.dsub, r, w)
  | .dsubC r w => some (.dsubC, r, w)
  | .dadj r w => some (.dadj, r, w)
  | .dshl r w => some (.dshl, r, w)
  | .dshr r w => some (.dshr, r, w)
  | .bin2d r w => some (.bin2d, r, w)
  | .d2bin r w => some (.d2bin, r, w)
  | .mul r w => some (.mul, r, w)
  | .mulu r w => some (.mulu, r, w)
  | .productLanding _ => none
  | .div r w => some (.div, r, w)
  | .divu r w => some (.divu, r, w)
  | .multiBeatRetire _ => none
  | .load r w => some (.load, r, w)
  | .loadResponse _ => none
  | .store r w => some (.store, r, w)
  | .storeAccepted _ _ => none
  | .storeErrorResponse _ _ => none
  | .qpush r w => some (.qpush, r, w)
  | .qpop r w => some (.qpop, r, w)
  | .qpopt r w => some (.qpopt, r, w)
  | .qopen r w => some (.qopen, r, w)
  | .qclose r w => some (.qclose, r, w)
  | .queuePushAccepted _ => none
  | .queuePopDelivered _ => none
  | .cue r w => some (.cue, r, w)
  | .ldx r w => some (.ldx, r, w)
  | .ldxp r w => some (.ldxp, r, w)
  | .stx r w => some (.stx, r, w)
  | .stxp r w => some (.stxp, r, w)
  | .tmove r w => some (.tmove, r, w)
  | .tclr r w => some (.tclr, r, w)
  | .tnarrow r w => some (.tnarrow, r, w)
  | .tperm r w => some (.tperm, r, w)
  | .tseal r w => some (.tseal, r, w)
  | .tunseal r w => some (.tunseal, r, w)
  | .tload r w => some (.tload, r, w)
  | .tstore r w => some (.tstore, r, w)
  | .tget r w => some (.tget, r, w)
  | .trds r w => some (.trds, r, w)
  | .twrs r w => some (.twrs, r, w)
  | .branch r w => some (.branch, r, w)
  | .bl r w => some (.bl, r, w)
  | .callt r w => some (.callt, r, w)
  | .rett r w => some (.rett, r, w)
  | .jr r w => some (.jr, r, w)
  | .jrl r w => some (.jrl, r, w)
  | .mfs r w => some (.mfs, r, w)
  | .mts r w => some (.mts, r, w)
  | .syncI r w => some (.syncI, r, w)
  | .wait r w => some (.wait, r, w)
  | .waitcue r w => some (.waitcue, r, w)
  | .waitcueWake _ => none
  | .mask r w => some (.mask, r, w)
  | .rfe r w => some (.rfe, r, w)
  | .rep r w => some (.rep, r, w)
  | .repIteration _ => none
  | .sceneBegin r w => some (.sceneBegin, r, w)
  | .sceneEnd r w => some (.sceneEnd, r, w)
  | .dmul16 r w => some (.dmul16, r, w)
  | .ddiv16 r w => some (.ddiv16, r, w)
  | .mul64 r w => some (.mul64, r, w)
  | .mul64u r w => some (.mul64u, r, w)
  | .div64 r w => some (.div64, r, w)
  | .div64u r w => some (.div64u, r, w)
  | .crc32c r w => some (.crc32c, r, w)
  | .hpint r w => some (.hpint, r, w)
  | .hprice r w => some (.hprice, r, w)
  | .lbar r w => some (.lbar, r, w)
  | .lmoder r w => some (.lmoder, r, w)
  | .lmodew r w => some (.lmodew, r, w)
  | .lclean r w => some (.lclean, r, w)
  | .longOpRetire _ _ => none
  | .dcacheFill _ _ => none
  | .interruptRecognition _ => none
  | .pfailAssert => none
  | .pfailDeassert => none
  | .gpfPhaseComplete _ _ => none
  | .beatperWindow _ _ => none
  | .metronomeBoundary _ => none
  | .xtalLost => none
  | .oscillatorFailover => none
  | .metroLoRead => none
  | .fireTaken _ => none
  | .hardwareEventFire _ => none
  | .constantWordPush _ => none
  | .padCueAction _ => none
  | .timerCueAction _ => none
  | .uibCueAction _ => none
  | .callSheetRecordWrite _ => none
  | .csConsWrite _ _ _ => none
  | .csDescriptorWrite _ _ _ _ _ => none
  | .crossbarRouteWrite _ _ _ _ => none
  | .timerStart _ => none
  | .timerStop _ => none
  | .timerExpiry _ => none
  | .uibPwrreqWrite _ _ => none
  | .uibHoldWrite _ _ _ => none
  | .holdEntry _ => none
  | .holdRelease _ => none
  | .uibFaultClear _ _ => none
  | .uibFaultClrcnt _ => none
  | .uibCueinWrite _ _ _ => none
  | .queueFlush _ => none
  | .curtainLockGrant _ => none
  | .curtainFlip _ => none
  | .stagingDrain _ => none
  | .effectRelease _ => none
  | .coreFaultDetected _ _ => none
  | .stallDetectorExpiry _ _ => none
  | .scnCtlAbandon _ _ => none
  | .scnCtlReplay _ _ => none
  | .scnCtlClrcnt _ => none
  | .coreMigration _ _ => none
  | .leadMigration _ _ _ => none
  | .slackReading _ _ => none
  | .retirementNoticeRepeat _ => none
  | .scrubWord => none
  | .sramRepairComplete _ _ => none
  | .correctionRewrite => none
  | .shadowFormatDone _ => none
  | .cxlPortBringup _ _ => none
  | .cxlLinkTrained _ _ _ => none
  | .cxlLinkError _ _ _ => none
  | .cxlLinkDown _ => none
  | .cxlCompletion _ _ _ => none
  | .cxlCompletionTimeout _ _ => none
  | .cxlRetrainAttempt _ _ => none
  | .resyncLineCopy => none
  | .healthScoreDecay => none
  | .dirtyWriteback => none
  | .feedPop _ _ => none
  | .blockAgeCheck _ => none
  | .closeEngineHalf _ => none
  | .contextFetch _ => none
  | .hcConfig _ => none
  | .hcFlush _ => none
  | .hcReset _ => none
  | .hcFlushAll _ => none
  | .hcDrain _ => none
  | .ringEnable _ _ => none
  | .rngConsWrite _ _ _ => none
  | .playbackStart _ => none
  | .playbackDone _ => none
  | .mailboxRing _ _ => none
  | .mailboxFree _ _ => none
  | .set1Doorbell _ => none
  | .spiWrite _ _ => none
  | .spiQwrite _ _ => none
  | .spiRead _ _ => none
  | .spiQread _ _ => none
  | .spiStatus => none
  | .spiWake => none
  | .spiBadInstruction _ => none
  | .smWarmReset _ => none
  | .openExpiry _ => none
  | .sessionIdleTimeout _ => none
  | .jobComplete _ _ => none
  | .jobExpiry _ => none
  | .darkAutoRestart _ => none
  | .powerReconcile => none
  | .vidStep => none
  | .openSession _ _ => none
  | .prove _ _ => none
  | .closeSession _ _ => none
  | .identify _ _ => none
  | .health _ _ => none
  | .jobStatus _ _ => none
  | .smPolicy _ _ => none
  | .imageChunk _ _ => none
  | .imageLoad _ _ => none
  | .imageUnload _ _ => none
  | .overlayLoad _ _ => none
  | .unitStart _ _ => none
  | .unitStop _ _ => none
  | .unitRestart _ _ => none
  | .unitHold _ _ => none
  | .powerReq _ _ => none
  | .houseState _ _ => none
  | .setVcore _ _ => none
  | .walkConfig _ _ => none
  | .wearPolicy _ _ => none
  | .retireDecide _ _ => none
  | .migrate _ _ => none
  | .unretire _ _ => none
  | .scrubSet _ _ => none
  | .sramRepair _ _ => none
  | .cxlConfig _ _ => none
  | .cxlDecoder _ _ => none
  | .cxlShadow _ _ => none
  | .cxlPort _ _ => none
  | .cxlMirror _ _ => none
  | .hcSetup _ _ => none
  | .hcRing _ _ => none
  | .hcChannel _ _ => none
  | .hcPlayback _ _ => none
  | .cueRoute _ _ => none
  | .cueFire _ _ => none
  | .pinClaim _ _ => none
  | .pinRelease _ _ => none
  | .padRelease _ _ => none
  | .regRead _ _ => none
  | .regWrite _ _ => none
  | .logRead _ _ => none
  | .timeSet _ _ => none
  | .timeGet _ _ => none
  | .rtcAlarm _ _ => none
  | .fuseRead _ _ => none
  | .keyProvision _ _ => none
  | .keyRevoke _ _ => none
  | .rollbackRaise _ _ => none
  | .patchProgram _ _ => none
  | .debugUnlock _ _ => none
  | .debugDisable _ _ => none
  | .aonPowerOn => none
  | .porstAssert => none
  | .porstRelease => none
  | .brownout _ => none
  | .houseWatchdogExpiry => none
  | .sramBistDone => none
  | .windowReadyBoot _ => none
  | .fuseProgram => none
  | .fuseProgramDone _ => none
  | .refclkLoss => none
  | .refclkReturn => none
  | .houseEntryBegin => none
  | .powerEntry => none
  | .napEntry => none
  | .houseExit => none
  | .wakeI2cMatch _ => none
  | .wakePin _ _ => none
  | .rtcAlarmMatch => none
  | .walkScan _ => none
  | .domainOnComplete _ _ _ => none
  | .eventCrossingLaunch _ => none
  | .clockResume _ => none
  | .padInputEdge _ _ => none
  | .serialTxWrite _ _ => none
  | .serialRxByte _ _ _ => none
  | .serialRxFrame _ _ => none
  | .serialRxOverrun _ => none
  | .serialTxComplete _ => none
  | .serialFlushRx _ => none
  | .serialFlushTx _ => none
  | .serialReleaseFrame _ => none
  | .pulsePeriodEnd _ => none
  | .pulseCaptureEdge _ _ => none
  | .pulseCountMatch _ => none
  | .pulseCaptureTimeout _ => none
  | .pulseStart _ => none
  | .pulseStop _ => none
  | .pulseClear _ => none
  | .pulseLoad _ => none
  | .adcGo _ => none
  | .adcTrigger _ => none
  | .adcConversionDone _ _ => none
  | .troupeWatchdogExpiry _ => none
  | .watchdogService _ => none
  | .tapReset => none
  | .extest _ => none
  | .samplePreload _ => none
  | .idcode => none
  | .yalnov => none
  | .bypass => none
  | .linkRead _ => none
  | .linkWrite _ _ => none
  | .promptGo _ => none
  | .promptCancel _ => none
  | .promptRetire _ => none
  | .registerWrite _ _ _ => none
  | .crystalReturn => none
  | .brownoutRecovery => none
  | .bankVioLoss _ => none
  | .bankVioReturn _ => none
  | .ctsAssert _ => none
  | .canErrorStateChange _ _ => none
  | .lockoutExpiry _ => none
  | .houseWatchdogService => none
  | .tracePacketSent => none

/-- True for a well-formed command: the word of an instruction row spells that instruction or is reserved (R96); an SPI transfer
moves whole words (R474); a line written by a walk scan holds at most 15 codes (R556). -/
def Instr.wf (i : Instr) : Bool :=
  match i.wordOf with
  | some (op, r, w) =>
    match Ulufy.decode (decide (512 ≤ r.val)) true w with
    | .ok o => o == op
    | .error _ => true
  | none =>
    match i with
    | .spiWrite _ d => d.length % 4 == 0 && d.length ≤ 4096
    | .spiQwrite _ d => d.length % 4 == 0 && d.length ≤ 4096
    | .walkScan c => c.length ≤ 15
    | _ => true

end Sys2Proof
end

