-- ==== Sys2Proof/Certificates/Slice0/Obligations.lean ====
section
/-! DEFINITION. The statements for the provers. -/

open Sys2Proof Sys2Proof.Machine

/-- A step runs the command at the front of the queue, on the state with the queue's rest (log 1). -/
def Obligations.StepRunsFront : Prop :=
  ∀ (c : Instr) (s : State), step { s with pending := c :: s.pending } = exec c s

/-- What an issue leaves, and faults of the fetch, reserved words and failing conditions (R78, R90, R95, R96, R120, R137, R169).
The model's own choices in it: logs 3, 5. -/
def Obligations.IssueLeaves : Prop :=
  let left := fun (s t : State) (r : Nat) (w : Word) =>
    (∀ q, q ≠ r → (t.role q).quiet = (s.role q).quiet) ∧ t.scenes = s.scenes ∧ t.cores = s.cores ∧ t.queues = s.queues ∧
    (t.role r).rep = none ∧ (t.role r).prompt = false ∧
    ((∃ v, (s.role r).busy = .blocked v) → t = s) ∧
    ((∀ v, (s.role r).busy ≠ .blocked v) →
      (t.role r).still =
        Role.still { s.role r with
          st := if Ulufy.cls w = 11 then (s.role r).st else setBit (s.role r).st 8 false
          mpl := match (s.role r).prodOld with
            | some p => p.setWidth 32
            | none => (s.role r).mpl
          mph := match (s.role r).prodOld with
            | some p => (p >>> 32).setWidth 32
            | none => (s.role r).mph
          prodOld := (s.role r).prodNew
          prodNew := none
          eoiClosed := false })
  (∀ (s t : State) (r : Nat) (op : Op) (w : Word), s.takes r op w = some t → left s t r w) ∧
  (∀ (s v : State) (r : Nat) (op : Op) (w : Word) (i : Instr), IsRow i r op w → ready s r = true →
    (∀ x, (s.role r).busy ≠ .blocked x) →
    (∀ vec d a, nextWord s r = some (v, .fault vec d a) → exec i s = .next (syncFault v r vec.toNat d.toNat 0 (some a.toNat))) ∧
    (∀ d, nextWord s r = some (v, .word w) → Ulufy.decode (isLead r) false w = .error d →
      let y := v.role r
      let u := if Ulufy.cls w = 11 then v else v.setRole r { y with st := setBit y.st 8 false }
      exec i s = .next (syncFault u r 2 d.toNat w (some (instrAddr y y.pc)))) ∧
    (nextWord s r = some (v, .word w) → Ulufy.decode (isLead r) false w = .ok op → mayIssue s r op w = true → NoSpots v r →
      condHolds (s.role r).st (bits w 31 28) = false → ∃ t, left s t r w ∧ Completes i s t r (t.role r)))

/-- The add family (R107 to R109, R111). -/
def Obligations.AddFamily : Prop :=
  ∀ (r : RoleId) (w : Word) (s t : State),
    let x := t.role r
    let a := x.greg (fGa w)
    let b := x.greg (fGb w)
    let i := x.greg (iGa w)
    let c := if bit x.st 0 then 1 else 0
    let s10 : Word := (BitVec.ofNat 10 w.toNat).signExtend 32
    Writes (.add r w) .add s t r w (fGd w) (a + b) (WithF w x.st (SumFlags x.st · a b 0)) ∧
    Writes (.addc r w) .addc s t r w (fGd w) (a + b + BitVec.ofNat 32 c) (WithF w x.st (SumFlags x.st · a b c)) ∧
    Writes (.sub r w) .sub s t r w (fGd w) (a - b) (WithF w x.st (SumFlags x.st · a (~~~b) 1)) ∧
    Writes (.subc r w) .subc s t r w (fGd w) (a - b - BitVec.ofNat 32 (1 - c)) (WithF w x.st (SumFlags x.st · a (~~~b) c)) ∧
    Writes (.cmp r w) .cmp s t r w 0 0 (SumFlags x.st · a (~~~b) 1) ∧
    Writes (.cmpa r w) .cmpa s t r w 0 0 (SumFlags x.st · a b 0) ∧
    Writes (.addif r w) .addif s t r w (iGd w) (i + s10) (SumFlags x.st · i s10 0) ∧
    Writes (.cmpi r w) .cmpi s t r w 0 0 (SumFlags x.st · i (~~~s10) 1)

/-- The other single-result functions of class 0x0 (R107, R108). The model's own choices in it: log 3. -/
def Obligations.LogicFamily : Prop :=
  ∀ (r : RoleId) (w : Word) (s t : State),
    let x := t.role r
    let a := x.greg (fGa w)
    let b := x.greg (fGb w)
    let zn : Word → Word → Prop := fun v => WithF w x.st (ZnFlags x.st · v)
    Writes (.and r w) .and s t r w (fGd w) (a &&& b) (zn (a &&& b)) ∧
    Writes (.or r w) .or s t r w (fGd w) (a ||| b) (zn (a ||| b)) ∧
    Writes (.xor r w) .xor s t r w (fGd w) (a ^^^ b) (zn (a ^^^ b)) ∧
    Writes (.andn r w) .andn s t r w (fGd w) (a &&& ~~~b) (zn (a &&& ~~~b)) ∧
    Writes (.mov r w) .mov s t r w (fGd w) a (zn a) ∧
    Writes (.not r w) .not s t r w (fGd w) (~~~a) (zn (~~~a)) ∧
    Writes (.tst r w) .tst s t r w 0 0 (ZnFlags x.st · (a &&& b)) ∧
    Writes (.tstx r w) .tstx s t r w 0 0 (ZnFlags x.st · (a ^^^ b)) ∧
    Writes (.mins r w) .mins s t r w (fGd w) (if a.toInt < b.toInt then a else b) (zn (if a.toInt < b.toInt then a else b)) ∧
    Writes (.maxs r w) .maxs s t r w (fGd w) (if a.toInt < b.toInt then b else a) (zn (if a.toInt < b.toInt then b else a)) ∧
    Writes (.minu r w) .minu s t r w (fGd w) (if a.toNat < b.toNat then a else b) (zn (if a.toNat < b.toNat then a else b)) ∧
    Writes (.maxu r w) .maxu s t r w (fGd w) (if a.toNat < b.toNat then b else a) (zn (if a.toNat < b.toNat then b else a)) ∧
    (∀ k : Nat, k ≤ 32 → (∀ j, j < k → bit a (31 - j) = false) → (k < 32 → bit a (31 - k) = true) →
      Writes (.clz r w) .clz s t r w (fGd w) (BitVec.ofNat 32 k) (zn (BitVec.ofNat 32 k))) ∧
    Writes (.sxb r w) .sxb s t r w (fGd w) (BitVec.ofInt 32 (BitVec.ofNat 8 a.toNat).toInt)
      (zn (BitVec.ofInt 32 (BitVec.ofNat 8 a.toNat).toInt)) ∧
    Writes (.sxh r w) .sxh s t r w (fGd w) (BitVec.ofInt 32 (BitVec.ofNat 16 a.toNat).toInt)
      (zn (BitVec.ofInt 32 (BitVec.ofNat 16 a.toNat).toInt)) ∧
    Writes (.zxh r w) .zxh s t r w (fGd w) (BitVec.ofNat 32 (a.toNat % 2 ^ 16)) (zn (BitVec.ofNat 32 (a.toNat % 2 ^ 16)))

/-- The shifts (R107, R110). -/
def Obligations.Shifts : Prop :=
  ∀ (r : RoleId) (w : Word) (s t : State) (n : Nat),
    let x := t.role r
    let a := x.greg (fGa w)
    let sign : Word := if bit a 31 then ~~~(0 : Word) else 0
    let rot : Word := BitVec.ofNat 32 (a.toNat / 2 ^ (n % 32)) ||| BitVec.ofNat 32 (a.toNat * 2 ^ (32 - n % 32))
    let sh : Word → Option Bool → Word → Prop := fun v c => WithF w x.st (ShiftFlags x.st · v c)
    n = (x.greg (fGb w)).toNat % 256 →
      (n = 0 →
        Writes (.lsl r w) .lsl s t r w (fGd w) a (sh a none) ∧ Writes (.lsr r w) .lsr s t r w (fGd w) a (sh a none) ∧
        Writes (.asr r w) .asr s t r w (fGd w) a (sh a none) ∧ Writes (.ror r w) .ror s t r w (fGd w) a (sh a none)) ∧
      (1 ≤ n → n ≤ 31 →
        Writes (.lsl r w) .lsl s t r w (fGd w) (BitVec.ofNat 32 (a.toNat * 2 ^ n))
          (sh (BitVec.ofNat 32 (a.toNat * 2 ^ n)) (some (bit a (32 - n)))) ∧
        Writes (.lsr r w) .lsr s t r w (fGd w) (BitVec.ofNat 32 (a.toNat / 2 ^ n))
          (sh (BitVec.ofNat 32 (a.toNat / 2 ^ n)) (some (bit a (n - 1)))) ∧
        Writes (.asr r w) .asr s t r w (fGd w) (BitVec.ofInt 32 (a.toInt / 2 ^ n))
          (sh (BitVec.ofInt 32 (a.toInt / 2 ^ n)) (some (bit a (n - 1))))) ∧
      (n = 32 →
        Writes (.lsl r w) .lsl s t r w (fGd w) 0 (sh 0 (some (bit a 0))) ∧
        Writes (.lsr r w) .lsr s t r w (fGd w) 0 (sh 0 (some (bit a 31)))) ∧
      (33 ≤ n →
        Writes (.lsl r w) .lsl s t r w (fGd w) 0 (sh 0 (some false)) ∧
        Writes (.lsr r w) .lsr s t r w (fGd w) 0 (sh 0 (some false))) ∧
      (32 ≤ n → Writes (.asr r w) .asr s t r w (fGd w) sign (sh sign (some (bit a 31)))) ∧
      (1 ≤ n → Writes (.ror r w) .ror s t r w (fGd w) rot (sh rot (some (bit rot 31))))

/-- The immediate forms of class 0x1 beside ADDIF and CMPI (R111). The model's own choices in it: log 3. -/
def Obligations.Immediates : Prop :=
  ∀ (r : RoleId) (w : Word) (s t : State),
    let x := t.role r
    let a := x.greg (iGa w)
    let s10 : Word := BitVec.ofInt 32 (BitVec.ofNat 10 w.toNat).toInt
    let z : Word := BitVec.ofNat 32 (w.toNat % 2 ^ 10)
    let n := w.toNat % 32
    Writes (.addi r w) .addi s t r w (iGd w) (a + s10) (· = x.st) ∧
    Writes (.andi r w) .andi s t r w (iGd w) (a &&& s10) (· = x.st) ∧
    Writes (.ori r w) .ori s t r w (iGd w) (a ||| z) (· = x.st) ∧
    Writes (.xori r w) .xori s t r w (iGd w) (a ^^^ z) (· = x.st) ∧
    Writes (.tsti r w) .tsti s t r w 0 0 (ZnFlags x.st · (a &&& z)) ∧
    Writes (.lsli r w) .lsli s t r w (iGd w) (BitVec.ofNat 32 (a.toNat * 2 ^ n)) (· = x.st) ∧
    Writes (.lsri r w) .lsri s t r w (iGd w) (BitVec.ofNat 32 (a.toNat / 2 ^ n)) (· = x.st) ∧
    Writes (.asri r w) .asri s t r w (iGd w) (BitVec.ofInt 32 (a.toInt / 2 ^ n)) (· = x.st) ∧
    Writes (.rori r w) .rori s t r w (iGd w)
      (BitVec.ofNat 32 (a.toNat / 2 ^ n) ||| BitVec.ofNat 32 (a.toNat * 2 ^ (32 - n))) (· = x.st) ∧
    Writes (.shin r w) .shin s t r w (iGd w) (BitVec.ofNat 32 (a.toNat * 1024) ||| z) (· = x.st)

/-- DADD, DADD.C, DSUB, DSUB.C, DADJ, DSHL and DSHR (R112 to R117). The model's own choices in it: log 3. -/
def Obligations.DecimalSums : Prop :=
  (∀ (r : RoleId) (w : Word) (s t : State),
      let x := t.role r
      let a := x.greg (fGa w)
      let b := x.greg (fGb w)
      let bad := InvalidDigits a ∨ InvalidDigits b
      let d := if bit x.st 5 then 1 else 0
      (bit x.st 10 = false ∨ ¬ bad) →
        (∃ v k, DecimalSum false a b 0 v k ∧
          Writes (.dadd r w) .dadd s t r w (fGd w) v (DecimalFlags x.st · (some (k == 1)) (v == 0) bad)) ∧
        (∃ v k, DecimalSum false a b d v k ∧
          Writes (.daddC r w) .daddC s t r w (fGd w) v (DecimalFlags x.st · (some (k == 1)) (v == 0) bad)) ∧
        (∃ v k, DecimalSum true a b 0 v k ∧
          Writes (.dsub r w) .dsub s t r w (fGd w) v (DecimalFlags x.st · (some (k == 1)) (v == 0) bad)) ∧
        (∃ v k, DecimalSum true a b d v k ∧
          Writes (.dsubC r w) .dsubC s t r w (fGd w) v (DecimalFlags x.st · (some (k == 1)) (v == 0) bad))) ∧
  (∀ (r : RoleId) (w : Word) (s t : State),
      let x := t.role r
      let a := x.greg (fGa w)
      let b := x.greg (fGb w)
      let lo := a.toNat % 256
      let ten := decide (0x99 < lo) || bit x.st 0
      let sum := (lo + (if 9 < lo % 16 ∨ bit x.st 4 = true then 6 else 0) + (if ten then 0x60 else 0)) % 256
      let dn := w.toNat % 8
      let shl : Word := if dn = 0 then a else BitVec.ofNat 32 (a.toNat * 16 ^ dn) ||| BitVec.ofNat 32 (b.toNat / 16 ^ (8 - dn))
      let shr : Word := if dn = 0 then a else BitVec.ofNat 32 (a.toNat / 16 ^ dn) ||| BitVec.ofNat 32 (b.toNat * 16 ^ (8 - dn))
      Writes (.dadj r w) .dadj s t r w (fGd w) (BitVec.ofNat 32 (a.toNat / 256 * 256 + sum))
        (DecimalFlags x.st · (some ten) (sum == 0) False) ∧
      Writes (.dshl r w) .dshl s t r w (fGd w) shl (DecimalFlags x.st · none (shl == 0) False) ∧
      Writes (.dshr r w) .dshr s t r w (fGd w) shr (DecimalFlags x.st · none (shr == 0) False))

/-- MUL, MULU and PRODUCT_LANDING (R78, R119, R120; the row of a landing is log 5). The model's own choices in it: log 5. -/
def Obligations.Multiplies : Prop :=
  (∀ (r : RoleId) (w : Word) (s t : State),
    let x := t.role r
    let a := x.greg (iGa w)
    let b := x.greg (xGb w)
    (s.takes r .mul w = some t →
      Completes (.mul r w) s t r { x with prodNew := some (BitVec.ofInt 64 (a.toInt * b.toInt)) }) ∧
    (s.takes r .mulu w = some t →
      Completes (.mulu r w) s t r { x with prodNew := some (BitVec.ofNat 64 (a.toNat * b.toNat)) })) ∧
  (∀ (r : RoleId) (s : State) (p : DWord), (s.role r).prodOld = some p →
    exec (.productLanding r) s = .next (s.setRole r { s.role r with
      mpl := BitVec.ofNat 32 (p.toNat % 2 ^ 32)
      mph := BitVec.ofNat 32 (p.toNat / 2 ^ 32)
      prodOld := none })) ∧
  (∀ (r : RoleId) (s : State) (q : Nat), (s.role r).prodOld = none →
    ∃ u, exec (.productLanding r) s = .next u ∧ u.role q = s.role q ∧ { u with roles := s.roles } = s)

/-- DIV, DIVU, BIN2D, D2BIN and MULTI_BEAT_RETIRE (R118, R119, R125). The model's own choices in it: log 5. -/
def Obligations.MultiBeat : Prop :=
  (∀ (r : RoleId) (w : Word) (s t : State),
    let run := t.setRole r { t.role r with busy := .multi w }
    ((t.role r).greg (xGb w) ≠ 0 → s.takes r .div w = some t → exec (.div r w) s = .next run) ∧
    ((t.role r).greg (xGb w) ≠ 0 → s.takes r .divu w = some t → exec (.divu r w) s = .next run) ∧
    (s.takes r .bin2d w = some t → exec (.bin2d r w) s = .next run) ∧
    ((bit (t.role r).st 10 = false ∨ ¬ InvalidDigits ((t.role r).greg (fGa w))) →
      s.takes r .d2bin w = some t → exec (.d2bin r w) s = .next run)) ∧
  (∀ (r : RoleId) (w : Word) (s : State),
    let x := s.role r
    let ends := fun (y : Role) => ∃ u, exec (.multiBeatRetire r) s = .next u ∧ Retired s u r y
    x.busy = .multi w → x.prompt = false → x.rep = none →
      (bits w 27 24 = 3 → bits w 23 20 = 4 → x.greg (xGb w) ≠ 0 → ∃ st,
        ends { x with
          dq := BitVec.ofInt 32 ((x.greg (iGa w)).toInt.tdiv (x.greg (xGb w)).toInt)
          drm := BitVec.ofInt 32 ((x.greg (iGa w)).toInt.tmod (x.greg (xGb w)).toInt)
          st := st } ∧
        bit st 1 = decide ((x.greg (iGa w)).toInt.tdiv (x.greg (xGb w)).toInt = 0) ∧
        bit st 3 = decide (x.greg (iGa w) = 0x80000000 ∧ x.greg (xGb w) = 0xFFFFFFFF) ∧
        ∀ n, n ≠ 1 → n ≠ 3 → bit st n = bit x.st n) ∧
      (bits w 27 24 = 3 → bits w 23 20 = 5 → x.greg (xGb w) ≠ 0 → ∃ st,
        ends { x with
          dq := BitVec.ofNat 32 ((x.greg (iGa w)).toNat / (x.greg (xGb w)).toNat)
          drm := BitVec.ofNat 32 ((x.greg (iGa w)).toNat % (x.greg (xGb w)).toNat)
          st := st } ∧
        bit st 1 = decide ((x.greg (iGa w)).toNat / (x.greg (xGb w)).toNat = 0) ∧ bit st 3 = false ∧
        ∀ n, n ≠ 1 → n ≠ 3 → bit st n = bit x.st n) ∧
      (bits w 27 24 = 2 → bits w 23 18 = 0x18 → ∃ v st, ends { x.setG (fGd w) v with st := st } ∧
        (∀ i, i < 8 → bits v (4 * i + 3) (4 * i) = (x.greg (fGa w)).toNat / 10 ^ i % 10) ∧
        DecimalFlags x.st st (some (decide (10 ^ 8 ≤ (x.greg (fGa w)).toNat))) (v == 0) False) ∧
      (bits w 27 24 = 2 → bits w 23 18 = 0x19 → ∃ v st, ends { x.setG (fGd w) v with st := st } ∧
        v.toNat = ((List.range 8).map (fun i => bits (x.greg (fGa w)) (4 * i + 3) (4 * i) * 10 ^ i)).sum ∧
        DecimalFlags x.st st none (v == 0) (InvalidDigits (x.greg (fGa w)))))

/-- The access check and its fault (R236, R132 check 1). -/
def Obligations.TicketChecks : Prop :=
  (∀ (t : Ticket) (off size : Nat) (need : List Nat) (fetch priv : Bool),
    let tests : List (Prop × Byte) := [
      (t.tag = true, 0x01), (t.sealTy = 0, 0x02), (∀ p, p ∈ need → bit t.perm p = true, 0x03), (off + size ≤ t.len.toNat, 0x05),
      (fetch = true → fetchable ((t.base.toNat + off) % 2 ^ 48) = true, 0x0A),
      (priv = true ∨ (isBook ((t.base.toNat + off) % 2 ^ 48) = false ∧ isBook ((t.base.toNat + off) % 2 ^ 48 + size - 1) = false), 0x0B)]
    (t.check off size need fetch priv = none ↔ ∀ e : Prop × Byte, e ∈ tests → e.1) ∧
    ∀ d, t.check off size need fetch priv = some d ↔
      ∃ n : Nat, ∃ e : Prop × Byte, tests[n]? = some e ∧ ¬ e.1 ∧ e.2 = d ∧
      ∀ m : Nat, ∀ f : Prop × Byte, m < n → tests[m]? = some f → f.1) ∧
  (∀ (r : RoleId) (w : Word) (s t : State) (d : Byte),
    let T := (t.role r).tick (mTk w)
    let off := accessOff (t.role r) w
    (s.takes r .load w = some t → T.check off (2 ^ mSz w) [permR] false T.isDbt = some d →
      exec (.load r w) s = .next (syncFault t r 3 d.toNat w (some ((T.base.toNat + off) % 2 ^ 48)))) ∧
    (s.takes r .store w = some t → T.check off (2 ^ mSz w) [permW] false T.isDbt = some d →
      exec (.store r w) s = .next (syncFault t r 3 d.toNat w (some ((T.base.toNat + off) % 2 ^ 48)))))

/-- LOAD with its checks passed (R131, R194, R330, R340, R351). The model's own choices in it: logs 10, 24. -/
def Obligations.Loads : Prop :=
  ∀ (r : RoleId) (w : Word) (s t : State),
    let x := t.role r
    let T := x.tick (mTk w)
    let n := 2 ^ mSz w
    let a := T.addr (accessOff x w)
    let own := allInWings t r a n
    let live := x.sc = false ∨ quiet t r a n = true ∨ (replaying t r = false ∧ journalRoom t r (if n = 8 then 2 else 1) = true)
    s.takes r .load w = some t → accessFault T (accessOff x w) n permR = none →
      (own = true → exec (.load r w) s = .next (t.setRole r { x with busy := .load w })) ∧
      (own = false → live → cxlLines a n = [] → marked t a = false → marked t (a + n - 1) = false → clockOn t a = true →
        exec (.load r w) s = .next (t.setRole r { x with busy := .load w })) ∧
      (own = false → live → (marked t a = true ∨ marked t (a + n - 1) = true) → cxlLines a n = [] → clockDom a = none →
        exec (.load r w) s = .next ((t.incField (Adr.curErr (areaOf a)) 31 16).setRole r { x with busy := .load w })) ∧
      (own = false → live → askLines t r a n = none → exec (.load r w) s = .next (t.setRole r { x with busy := .blocked w })) ∧
      (∀ v, own = false → live → askLines t r a n = some v → marked v a = false → marked v (a + n - 1) = false → clockDom a = none →
        exec (.load r w) s = .next (v.setRole r { v.role r with busy := .load w })) ∧
      (own = false → quiet t r a n = false → x.sc = true → replaying t r = true → n ≠ 8 →
        entriesMatch t r [0] (t.scene r).jpos = true →
        Completes (.load r w) s (takeEntry t r).1 r (((takeEntry t r).1.role r).setG (mGd w) (journalValue t r (t.scene r).jpos))) ∧
      (own = false → quiet t r a n = false → x.sc = true → replaying t r = false →
        journalRoom t r (if n = 8 then 2 else 1) = false → exec (.load r w) s = .next (abandonAt t r 0x0A 3 w))

/-- LOAD_RESPONSE of loads (R131, R132 check 5, R148, R156, R194). The model's own choices in it: logs 5, 10. -/
def Obligations.LoadResponses : Prop :=
  ∀ (r : RoleId) (w : Word) (s t : State),
    let x := s.role r
    let acc := accessOf s r w
    let a := acc.1
    let n := acc.2.1
    let op := acc.2.2
    let gd := mGd w
    x.busy = .load w → x.prompt = false → x.rep = none → x.sc = false → x.loadErr = none → responseReady s r w = true →
      (∀ l, (op = .load ∨ op = .ldx ∨ op = .ldxp) → loadData s r a n = (t, .ok l) → l.length = n → NoSpots t r →
        (t.role r).quiet = x.quiet →
        let regs := fun (c : Role) =>
          if n = 8 then (c.setG gd (BitVec.ofNat 32 (leNat l % 2 ^ 32))).setG (gd + 1) (BitVec.ofNat 32 (leNat l / 2 ^ 32))
          else c.setG gd (BitVec.ofNat 32 (leNat l))
        (op = .load → ∃ c u, CleanFalls t c r ∧ (quiet t r a n = true → c = t) ∧ exec (.loadResponse r) s = .next u ∧
          Retired c u r (regs (c.role r))) ∧
        (op ≠ .load → CompletesUnclean (.loadResponse r) s (t.setRole r { regs (t.role r) with resv := some (a / 8) }) r)) ∧
      (∀ e, (op = .load ∨ op = .ldx ∨ op = .ldxp) → loadData s r a n = (t, .error e) →
        exec (.loadResponse r) s = .next (syncFault t r 8 e.detail.toNat w (some e.addr))) ∧
      (∀ l, op = .tload → readBytes s r a 16 = (t, .ok l) → NoSpots t r → (t.role r).quiet = x.quiet →
        CompletesUnclean (.loadResponse r) s (t.setRole r ((clearConsec (t.role r) (t.role r).pc).setT (tTd w) (Ticket.ofNat (leNat l) (readTagBy t r a)))) r) ∧
      (∀ e, op = .tload → readBytes s r a 16 = (t, .error e) →
        exec (.loadResponse r) s = .next (syncFault t r 8 e.detail.toNat w (some e.addr)))

/-- STORE and TSTORE (R131, R134, R136, R156, R187, R235, R254, R328, R335). The model's own choices in it: logs 10, 12. -/
def Obligations.Stores : Prop :=
  ∀ (r : RoleId) (w : Word) (s t : State),
    let x := t.role r
    let n := 2 ^ mSz w
    let T := x.tick (mTk w)
    let off := accessOff x w
    let a := T.addr off
    let g := mGd w
    let b := if n = 8 then leBytes 4 (x.greg g).toNat ++ leBytes 4 (x.greg (g + 1)).toNat else leBytes n ((x.greg g).toNat % 256 ^ n)
    let U := x.tick (tTa w)
    let v := x.tick (tTd w)
    let post := fun p => t.setRole r { x with posted := x.posted ++ [p] }
    (s.takes r .store w = some t → accessFault T off n permW = none →
      (isDevice a = false → x.sc = false → x.posted.length < 8 → NoSpots t r → isEoi r a n = false →
        CompletesUnclean (.store r w) s (post ⟨halves a b, none, x.pc, T.isDbt⟩) r) ∧
      (isDevice a = false → x.sc = false → x.posted.length < 8 → NoSpots t r → isEoi r a n = true →
        ∃ c u, CleanFalls (post ⟨halves a b, none, x.pc, T.isDbt⟩) c r ∧ exec (.store r w) s = .next (popLevel u r) ∧
          Retired c u r (c.role r)) ∧
      (isDevice a = false → x.sc = false → 8 ≤ x.posted.length → (x.rpd = 0 ∨ isEoi r a n = false) →
        exec (.store r w) s = .next (t.setRole r { x with busy := .blocked w })) ∧
      (isDevice a = true → x.sc = false → releasing t r = false → ownScnCtl r a = false → x.posted.length < 8 → NoSpots t r →
        isEoi r a n = false → CompletesUnclean (.store r w) s (post ⟨[(a, leBytes 4 (x.greg g).toNat)], none, x.pc, T.isDbt⟩) r) ∧
      (isDevice a = false → x.sc = true → isLead r = false → isEoi r a n = false → NoSpots t r →
        (t.scene r).wings.length + (halves a b).length ≤ 128 →
        ∃ c, c = t.setScene r { t.scene r with wings := (t.scene r).wings ++ (halves a b).map (wingOf none) } ∧
          Completes (.store r w) s c r x) ∧
      (isDevice a = false → x.sc = true → isLead r = false → isEoi r a n = false →
        128 < (t.scene r).wings.length + (halves a b).length → exec (.store r w) s = .next (abandonAt t r 8 3 w)) ∧
      (isDevice a = true → x.sc = true → isLead r = false → releasing t r = false → ownScnCtl r a = false → isCsCons a = false →
        NoSpots t r → (t.scene r).effects < 32 →
        Completes (.store r w) s (addEffect t r a 5 4 (x.greg g)) r ((addEffect t r a 5 4 (x.greg g)).role r)) ∧
      (isDevice a = true → x.sc = true → isLead r = false → releasing t r = false → ownScnCtl r a = false → isCsCons a = false →
        NoSpots t r → 32 ≤ (t.scene r).effects → exec (.store r w) s = .next (abandonAt t r 9 3 w))) ∧
    (s.takes r .tstore w = some t → ticketFault t U (tOff t r w) true = none → x.sc = false → x.posted.length < 8 → NoSpots t r →
      CompletesUnclean (.tstore r w) s (post ⟨[(U.addr (tOff t r w), v.bytes)], some v.tag, x.pc, U.isDbt⟩) r)

/-- LDX, LDXP, STX, STXP, TLOAD (R141, R148, R156, R178). The model's own choices in it: log 30. -/
def Obligations.Exclusives : Prop :=
  (∀ (r : RoleId) (w : Word) (s t : State),
    let x := t.role r
    let T := x.tick (qTk w)
    let U := x.tick (tTa w)
    let calm := fun (a n : Nat) => allInWings t r a n = false ∧ cxlLines a n = [] ∧ marked t a = false ∧ marked t (a + n - 1) = false ∧
      clockDom a = none
    let run : Host.Outcome State Fault Refusal := .next (t.setRole r { x with busy := .load w })
    let row := fun (op : Op) (i : Instr) (n p : Nat) (c : Nat → Prop) =>
      let off := (x.greg (qGa w) + BitVec.ofNat 32 (qImm w * n)).toNat
      s.takes r op w = some t →
        (x.sc = false → releasing t r = false → exclusiveFault T off n p = none → c (T.addr off) → exec i s = run) ∧
        (x.sc = true → exec i s = .next (syncFault t r 10 3 w (some (instrAddr x x.pc)))) ∧
        (∀ f, x.sc = false → releasing t r = false → exclusiveFault T off n p = some f →
          exec i s = .next (syncFault t r f.vec f.detail w (some f.addr)))
    row .ldx (.ldx r w) 4 permR (calm · 4) ∧ row .ldxp (.ldxp r w) 8 permR (calm · 8) ∧
    row .stx (.stx r w) 4 permW (fun _ => NoSpots t r) ∧ row .stxp (.stxp r w) 8 permW (fun _ => NoSpots t r) ∧
    (s.takes r .tload w = some t →
      (x.sc = false → ticketFault t U (tOff t r w) false = none → calm (U.addr (tOff t r w)) 16 → exec (.tload r w) s = run) ∧
      (x.sc = true → exec (.tload r w) s = .next (syncFault t r 10 3 w (some (instrAddr x x.pc)))) ∧
      ∀ f, x.sc = false → ticketFault t U (tOff t r w) false = some f →
        exec (.tload r w) s = .next (syncFault t r f.vec f.detail w (some f.addr)))) ∧
  (∀ (r : RoleId) (w : Word) (s : State),
    let x := s.role r
    let acc := accessOf s r w
    let a := acc.1
    x.busy = .load w → x.prompt = false → x.rep = none → x.sc = false → x.loadErr = none → responseReady s r w = true → NoSpots s r →
      (acc.2.2 = .stx ∨ acc.2.2 = .stxp) →
      (x.resv ≠ some (a / 8) → CompletesUnclean (.loadResponse r) s (s.setRole r { x with resv := none, st := setBit x.st 1 false }) r) ∧
      (x.resv = some (a / 8) → cxlLines a acc.2.1 = [] → (∀ k, k < acc.2.1 → storeError s (a + k) = false) →
        let g := qGd w
        let c := writeBytes s (some r) r a
          (if acc.2.1 = 8 then leBytes 4 (x.greg g).toNat ++ leBytes 4 (x.greg (g + 1)).toNat else leBytes 4 (x.greg g).toNat) false
        NoSpots c r → (c.role r).quiet = x.quiet → isDevice a = false →
          CompletesUnclean (.loadResponse r) s (c.setRole r { c.role r with resv := none, st := setBit x.st 1 true }) r))

/-- STORE_ACCEPTED, STORE_ERROR_RESPONSE, and what a load then finds (R134, R187, R267, R388; the order is log 12).
The model's own choices in it: logs 12, 13. -/
def Obligations.StoresLand : Prop :=
  (∀ (r : RoleId) (k : Fin 8) (s : State) (p : Posted),
    let x := s.role r
    let t := s.setRole r { x with posted := x.posted.eraseIdx k }
    x.posted[k.val]? = some p → storeBehind x.posted k = false →
      (∀ a b, b ≠ [] → (p.parts = halves a b ∧ b.length ≤ 8 ∨ p.parts = [(a, b)] ∧ b.length = 16 ∧ a % 16 = 0) →
        Plain s a b.length → cxlLines a b.length = [] →
        (∀ i, i < b.length → isDevice (a + i) = false ∧ storeError s (a + i) = false ∧ marked s (a + i) = false) →
        ∃ u, exec (.storeAccepted r k) s = .next u ∧ (∀ i, i < b.length → byteAt u (a + i) = b.getD i 0) ∧
          KeepsBytes s u (fun j => a ≤ j ∧ j < a + b.length) ∧ u.regs = s.regs ∧ u.scenes = s.scenes ∧ u.queues = s.queues ∧
          ∀ q, (u.role q).quiet = (t.role q).quiet) ∧
      (∀ a v, p.parts = [(a, leBytes 4 (BitVec.toNat (w := 32) v))] → isDevice a = true → partError s (a, leBytes 4 v.toNat) = false →
        clockOn s a = true → exec (.storeAccepted r k) s = .next (devWrite t (.role r p.dbt) a v)) ∧
      (∀ a v d, p.parts = [(a, leBytes 4 (BitVec.toNat (w := 32) v))] → isDevice a = true → partError s (a, leBytes 4 v.toNat) = false →
        clockOn s a = false → clockDom a = some d → Sparse.get (fun _ => none) s.heldW d = none →
        exec (.storeAccepted r k) s = .next ({ t with
          heldW := Sparse.put (fun _ => none) s.heldW d (some ⟨.role r p.dbt, a, v, r, p.pc⟩) }.setFlag (Adr.xcStat d) 1 true)) ∧
      (∀ a b, p.parts = [(a, b)] → partError s (a, b) = true → x.started = true → x.late = none →
        coreDark (raiseRoleFault t r 2 1 (some a)) (coreOf r) = false →
        ∃ u, exec (.storeErrorResponse r k) s = .next u ∧ u.mem = s.mem ∧
          (u.role r).late = some ⟨1, BitVec.ofNat 48 a, some p.pc, none, 0⟩ ∧ (u.role r).posted = x.posted.eraseIdx k ∧
          ∀ q, q ≠ r.val → u.role q = s.role q)) ∧
  (∀ (r : RoleId) (s : State) (a n : Nat), 0 < n → n ≤ 8 → Readable s a n → cxlLines a n = [] → (∀ i, i < n → inCxl (a + i) = false) →
    isDevice a = false → (s.scene r).wings = [] → (s.role r).posted = [] →
    loadData s r a n = (s, .ok ((List.range n).map (fun i => byteAt s (a + i)))))

/-- TMOVE to TWRS (R151 to R155, R157, R158, R178, R237; the fault address of a derivation is the model's).
The model's own choices in it: logs 28, 31. -/
def Obligations.TicketMoves : Prop :=
  ∀ (r : RoleId) (w : Word) (s t : State),
    let x := t.role r
    let a := x.tick (tTa w)
    let n := x.tick (tGb w)
    let off := (x.greg (tGb w)).toNat
    let len := (x.greg (tGb w + 1)).toNat
    let ty := tImm w
    let covers := fun (k : Nat) => n.sealTy = 0 ∧ bit n.perm permSEAL = true ∧ n.base.toNat ≤ k ∧ k < n.base.toNat + n.len.toNat
    let fails := fun (i : Instr) (op : Op) (d : Nat) => x.sc = false → Faults i op s t r w 3 d (some 0)
    let barred := fun (i : Instr) (op : Op) (d : Nat) => x.sc = true → Faults i op s t r w 10 d (some (instrAddr x x.pc))
    (WritesTicket (.tmove r w) .tmove s t r w a ∧ barred (.tmove r w) .tmove 3) ∧
    (WritesTicket (.tclr r w) .tclr s t r w Ticket.null ∧ barred (.tclr r w) .tclr 3) ∧
    ((tGb w % 4 = 0 → WritesTicket (.trds r w) .trds s t r w x.ht) ∧ (tGb w % 4 = 1 → WritesTicket (.trds r w) .trds s t r w x.tst) ∧
      (tGb w % 4 = 2 → WritesTicket (.trds r w) .trds s t r w x.srt) ∧
      barred (.trds r w) .trds 3) ∧
    ((a.tag = true → a.sealTy = 0 → off + len ≤ a.len.toNat →
        WritesTicket (.tnarrow r w) .tnarrow s t r w { a with base := a.base + BitVec.ofNat 48 off, len := BitVec.ofNat 48 len }) ∧
      (a.tag = false → fails (.tnarrow r w) .tnarrow 1) ∧ (a.tag = true → a.sealTy ≠ 0 → fails (.tnarrow r w) .tnarrow 2) ∧
      (a.tag = true → a.sealTy = 0 → a.len.toNat < off + len → fails (.tnarrow r w) .tnarrow 6) ∧ barred (.tnarrow r w) .tnarrow 3) ∧
    ((a.tag = true → a.sealTy = 0 → WritesTicket (.tperm r w) .tperm s t r w { a with perm := a.perm &&& BitVec.ofNat 8 ty }) ∧
      (a.tag = false → fails (.tperm r w) .tperm 1) ∧ (a.tag = true → a.sealTy ≠ 0 → fails (.tperm r w) .tperm 2) ∧
      barred (.tperm r w) .tperm 3) ∧
    ((a.tag = true → n.tag = true → a.sealTy = 0 → ty ≠ 0 → ty ≠ 0xFF → covers ty →
        WritesTicket (.tseal r w) .tseal s t r w { a with sealTy := BitVec.ofNat 8 ty }) ∧
      ((a.tag = false ∨ n.tag = false) → fails (.tseal r w) .tseal 1) ∧
      (a.tag = true → n.tag = true → (a.sealTy ≠ 0 ∨ ty = 0 ∨ ty = 0xFF) → fails (.tseal r w) .tseal 8) ∧
      (a.tag = true → n.tag = true → a.sealTy = 0 → ty ≠ 0 → ty ≠ 0xFF → ¬ covers ty → fails (.tseal r w) .tseal 7) ∧
      barred (.tseal r w) .tseal 3) ∧
    ((a.tag = true → n.tag = true → a.sealTy ≠ 0 → a.sealTy ≠ 0xFF → covers a.sealTy.toNat →
        WritesTicket (.tunseal r w) .tunseal s t r w { a with sealTy := 0 }) ∧
      ((a.tag = false ∨ n.tag = false) → fails (.tunseal r w) .tunseal 1) ∧
      (a.tag = true → n.tag = true → (a.sealTy = 0 ∨ a.sealTy = 0xFF) → fails (.tunseal r w) .tunseal 8) ∧
      (a.tag = true → n.tag = true → a.sealTy ≠ 0 → a.sealTy ≠ 0xFF → ¬ covers a.sealTy.toNat → fails (.tunseal r w) .tunseal 7) ∧
      barred (.tunseal r w) .tunseal 3) ∧
    (∀ k v, (k = 0 ∧ v = BitVec.ofNat 32 (a.base.toNat % 2 ^ 32) ∨ k = 1 ∧ v = BitVec.ofNat 32 (a.base.toNat / 2 ^ 32) ∨
        k = 2 ∧ v = BitVec.ofNat 32 (a.len.toNat % 2 ^ 32) ∨ k = 3 ∧ v = BitVec.ofNat 32 (a.len.toNat / 2 ^ 32) ∨
        k = 4 ∧ v = BitVec.ofNat 32 a.perm.toNat ∨ k = 5 ∧ v = BitVec.ofNat 32 a.cid.toNat ∨
        k = 6 ∧ v = BitVec.ofNat 32 a.sealTy.toNat ∨ k = 7 ∧ v = (if a.tag then 1 else 0 : Word)) → ty % 8 = k →
      s.takes r .tget w = some t → CompletesUnclean (.tget r w) s (t.setRole r (x.setG (tGb w) v)) r) ∧
    (∀ y, (tGb w % 4 = 0 ∧ y = { x with ht := a } ∨ tGb w % 4 = 1 ∧ y = { x with tst := a } ∨ tGb w % 4 = 2 ∧ y = { x with srt := a }) → s.takes r .twrs w = some t → x.sc = false →
      CompletesUnclean (.twrs r w) s (t.setRole r y) r) ∧
    (tGb w % 4 ≠ 2 → barred (.twrs r w) .twrs 3) ∧ (tGb w % 4 = 2 → barred (.twrs r w) .twrs 4)

/-- B, BL, JR, JRL, CALLT and RETT (R159 to R164). The model's own choices in it: log 3. -/
def Obligations.JumpsAndGate : Prop :=
  ∀ (r : RoleId) (w : Word) (s t : State),
    let x := t.role r
    let rel := x.pc + BitVec.ofInt 32 ((BitVec.ofNat 24 w.toNat).toInt * 4)
    let g := x.greg (fGa w)
    let c := x.tick (w.toNat % 256)
    let d := x.tick (w.toNat % 256 + 1)
    let gate := fun (k : Nat) => x.sc = false → Faults (.callt r w) .callt s t r w 13 k (some (instrAddr x x.pc))
    let ret := x.tick 7
    (s.takes r .branch w = some t → Jumps (.branch r w) s t r x rel) ∧
    (s.takes r .bl w = some t → Jumps (.bl r w) s t r (x.setG 31 (x.pc + 4)) rel) ∧
    (g.toNat % 4 = 0 → s.takes r .jr w = some t → Jumps (.jr r w) s t r x g) ∧
    (g.toNat % 4 ≠ 0 → Faults (.jr r w) .jr s t r w 4 0 (some (instrAddr x g))) ∧
    (g.toNat % 4 = 0 → s.takes r .jrl w = some t → Jumps (.jrl r w) s t r (x.setG (fGd w) (x.pc + 4)) g) ∧
    (g.toNat % 4 ≠ 0 → Faults (.jrl r w) .jrl s t r w 4 0 (some (instrAddr x g))) ∧
    (c.tag = true → d.tag = true → c.sealTy ≠ 0 → c.sealTy ≠ 0xFF → d.sealTy = c.sealTy → bit c.perm permX = true → x.sc = false →
      s.takes r .callt w = some t → ∃ v, CleanFalls t v r ∧
        let y := v.role r
        Jumps (.callt r w) s v r ((((((clearConsec y y.pc).setT 7 { x.tick 0 with sealTy := 0xFF }).setT 0 { c with sealTy := 0 }).setT 6
          { d with sealTy := 0 }).setG 31 (x.pc + 4))) 0) ∧
    ((c.tag = false ∨ d.tag = false) → gate 1) ∧
    (c.tag = true → d.tag = true → (c.sealTy = 0 ∨ c.sealTy = 0xFF) → gate 2) ∧
    (c.tag = true → d.tag = true → c.sealTy ≠ 0 → c.sealTy ≠ 0xFF → d.sealTy ≠ c.sealTy → gate 3) ∧
    (c.tag = true → d.tag = true → c.sealTy ≠ 0 → c.sealTy ≠ 0xFF → d.sealTy = c.sealTy → bit c.perm permX = false → gate 4) ∧
    (ret.tag = true → ret.sealTy = 0xFF → (x.greg 31).toNat % 4 = 0 → x.sc = false → s.takes r .rett w = some t →
      ∃ v, CleanFalls t v r ∧
        Jumps (.rett r w) s v r (((clearConsec (v.role r) (v.role r).pc).setT 0 { ret with sealTy := 0 }).setT 7 Ticket.null)
          (x.greg 31)) ∧
    (ret.tag = true → ret.sealTy = 0xFF → (x.greg 31).toNat % 4 ≠ 0 → x.sc = false →
      Faults (.rett r w) .rett s t r w 4 0 (some (ret.addr (x.greg 31).toNat))) ∧
    ((ret.tag = false ∨ ret.sealTy ≠ 0xFF) → x.sc = false → Faults (.rett r w) .rett s t r w 13 5 (some (instrAddr x x.pc))) ∧
    (x.sc = true → Faults (.callt r w) .callt s t r w 10 3 (some (instrAddr x x.pc)) ∧
      Faults (.rett r w) .rett s t r w 10 3 (some (instrAddr x x.pc)))

/-- QPUSH, QPOP, QPOPT, QOPEN, QCLOSE, CUE up to their handshake (R140, R141, R145, R147, R304, R315, R328, R346).
The model's own choices in it: logs 27, 28, 33. -/
def Obligations.QueueStarts : Prop :=
  ∀ (r : RoleId) (w : Word) (s t : State),
    let x := t.role r
    let T := x.tick (qTk w)
    let off := (x.greg (qGa w) + BitVec.ofNat 32 (qImm w * 4)).toNat
    let a := T.addr off
    let sound := T.check off 4 [permCUE] false T.isDbt = none ∧ a % 4 = 0 ∧ releasing t r = false
    let row := fun (op : Op) (i : Instr) (good : Region → Prop) =>
      (∀ d, releasing t r = false → T.check off 4 [permCUE] false T.isDbt = some d → Faults i op s t r w 3 d.toNat (some a)) ∧
      (releasing t r = false → T.check off 4 [permCUE] false T.isDbt = none → a % 4 ≠ 0 → Faults i op s t r w 4 0 (some a)) ∧
      (sound → ¬ good (regionOf a) → Faults i op s t r w 7 3 (some a)) ∧
      (releasing t r = true → s.takes r op w = some t → exec i s = .next (t.setRole r { x with busy := .blocked w }))
    let isQueue := fun (g : Region) => ∃ q, g = .port q
    let isPop := fun (g : Region) => ∃ q, g = .port q ∧ (q < 320 ∨ 332 ≤ q)
    let isCue := fun (g : Region) => ∃ ch, g = .cueFire ch
    let starts := fun (op : Op) (i : Instr) (b : Busy) => s.takes r op w = some t → exec i s = .next (t.setRole r { x with busy := b })
    let joins := fun (op : Op) (i : Instr) (kind : Nat) (v : Word) => s.takes r op w = some t → x.sc = true → (t.scene r).effects < 32 →
      Completes i s (addEffect t r a kind 4 v) r ((addEffect t r a kind 4 v).role r)
    (row .qpush (.qpush r w) isQueue ∧ row .qopen (.qopen r w) isQueue ∧ row .qclose (.qclose r w) isQueue ∧
      row .qpop (.qpop r w) isPop ∧ row .qpopt (.qpopt r w) isPop ∧ row .cue (.cue r w) isCue) ∧
    (∀ q, sound → regionOf a = .port q →
      (x.sc = false → (qOpener t q ≠ some r ∨ (t.queue q).pktWords < 31) → starts .qpush (.qpush r w) (.push w)) ∧
      (x.sc = false → qOpener t q = some r → 31 ≤ (t.queue q).pktWords → s.takes r .qpush w = some t →
        exec (.qpush r w) s = .next (syncFault (t.setFlag (Adr.qstat q) 2 true) r 7 2 w (some a))) ∧
      (x.sc = false → starts .qopen (.qopen r w) (.push w)) ∧ (x.sc = false → starts .qclose (.qclose r w) (.push w)) ∧
      ((∀ n, openWords t r q = some n → n < 31) → joins .qpush (.qpush r w) 1 (x.greg (qGd w))) ∧
      joins .qopen (.qopen r w) 2 0 ∧ joins .qclose (.qclose r w) 3 0 ∧
      (x.sc = false → (q < 320 ∨ 332 ≤ q) → starts .qpop (.qpop r w) (.pop w) ∧ starts .qpopt (.qpopt r w) (.pop w))) ∧
    (∀ ch, sound → regionOf a = .cueFire ch →
      joins .cue (.cue r w) 4 0 ∧
      (x.sc = false → domOn t 51 = true → roleLatchFull t r = true → starts .cue (.cue r w) (.blocked w)) ∧
      (x.sc = false → domOn t 51 = true → roleLatchFull t r = false → s.takes r .cue w = some t →
        CompletesUnclean (.cue r w) s (t.setLatch (656 + r) ⟨true, 0, 0, metroLo t, ch, none, false, leBytes 6 r⟩) r))

/-- QUEUE_PUSH_ACCEPTED, QUEUE_POP_DELIVERED, QUEUE_FLUSH (R142, R143, R308 to R319, R321 to R323).
The model's own choices in it: logs 29, 33, 49. -/
def Obligations.QueueHandshakes : Prop :=
  (∀ (r : RoleId) (w : Word) (s : State) (q : Nat),
    let x := s.role r
    let a := (x.tick (qTk w)).addr (x.greg (qGa w) + BitVec.ofNat 32 (qImm w * 4)).toNat
    let y := s.queue q
    let v := x.greg (qGd w)
    let mine := qOpener s q = some r.val
    let done := fun (t : State) => CompletesUnclean (.queuePushAccepted r) s t r
    x.busy = .push w → x.prompt = false → x.rep = none → regionOf a = .port q → domOn s (queueDomain q) = true → qDiscards s q r = false →
      (bits w 23 19 = 1 → qHeld s q r = false → y.stages.length < 32 →
        (mine → done (s.setQueue q ⟨y.stages ++ [⟨v, decide (y.pktWords = 0), false, false, false, false, 0⟩], y.pktWords + 1⟩)) ∧
        (¬ mine → done (s.setQueue q ⟨y.stages ++ [⟨v, false, false, false, false, false, 0⟩], y.pktWords⟩))) ∧
      (bits w 23 19 = 1 → (qHeld s q r = true ∨ 32 ≤ y.stages.length) → exec (.queuePushAccepted r) s = .next s) ∧
      (bits w 23 19 = 4 → ¬ mine → qHeld s q r = false → y.stages.length < 32 → s.flag (Adr.qstat q) 1 = false →
        done ((s.setQueue q ⟨y.stages ++ [⟨0, false, true, false, true, false, 0⟩], 0⟩).setReg (Adr.qopener q)
          (BitVec.ofNat 32 (2 ^ 31 + r)))) ∧
      (bits w 23 19 = 5 → mine → done ((s.setQueue q ⟨y.stages.map (fun g => if g.slot && !g.filled then
          { g with data := BitVec.ofNat 32 y.pktWords, filled := true } else g), 0⟩).setReg (Adr.qopener q) 0)) ∧
      (bits w 23 19 = 5 → ¬ mine → done (s.setFlag (Adr.qstat q) 3 true))) ∧
  (∀ (r : RoleId) (w : Word) (s : State) (q : Nat),
    let x := s.role r
    let a := (x.tick (qTk w)).addr (x.greg (qGa w) + BitVec.ofNat 32 (qImm w * 4)).toNat
    x.busy = .push w → x.prompt = false → x.rep = none → regionOf a = .port q → domOn s (queueDomain q) = true → bits w 23 19 = 1 →
      qDiscards s q r = true → CompletesUnclean (.queuePushAccepted r) s (s.incField (Adr.qerrcnt q) 30 16) r) ∧
  (∀ (r : RoleId) (w : Word) (s : State) (q : Nat),
    let x := s.role r
    let a := (x.tick (qTk w)).addr (x.greg (qGa w) + BitVec.ofNat 32 (qImm w * 4)).toNat
    x.busy = .pop w → x.prompt = false → x.rep = none → x.sc = false → regionOf a = .port q → domOn s (queueDomain q) = true → q < 320 →
      (∀ ch, ch < 18 → (serOf s ch).rx = []) → (∀ k, k < 4 → (adcOf s k).wait = none) →
      ((s.queue q).stages = [] → exec (.queuePopDelivered r) s = .next s) ∧
      (∀ g l, (s.queue q).stages = g :: l → (g.slot = true → g.filled = true) → s.flag (Adr.qstat q) 6 = false → g.err = 0 →
        let t := s.setQueue q { s.queue q with stages := l }
        let tags : Word := BitVec.ofNat 32 ((if g.first then 1 else 0) + (if g.lenSlot then 2 else 0) + (if g.poison then 4 else 0))
        let y := if bits w 23 19 = 3 then (x.setG (qGd w) g.data).setG (qGd w + 1) tags else x.setG (qGd w) g.data
        (g.poison = false → CompletesUnclean (.queuePopDelivered r) s (t.setRole r y) r) ∧
        (g.poison = true → x.qp = false → CompletesUnclean (.queuePopDelivered r) s (t.setRole r { y with st := setBit y.st 7 true }) r))) ∧
  (∀ (q : QueueId) (s : State), domOn s (queueDomain q) = true → (∀ ch, ch < 18 → (serOf s ch).rx = []) →
    (∀ k, k < 4 → (adcOf s k).wait = none) →
    let t := (s.setQueue q Queue.reset).setFlag (Adr.qstat q) 6 false
    exec (.queueFlush q) s = .next (if (qOpener s q).isSome then (t.setFlag (Adr.qstat q) 0 true).setFlag (Adr.qstat q) 1 true else t))

/-- MFS, MTS, SYNC.I, WAIT and MASK (R57, R61, R73 to R79, R139, R166, R168, R256).
The model's own choices in it: logs 16, 19, 107. -/
def Obligations.SystemRows : Prop :=
  ∀ (r : RoleId) (w : Word) (s t : State),
    let x := t.role r
    let k := w.toNat % 256
    let v := x.greg (fGa w)
    (∀ y, (k = 0 ∧ y = x.st ∨ k = 1 ∧ y = BitVec.ofNat 32 x.rc.toNat ∨ k = 2 ∧ y = x.mpl ∨ k = 3 ∧ y = x.mph ∨ k = 4 ∧ y = x.dq ∨
        k = 5 ∧ y = x.drm ∨ k = 6 ∧ y = BitVec.ofNat 32 x.rp ∨ k = 7 ∧ y = BitVec.ofNat 32 x.rpd ∨
        k = 8 ∧ y = BitVec.ofNat 32 (x.tick 0).cid.toNat ∨ k = 9 ∧ y = 2 ∨ k = 10 ∧ y = x.abcnt ∨ k = 12 ∧ y = x.beatsh ∨
        k = 14 ∧ y = (t.core (coreOf r)).per ∨ 15 ≤ k ∧ y = 0) →
      s.takes r .mfs w = some t → Completes (.mfs r w) s t r (x.setG (fGd w) y)) ∧
    (k = 11 → s.takes r .mfs w = some t → ∃ c n, (n : DWord).toNat < 2 ^ 32 ∧
      (c.core (coreOf r)).beats = (t.core (coreOf r)).beats + 1 + n ∧ { c with cores := t.cores, freeNext := t.freeNext } = t ∧ (∀ q, q ≠ coreOf r → c.core q = t.core q) ∧
      Completes (.mfs r w) s c r (Role.setG { x with beatsh := BitVec.ofNat 32 ((c.core (coreOf r)).beats.toNat / 2 ^ 32) } (fGd w)
        (BitVec.ofNat 32 ((c.core (coreOf r)).beats.toNat % 2 ^ 32)))) ∧
    (k = 13 → s.takes r .mfs w = some t → ∃ c, { c with cores := t.cores, freeNext := t.freeNext } = t ∧ (∀ q, q ≠ coreOf r → c.core q = t.core q) ∧
      { c.core (coreOf r) with seen := 0 } = { t.core (coreOf r) with seen := 0 } ∧
      (let n := (c.core (coreOf r)).seen.toNat
       let old := (t.core (coreOf r)).seen.toNat
       old ≤ n ∧ (old ≤ t.metro.toNat → n = t.metro.toNat ∨ n + 1 = t.metro.toNat) ∧ (t.metro.toNat < old → n = old) ∧
       Completes (.mfs r w) s c r (x.setG (fGd w) (BitVec.ofNat 32 (n % 2 ^ 32))))) ∧
    (∀ y, (k = 0 ∧ y = { x with st := (x.st &&& ~~~(0xCFF : Word)) ||| (v &&& 0xCFF) } ∨
        k = 1 ∧ y = { x with rc := BitVec.ofNat 16 v.toNat } ∨ k = 2 ∧ y = { x with mpl := v } ∨ k = 3 ∧ y = { x with mph := v } ∨
        k = 4 ∧ y = { x with dq := v } ∨ k = 5 ∧ y = { x with drm := v } ∨
        k = 10 ∧ y = { x with abcnt := BitVec.ofNat 32 (v.toNat / 2 ^ 16 * 2 ^ 16 + x.abcnt.toNat % 2 ^ 16) } ∨
        (6 ≤ k ∧ k ≤ 9 ∨ 11 ≤ k) ∧ y = x) →
      s.takes r .mts w = some t → Completes (.mts r w) s t r y) ∧
    (x.posted = [] → s.takes r .syncI w = some t → Jumps (.syncI r w) s t r { x with fetchQ := [] } (x.pc + 4)) ∧
    (x.posted ≠ [] → s.takes r .syncI w = some t → exec (.syncI r w) s = .next (t.setRole r { x with busy := .blocked w })) ∧
    (s.takes r .wait w = some t → exec (.wait r w) s = .next (t.setRole r { x with busy := .waiting })) ∧
    (x.sc = false → x.rpd < 16 → s.takes r .mask w = some t →
      CompletesUnclean (.mask r w) s
        (t.setRole r { x with stack := ⟨BitVec.ofNat 4 (max x.rp (min (w.toNat % 16) 12)), true⟩ :: x.stack }) r) ∧
    (x.sc = true → Faults (.mask r w) .mask s t r w 10 3 (some (instrAddr x x.pc)))

/-- WAITCUE and WAITCUE_WAKE (R167). The model's own choices in it: logs 16, 64. -/
def Obligations.CueWaits : Prop :=
  ∀ (r : RoleId) (w : Word),
    let m := w.toNat % 16
    let pend := fun (s : State) (n : Nat) => ∀ k, n.testBit k = (decide (k < 4) && m.testBit k && s.flag (Adr.wcCin r k) 0)
    let took := fun (s c : State) (n : Nat) => c = (List.range 4).foldl (fun s k => if n.testBit k then clearCin s (0x1000 + r * 4 + k) else s) s
    (∀ s t n c, s.takes r .waitcue w = some t → (t.role r).sc = false → pend t n → (m = 0 ∨ n ≠ 0) → took t c n →
      CompletesUnclean (.waitcue r w) s (c.setRole r ((t.role r).setG (fGd w) (BitVec.ofNat 32 n))) r) ∧
    (∀ s t, s.takes r .waitcue w = some t → (t.role r).sc = false → m ≠ 0 → pend t 0 →
      exec (.waitcue r w) s = .next (t.setRole r { t.role r with busy := .waitcue w })) ∧
    (∀ s n c, (s.role r).busy = .waitcue w → (s.role r).prompt = false → (s.role r).rep = none → (s.role r).sc = false → pend s n →
      n ≠ 0 → took s c n →
      CompletesUnclean (.waitcueWake r) s (c.setRole r ((s.role r).setG (fGd w) (BitVec.ofNat 32 n))) r) ∧
    (∀ s, (s.role r).busy = .waitcue w → pend s 0 → exec (.waitcueWake r) s = .next s)

/-- RFE (R169, R264 to R266). The model's own choices in it: logs 16, 23, 50. -/
def Obligations.Returns : Prop :=
  ∀ (r : RoleId) (w : Word) (s t v : State),
    let x := t.role r
    let off := x.rpd * 64
    let a := (x.tst.base.toNat + off) % 2 ^ 48
    s.takes r .rfe w = some t → x.sc = false →
      (16 ≤ x.rpd → exec (.rfe r w) s = .next (goDark t r 3 (instrAddr x x.pc))) ∧
      (x.rpd < 16 → ∀ d, x.tst.check off 64 [permR, permLT] false x.tst.isDbt = some d →
        exec (.rfe r w) s = .next (syncFault t r 3 d.toNat w (some a))) ∧
      (x.rpd < 16 → x.tst.check off 64 [permR, permLT] false x.tst.isDbt = none → x.posted = [] →
        (∀ i, i < 8 → marked t (a + 8 * i) = false ∧ isMemory (a + 8 * i) = true) →
        (∀ e, readBytes t r a 64 = (v, .error e) → exec (.rfe r w) s = .next (syncFault v r 8 e.detail.toNat w (some e.addr))) ∧
        (∀ l, readBytes t r a 64 = (v, .ok l) → (v.role r).quiet = x.quiet → (v.scene r).wings = [] →
          let f := fun (n : Nat) => BitVec.ofNat 32 (leNat ((l.drop n).take 4))
          let y := v.role r
          ∃ c, CleanFalls (v.setRole r { (clearConsec y y.pc).setT 0 (Ticket.ofNat (leNat (l.drop 48)) (readTagBy v r (a + 48) && a % 16 == 0)) with
            st := (x.st &&& ~~~(0xDFF : Word)) ||| (f 4 &&& 0xDFF)
            rc := BitVec.ofNat 16 (f 8).toNat
            mpl := f 12
            mph := f 16
            dq := f 20
            drm := f 24 }) c r ∧ Jumps (.rfe r w) s c r (c.role r) (f 0)))

/-- REP and REP_ITERATION (R171 to R177). The model's own choices in it: logs 14, 22. -/
def Obligations.Repeats : Prop :=
  (∀ (r : RoleId) (w pw : Word) (s t v : State) (op : Op),
    let x := t.role r
    let n : BitVec 16 := if bit x.st 8 then x.rc
      else if bit w 22 then BitVec.ofNat 16 (x.greg (bits w 21 17)).toNat else BitVec.ofNat 16 w.toNat
    s.takes r .rep w = some t →
      (bit x.st 8 = false → bit w 23 = false → 8 < n.toNat →
        exec (.rep r w) s = .next (syncFault t r 2 5 w (some (instrAddr x x.pc)))) ∧
      ((bit x.st 8 = true ∨ bit w 23 = true ∨ n.toNat ≤ 8) → wordAfter t r = some (v, .word pw) →
        Ulufy.decodePrefixed (isLead r) false pw = .ok op → (v.role r).quiet = x.quiet →
        ∃ u p, exec (.rep r w) s = .next u ∧
          u.role r = { v.role r with rc := n, st := setBit x.st 8 false, rep := some p, busy := .idle } ∧
          p.pword = pw ∧ p.atomic = !bit w 23 ∧ { u with roles := v.roles } = v ∧ ∀ q, q ≠ r.val → u.role q = v.role q)) ∧
  (∀ (r : RoleId) (s : State) (p : Rep) (op : Op),
    let x := s.role r
    x.rep = some p → x.busy = .idle → canIterate s r = true → Ulufy.decodePrefixed (isLead r) false p.pword = .ok op →
      (x.rc = 0 → ∃ u, exec (.repIteration r) s = .next u ∧ (u.role r).pc = x.pc + 8 ∧ (u.role r).rep = none ∧
        (u.role r).busy = .idle ∧ (u.role r).g = x.g ∧ ∀ q, q ≠ r.val → (u.role q).quiet = (s.role q).quiet) ∧
      (x.rc ≠ 0 → iterHazard x op p.pword = false → NoSpots s r → condHolds x.st (bits p.pword 31 28) = true →
        exec (.repIteration r) s = .next (bodyOf op (startIssue s r) r p.pword)) ∧
      (x.rc ≠ 0 → op = .add → bit p.pword 0 = false → iterHazard x .add p.pword = false → NoSpots s r →
        condHolds x.st (bits p.pword 31 28) = true → x.prompt = false →
        ∃ u, exec (.repIteration r) s = .next u ∧
          (u.role r).g = (x.setG (fGd p.pword) (x.greg (fGa p.pword) + x.greg (fGb p.pword))).g ∧ (u.role r).rc = x.rc - 1 ∧
          (x.rc = 1 → (u.role r).pc = x.pc + 8 ∧ (u.role r).rep = none) ∧
          (x.rc ≠ 1 → (u.role r).pc = x.pc ∧ (u.role r).rep = some p ∧ (u.role r).st = x.st)))

/-- The entry that every faulting instruction takes (R249, R257 to R262), and going dark (R256, R268, R269).
The model's own choices in it: logs 24, 34. -/
def Obligations.ExceptionEntry : Prop :=
  ∀ (r : RoleId) (s : State) (vec detail : Nat) (instr : Word) (addr : Option Nat),
    let x := s.role r
    let t := s.setRole r { x with busy := .idle }
    let u := syncFault s r vec detail instr addr
    let still := ∀ q, q ∈ rolesOf (coreOf r) → (t.role q).rep = none ∧ ((t.role q).busy = .idle ∨ (t.role q).busy = .waiting)
    x.prompt = false → x.rep = none →
      (x.rp ≤ 12 → CanEnter t r → Entered t u r ⟨vec, detail, 13, x.pc, x.st, instr, addr, 0, false, false, false, 0⟩) ∧
      (x.rp = 13 → CanEnter t r →
        Entered t u r ⟨14, vec, 14, x.pc, x.st, instr, addr, BitVec.ofNat 32 (detail % 256), false, false, false, 0⟩) ∧
      (still → x.rp = 14 ∨ x.rp = 15 → Darkened t u r) ∧
      (still → x.rp ≤ 13 → x.prodNew = none → x.prodOld = none →
        16 ≤ x.rpd ∨ (∃ d, x.tst.check (x.rpd * 64) 64 [permR, permW, permLT, permST] false false = some d) → Darkened t u r)

/-- INTERRUPT_RECOGNITION (R166, R221, R248 to R250, R257, R261, R267, R297). The model's own choices in it: logs 17, 21, 35, 108. -/
def Obligations.Recognition : Prop :=
  ∀ (r : RoleId) (s : State),
    let x := s.role r
    let m := BitVec.ofNat 32 (s.metro.toNat % 2 ^ 32)
    let low := x.rp ≤ 12 ∧ x.rpd < 16
    let ready := recognisable s r = true ∧ x.sc = false ∧ x.prompt = false ∧ x.rep = none ∧ (x.busy = .idle ∨ x.busy = .waiting)
    let stopped := fun v => x.busy = .idle ∧ v = s ∨ x.busy = .waiting ∧ Retired s v r x
    (ready → x.pfail = true → ∃ v, stopped v ∧ (CanEnter v r → ∃ u, exec (.interruptRecognition r) s = .next u ∧
      Entered (v.setRole r { v.role r with pfail := false }) u r
        ⟨15, 0, 15, (v.role r).pc, x.st, 0, none, m, false, false, false, 0⟩)) ∧
    (ready → x.pfail = false → low → ∀ e, x.late = some e → ∃ v, stopped v ∧ (CanEnter v r →
      ∃ u, exec (.interruptRecognition r) s = .next u ∧ Entered (v.setRole r { v.role r with late := none }) u r
        ⟨9, e.detail.toNat, 13, (v.role r).pc, x.st, e.pc.getD 0, some e.addr.toNat, e.sid.getD 0, e.pc.isSome, false,
          e.sid.isSome, e.merged.toNat⟩)) ∧
    (ready → x.pfail = false → low → x.late = none → ∀ f l, x.longFaults = f :: l → ∃ v, stopped v ∧ (CanEnter v r →
      ∃ u, exec (.interruptRecognition r) s = .next u ∧ Entered (v.setRole r { v.role r with longFaults := l }) u r
        ⟨12, f.detail.toNat, 13, (v.role r).pc, x.st, f.word, some f.addr.toNat, 0, false, false, false, 0⟩)) ∧
    (ready → x.pfail = false → x.late = none → x.longFaults = [] → x.rp < presented s r → x.rpd < 16 →
      ∃ v, stopped v ∧ (CanEnter v r → ∃ u, exec (.interruptRecognition r) s = .next u ∧ Entered v u r
        ⟨16 + presented s r, 0, presented s r, (v.role r).pc, x.st, 0, none, m, false, false, false, 0⟩)) ∧
    (ready → x.pfail = false → x.late = none → x.longFaults = [] → presented s r ≤ x.rp →
      exec (.interruptRecognition r) s = .next s)

/-- SCENE.BEGIN and SCENE.END (R170, R325 to R327, R337, R338). The model's own choices in it: logs 14, 16. -/
def Obligations.SceneOpens : Prop :=
  ∀ (r : RoleId) (w : Word) (s t : State),
    let x := t.role r
    let y := landAll x
    let base := recordBase r
    let good := x.srt.tag = true ∧ x.srt.sealTy = 0 ∧ bit x.srt.perm 0 = true ∧ bit x.srt.perm 1 = true ∧ x.srt.base.toNat = base ∧
      x.srt.len.toNat = 0x800
    let seq := (t.field (Adr.scnId (troupeOf r) (troupeIx r)) 15 0 + 1) % 2 ^ 16
    let here := some (instrAddr x x.pc)
    let areas := (List.range 10).filter (fun a => (t.scene r).wings.any (fun e => areaOf (e.dw * 8) == a))
    (x.sc = true → Faults (.sceneBegin r w) .sceneBegin s t r w 10 1 here) ∧
    (x.sc = false → ¬ good → Faults (.sceneBegin r w) .sceneBegin s t r w 10 5 here) ∧
    (x.sc = false → good → releasing t r = true → s.takes r .sceneBegin w = some t →
      exec (.sceneBegin r w) s = .next (t.setRole r { x with busy := .blocked w })) ∧
    (x.sc = false → good → isLead r = false → (t.scene r).releasing = false → recFlag t r 10 = false → Plain t base 192 →
      s.takes r .sceneBegin w = some t →
      ∃ v z, exec (.sceneBegin r w) s = .next (z.setRole r { z.role r with st := setBit (z.role r).st 9 true }) ∧
        Retired v z r (v.role r) ∧ (v.role r).quiet = Role.quiet { y with resv := none } ∧
        (∀ q, q ≠ r.val → (v.role q).quiet = (t.role q).quiet) ∧
        v.field (Adr.scnId (troupeOf r) (troupeIx r)) 15 0 = seq ∧ v.field (Adr.scnAbn (troupeOf r) (troupeIx r)) 15 8 = 0 ∧
        v.scene r = ⟨[], 0, 0, 0, (x.tick 0).tag, false, 0, none, false⟩ ∧
        (List.range 192).map (fun i => byteAt v (base + i)) =
          [seq + r.val * 2 ^ 16, y.pc.toNat, y.rpd + 2 ^ 8, 0, (setBit y.st 9 false).toNat, y.rc.toNat, y.mpl.toNat, y.mph.toNat,
            y.dq.toNat, y.drm.toNat, 0, 0].flatMap (leBytes 4) ++ leBytes 16 (y.tick 0).toNat ++
            (List.range 31).flatMap (fun i => leBytes 4 (y.greg (i + 1)).toNat) ++ [0, 0, 0, 0] ∧
        KeepsBytes t v (fun k => base ≤ k ∧ k < base + 192)) ∧
    (x.sc = false → Faults (.sceneEnd r w) .sceneEnd s t r w 10 2 here) ∧
    (x.sc = true → s.takes r .sceneEnd w = some t → exec (.sceneEnd r w) s = .next
      ((t.setScene r { t.scene r with cur := some ⟨(if areas.length ≤ 1 then [] else [.house]) ++ areas.map .area, [], areas,
        areas.isEmpty⟩ }).setRole r { x with busy := .curtain w }))

/-- CURTAIN_LOCK_GRANT and CURTAIN_FLIP (R325, R338, R342, R345). The model's own choices in it: logs 34, 110. -/
def Obligations.Curtains : Prop :=
  ∀ (r : RoleId) (w : Word) (s : State) (c : Curtain),
    let x := s.role r
    let y := landAll x
    let base := recordBase r
    let free := fun l => match l with
      | Lock.area a => s.flag (Adr.curLock a) 9 = false ∧ (s.staged a).length ≤ 128
      | Lock.house => s.flag Adr.curHlock 10 = false
    let taken := fun (u : State) l => match l with
      | Lock.area a => u.flag (Adr.curLock a) 9 = true ∧ u.field (Adr.curLock a) 19 10 = r.val
      | Lock.house => u.flag Adr.curHlock 10 = true ∧ u.field Adr.curHlock 9 0 = r.val
    x.busy = .curtain w → (s.scene r).cur = some c →
      (∀ l rest, c.want = l :: rest →
        (¬ free l → exec (.curtainLockGrant r) s = .next s) ∧
        (free l → rest ≠ [] → ∃ u, exec (.curtainLockGrant r) s = .next u ∧ taken u l ∧
          u.scene r = { s.scene r with cur := some { c with want := rest, held := c.held ++ [l] } } ∧
          { u with regs := s.regs, scenes := s.scenes } = s) ∧
        (free l → rest = [] → ∀ v, stageAll ((takeLock s r l).setScene r { s.scene r with
            cur := some { c with want := [], held := c.held ++ [l] } }) r (s.scene r).wings = .ok v →
          ∃ u, exec (.curtainLockGrant r) s = .next u ∧
            u.scene r = { s.scene r with cur := some { c with want := [], held := c.held ++ [l], marked := true } } ∧
            ∀ a, u.staged a = s.staged a ++ ((s.scene r).wings.filter (fun e => areaOf (e.dw * 8) == a)).map
              (fun e => ⟨e, r.val, sceneIdWord (takeLock s r l) r, false⟩))) ∧
      (c.marked = false → exec (.curtainFlip r) s = .next s) ∧
      (c.marked = true → isLead r = false → x.prompt = false → x.rep = none →
        ∃ v u, exec (.curtainFlip r) s = .next u ∧ Retired v u r (v.role r) ∧
          (v.role r).quiet = Role.quiet { y with st := setBit y.st 9 false } ∧
          (∀ q, q ≠ r.val → (v.role q).quiet = (s.role q).quiet) ∧
          v.scene r = ⟨[], (s.scene r).effects, 0, 0, (x.tick 0).tag, decide ((s.scene r).effects ≠ 0), 0, none, false⟩ ∧
          (∀ a, Lock.area a ∈ c.held → v.flag (Adr.curLock a) 9 = false) ∧ (Lock.house ∈ c.held → v.flag Adr.curHlock 10 = false) ∧
          ((∀ a, a ∈ c.areas → a < 9) → Plain s base 192 → (List.range 192).map (fun i => byteAt v (base + i)) =
            [(sceneIdWord s r).toNat, (y.pc + 4).toNat, (recWord s r 8).toNat % 32 + 2 ^ 9, 0, (setBit y.st 9 false).toNat, y.rc.toNat,
              y.mpl.toNat, y.mph.toNat, y.dq.toNat, y.drm.toNat, 0, 0].flatMap (leBytes 4) ++ leBytes 16 (y.tick 0).toNat ++
              (List.range 31).flatMap (fun i => leBytes 4 (y.greg (i + 1)).toNat) ++ [0, 0, 0, 0]))

/-- STAGING_DRAIN and EFFECT_RELEASE (R325, R339, R345). The model's own choices in it: logs 39, 42. -/
def Obligations.StagingAndEffects : Prop :=
  (∀ (a : Fin 10) (s : State),
    ((s.staged a).find? (fun e => e.flipped) = none → exec (.stagingDrain a) s = .next s) ∧
    ∀ e, (s.staged a).find? (fun e => e.flipped) = some e →
      let d := e.wing.dw * 8
      (e.wing.mask = 0 → ∃ u, exec (.stagingDrain a) s = .next u ∧ u.staged a = (s.staged a).erase e ∧ u.mem = s.mem ∧
        u.field (Adr.curLock a) 8 0 = (256 - ((s.staged a).erase e).length) % 512) ∧
      (e.wing.mask ≠ 0 → a.val ≠ 9 → storeError s d = false → inCxl d = false → e.wing.mask = 0xFF ∨ cwAt s e.wing.dw = Cw.clean →
        ∃ u, exec (.stagingDrain a) s = .next u ∧ u.staged a = (s.staged a).erase e ∧
          (∀ k, byteAt u k = if d ≤ k ∧ k < d + 8 ∧ bit e.wing.mask (k - d) then BitVec.ofNat 8 (e.wing.data.toNat / 256 ^ (k - d))
            else byteAt s k))) ∧
  (∀ (r : RoleId) (s : State),
    let n := bits (recWord s r 8) 21 16
    let p := effectAt s r n
    (releasing s r = false → exec (.effectRelease r) s = .next s) ∧
    (releasing s r = true → doEffect s r p.1 p.2.1 p.2.2 = none → exec (.effectRelease r) s = .next s) ∧
    (releasing s r = true → ∀ v, doEffect s r p.1 p.2.1 p.2.2 = some v → Plain v (recordBase r + 8) 4 →
      ∃ u, exec (.effectRelease r) s = .next u ∧ recWord u r 8 = setBits (recWord v r 8) 21 16 (n + 1) ∧
        KeepsBytes v u (fun k => recordBase r + 8 ≤ k ∧ k < recordBase r + 12) ∧
        u.scene r = if (v.scene r).effects ≤ n + 1 then { v.scene r with effects := 0, releasing := false } else v.scene r) ∧
    (p.1 = 4 → domOn s 51 = true → roleLatchFull s r = false →
      doEffect s r p.1 p.2.1 p.2.2 = some (fireCue s r (cueChannel p.2.1) true)) ∧
    (p.1 = 5 → storeError s p.2.1 = false → partReady s r (p.2.1, leBytes 4 p.2.2.toNat) = true → doEffect s r p.1 p.2.1 p.2.2 =
      acceptPart r ⟨[], none, 0, false⟩ (p.2.1, leBytes 4 p.2.2.toNat) s) ∧
    (p.1 < 4 → ∀ q, regionOf p.2.1 = .port q → domOn s (queueDomain q) = true → doEffect s r p.1 p.2.1 p.2.2 = queueStep s r q p.1 p.2.2))

/-- SCN_CTL_CLRCNT, SCN_CTL_ABANDON, SCN_CTL_REPLAY, PROMPT_GO, PROMPT_CANCEL and PROMPT_RETIRE (R350, R359, R611, R613 to R615).
The model's own choices in it: logs 32, 70. -/
def Obligations.Supervision : Prop :=
  (∀ (r : RoleId) (s : State) (a : Agent),
    let abn := Adr.scnAbn (troupeOf r) (troupeIx r)
    let base := recordBase r
    let tag := (s.scene r).t0tag
    let quietRole := ((s.role r).busy = .idle ∨ (s.role r).busy = .waiting) ∧ (s.role r).rep = none ∧ (s.role r).prompt = false ∧
      (s.scene r).cur = none
    let l := (List.range 192).map (fun i => byteAt s (base + i))
    let noted := fun (u : State) cause more => u.field abn 7 0 = cause ∧ u.field abn 15 8 = min 0xFF (s.field abn 15 8 + more) ∧
      u.field abn 31 16 = min 0xFFFF (s.field abn 31 16 + 1) ∧ u.flag (Adr.uibFault (uibOf r)) 3 = true
    (isLead r = false → ∃ u, exec (.scnCtlClrcnt r) s = .next u ∧ u.field abn 31 16 = 0 ∧ u.field abn 15 0 = s.field abn 15 0 ∧
      (∀ b, b ≠ abn → u.reg b = s.reg b) ∧ { u with regs := s.regs } = s) ∧
    (isSmOrDbt a = true → sceneCtlActs s r = false →
      exec (.scnCtlAbandon a r) s = .next s ∧ exec (.scnCtlReplay a r) s = .next s) ∧
    (isSmOrDbt a = false → exec (.scnCtlReplay a r) s = .next s ∧ (a ≠ .role r false → exec (.scnCtlAbandon a r) s = .next s)) ∧
    (isSmOrDbt a = true → sceneCtlActs s r = true → quietRole → Readable s base 192 → ∃ u, exec (.scnCtlAbandon a r) s = .next u ∧
      noted u 6 0 ∧ Restored (s.role r) (u.role r) l tag ∧ (u.role r).sc = false ∧
      (u.role r).pc = BitVec.ofNat 32 (leNat ((l.drop 4).take 4)) ∧ recFlag u r 8 = false ∧ recFlag u r 10 = false ∧
      (u.scene r).wings = [] ∧ (u.scene r).retired = 0) ∧
    (isSmOrDbt a = true → sceneCtlActs s r = true → quietRole → Readable s base 192 → ∃ u, exec (.scnCtlReplay a r) s = .next u ∧
      Restored (s.role r) (u.role r) l tag ∧ (u.role r).sc = true ∧
      (u.role r).pc = BitVec.ofNat 32 (leNat ((l.drop 4).take 4)) + 4 ∧
      (u.scene r).wings = [] ∧ (u.scene r).retired = 0 ∧ (u.scene r).jpos = 0 ∧ (u.scene r).effects = 0)) ∧
  (∀ (r : RoleId) (s : State),
    let x := s.role r
    let w := promptWord s r
    let stat := prStatAdr r
    let c := w.toNat / 2 ^ 24 % 16
    let shown := fun (u : State) (n : Nat) => { u with regs := s.regs, roles := s.roles } = s ∧ (∀ b, b ≠ stat → u.reg b = s.reg b) ∧
      (∀ q, q ≠ r.val → u.role q = s.role q) ∧ u.flag stat n = true
    let calm := (x.busy = .idle ∨ x.busy = .waiting) ∧ x.rep = none
    let runs := promptBeats s r = true ∧ mayIssue s r .add w = true ∧ Ulufy.decode (isLead r) x.dbt.tag w = .ok .add ∧ NoSpots s r
    (x.onHold = false → x.prompt = false → ∃ u, exec (.promptGo r) s = .next u ∧ shown u 3 ∧ u.role r = x) ∧
    (x.onHold = true → x.prompt = true → exec (.promptGo r) s = .next s) ∧
    (x.onHold = true → x.prompt = false → c = 11 ∨ 13 ≤ c → ∃ u, exec (.promptGo r) s = .next u ∧ shown u 4 ∧ u.role r = x) ∧
    (x.onHold = true → x.prompt = false → c ≠ 11 → c < 13 → promptBeats s r = false →
      ∃ u, exec (.promptGo r) s = .next u ∧ shown u 0 ∧ u.role r = { x with prompt := true, busy := .idle }) ∧
    (x.prompt = true → x.busy = .idle → runs →
      (condHolds x.st (bits w 31 28) = false → ∃ u, exec (.promptRetire r) s = .next u ∧ shown u 1 ∧ u.flag stat 0 = false ∧
        (u.role r).g = x.g ∧ (u.role r).pc = x.pc ∧ (u.role r).prompt = false) ∧
      (condHolds x.st (bits w 31 28) = true → bit w 0 = false → ∃ u, exec (.promptRetire r) s = .next u ∧ shown u 1 ∧
        u.flag stat 0 = false ∧ (u.role r).pc = x.pc ∧ (u.role r).prompt = false ∧ (u.role r).g = (x.setG (fGd w)
          ((if bit (promptCtl s r) 3 then promptAddr s r else x.greg (fGa w)) + x.greg (fGb w))).g)) ∧
    (x.prompt = true → calm → ∃ u, exec (.promptCancel r) s = .next u ∧ shown u 5 ∧ u.flag stat 0 = false ∧
      u.role r = { x with prompt := false, busy := .idle }) ∧
    (x.prompt = false → exec (.promptCancel r) s = .next s ∧ exec (.promptRetire r) s = .next s))

/-- DMUL16, DDIV16, MUL64, MUL64U, DIV64, DIV64U, CRC32C, HPINT, HPRICE and LONG_OP_RETIRE (R214 to R221, R223).
The model's own choices in it: log 21. -/
def Obligations.LongOps : Prop :=
  (∀ (r : RoleId) (w : Word) (s t : State) (row : RoleId → Word → Instr) (op : Op) (n : Nat),
    (row, op, n) ∈ [(Instr.dmul16, Op.dmul16, 0), (.ddiv16, .ddiv16, 0), (.mul64, .mul64, 1), (.mul64u, .mul64u, 1), (.div64, .div64, 1),
      (.div64u, .div64u, 1), (.crc32c, .crc32c, 2), (.hpint, .hpint, 2), (.hprice, .hprice, 2)] →
    let x := t.role r
    let o : LongOp := ⟨w, BitVec.ofNat 48 (instrAddr x x.pc), (List.range 4).map (fun i => x.greg (fGa w + i)),
      [x.greg (fGb w), x.greg (fGb w + 1)], x.greg (fGd w), x.dt, x.tick (lMod w), n⟩
    let busy := ∃ q y, q / 2 = r.val / 2 ∧ y ∈ (t.role q).longOps ∧ y.unit = n
    s.takes r op w = some t →
      (busy → exec (row r w) s = .next (t.setRole r { x with busy := .blocked w })) ∧
      (¬ busy → x.lprec = false → CompletesUnclean (row r w) s (t.setRole r { x with longOps := x.longOps ++ [o] }) r) ∧
      (¬ busy → x.lprec = true → exec (row r w) s = .next (t.setRole r { x with longOps := x.longOps ++ [o], busy := .long w }))) ∧
  (∀ (r : RoleId) (unit : Fin 3) (s : State) (o : LongOp),
    let x := s.role r
    let k := bits o.word 23 18
    let gd := fGd o.word
    let src := fun i => (o.a.getD i 0 : Word)
    let A := (src 0).toNat + (src 1).toNat * 2 ^ 32
    let B := (o.b.getD 0 0 : Word).toNat + (o.b.getD 1 0 : Word).toNat * 2 ^ 32
    let dig := fun v i => v / 16 ^ i % 16
    let bad := ∃ i, i < 16 ∧ (9 < dig A i ∨ 9 < dig B i)
    let dec := fun v => ((List.range 16).map (fun i => dig v i * 10 ^ i)).sum
    let whole := fun (ws : List Word) => ((List.range 4).map (fun i => (ws.getD i 0).toNat * 2 ^ (32 * i))).sum
    let signed := fun (v : Nat) => (if v < 2 ^ 63 then (v : Int) else v - 2 ^ 64)
    let left := { x with longOps := x.longOps.filter (fun p => p.unit ≠ unit.val) }
    let gives := fun (ws : List Word) (le lv : Bool) =>
      exec (.longOpRetire r unit) s = .next (s.setRole r { setRegs left gd ws with le := x.le || le, lv := x.lv || lv })
    let pends := fun (y : Role) (d : Byte) =>
      exec (.longOpRetire r unit) s = .next (s.setRole r { y with longFaults := x.longFaults ++ [⟨o.word, o.addr, d, unit.val⟩] })
    let off := fun j => ((src 0).toNat + 8 * j) % 2 ^ 32
    let n := (o.b.getD 0 0 : Word).toNat
    let good := fun j => accessFault o.ticket (off j) (min 8 (n - 8 * j)) permR = none ∧ isDevice (o.ticket.addr (off j)) = false ∧
      Readable s (o.ticket.addr (off j)) (min 8 (n - 8 * j))
    let kk := bits (o.b.getD 0 0) 4 0
    isLead r = true →
    let held := x.longOps.find? (fun p => p.unit == unit.val) = some o
    let calm := ∀ q f, q / 2 = r.val / 2 → f ∈ (s.role q).longFaults → f.unit ≠ unit.val
    (x.longOps.find? (fun p => p.unit == unit.val) = none → exec (.longOpRetire r unit) s = .next s) ∧
    (held → ¬ calm → exec (.longOpRetire r unit) s = .next s) ∧
    (held → calm → x.busy ≠ .long o.word →
      (k = 1 → ¬ (bad ∧ o.dt = true) → ∃ ws le lv, gives ws le lv ∧ ws.length = 4 ∧ (le = true ↔ bad) ∧
        (∀ i, i < 32 → dig (whole ws) i = dec A * dec B / 10 ^ i % 10) ∧
        (lv = true ↔ ∃ i, 16 ≤ i ∧ i < 32 ∧ dec A * dec B / 10 ^ i % 10 ≠ 0)) ∧
      (k = 2 → dec B ≠ 0 → ¬ (bad ∧ o.dt = true) → ∃ ws le, gives ws le false ∧ ws.length = 4 ∧ (le = true ↔ bad) ∧
        (∀ i, i < 16 → dig (whole ws) i = dec A / dec B / 10 ^ i % 10 ∧ dig (whole ws / 2 ^ 64) i = dec A % dec B / 10 ^ i % 10)) ∧
      (k = 1 ∨ k = 2 ∧ dec B ≠ 0 → bad → o.dt = true → pends left 0x21) ∧
      (k = 2 ∧ dec B = 0 ∨ (k = 6 ∨ k = 7) ∧ B = 0 → pends left 0x20) ∧
      (k = 4 → ∃ ws lv, gives ws false lv ∧ ws.length = 4 ∧ (whole ws : Int) = signed A * signed B % 2 ^ 128 ∧
        (lv = true ↔ ¬ (-(2 ^ 63) ≤ signed A * signed B ∧ signed A * signed B < 2 ^ 63))) ∧
      (k = 5 → ∃ ws lv, gives ws false lv ∧ ws.length = 4 ∧ whole ws = A * B ∧ (lv = true ↔ 2 ^ 64 ≤ A * B)) ∧
      (k = 6 → B ≠ 0 → ∃ ws lv, gives ws false lv ∧ ws.length = 4 ∧
        (whole ws % 2 ^ 64 : Nat) = ((signed A).tdiv (signed B) % 2 ^ 64).toNat ∧
        (whole ws / 2 ^ 64 : Nat) = ((signed A).tmod (signed B) % 2 ^ 64).toNat ∧
        (lv = true ↔ A = 2 ^ 63 ∧ B = 2 ^ 64 - 1)) ∧
      (k = 7 → B ≠ 0 → ∃ ws, gives ws false false ∧ ws.length = 4 ∧ whole ws = A / B + A % B * 2 ^ 64) ∧
      (k = 8 → 65536 < n → pends left 0x24) ∧
      (k = 8 → n ≤ 65536 → x.posted = [] → (s.scene r).wings = [] → NoSpots s r → (∀ j, 8 * j < n → good j) →
        gives [crc32c o.d ((List.range n).map (fun i => byteAt s (o.ticket.addr (off (i / 8)) + i % 8)))] false false) ∧
      (∀ j, k = 8 → n ≤ 65536 → x.posted = [] → (s.scene r).wings = [] → NoSpots s r → 8 * j < n → (∀ i, i < j → good i) →
        accessFault o.ticket (off j) (min 8 (n - 8 * j)) permR ≠ none → pends (left.setG gd (BitVec.ofNat 32 (off j))) 0x22) ∧
      (∀ j e, k = 8 → n ≤ 65536 → x.posted = [] → (s.scene r).wings = [] → NoSpots s r → 8 * j < n → (∀ i, i < j → good i) →
        accessFault o.ticket (off j) (min 8 (n - 8 * j)) permR = none →
        loadData s r (o.ticket.addr (off j)) (min 8 (n - 8 * j)) = (s, .error e) → pends (left.setG gd (BitVec.ofNat 32 (off j))) 0x23) ∧
      (k = 0x0C → (src 3).toNat = 0 → pends left 0x25) ∧
      (k = 0x0C → (src 3).toNat ≠ 0 → ∃ q : Int, gives [BitVec.ofInt 32 ((src 0).toInt + q)] false false ∧
        let num := ((src 1).toInt - (src 0).toInt) * (src 2).toNat
        let err := (q * (src 3).toNat - num).natAbs
        2 * err ≤ (src 3).toNat ∧ (2 * err = (src 3).toNat → num.natAbs ≤ (q * (src 3).toNat).natAbs)) ∧
      (∀ q, k = 0x0D → (∀ i, i < q → A.testBit i = true) → A.testBit q = false →
        let v := q * 2 ^ kk + A / 2 ^ (q + 1) % 2 ^ kk
        (q + 1 + kk ≤ 64 → v < 2 ^ 32 → gives [BitVec.ofNat 32 v, BitVec.ofNat 32 (q + 1 + kk)] false false) ∧
        (64 < q + 1 + kk ∨ 2 ^ 32 ≤ v → pends left 0x26))) ∧
    (held → calm → x.busy = .long o.word → x.prompt = false → x.rep = none →
      (∀ ws le lv, longResult s r o = (s, .ok ws le lv) → CompletesUnclean (.longOpRetire r unit) s
        (s.setRole r { setRegs left gd ws with le := x.le || le, lv := x.lv || lv }) r) ∧
      (∀ d f, longResult s r o = (s, .fault d f) → x.rp ≤ 12 → exec (.longOpRetire r unit) s =
        .next (enter (s.setRole r left) r ⟨12, d % 256, 13, x.pc, x.st, o.word, some o.addr.toNat, 0, false, false, false, 0⟩))))

/-- LBAR, LMODER, LMODEW, LCLEAN, DCACHE_FILL and DIRTY_WRITEBACK (R209, R213, R217, R222, R411).
The model's own choices in it: logs 16, 20. -/
def Obligations.LeadMisc : Prop :=
  (∀ (r : RoleId) (w : Word) (s t : State),
    let x := t.role r
    let v := x.greg (fGa w)
    let T := x.tick (lMod w)
    let a := T.addr v.toNat
    (s.takes r .lbar w = some t →
      (x.longOps = [] → CompletesUnclean (.lbar r w) s t r) ∧
      (x.longOps ≠ [] → exec (.lbar r w) s = .next (t.setRole r { x with busy := .blocked w }))) ∧
    (s.takes r .lmoder w = some t → ∃ m : Word, bit m 0 = x.lprec ∧ bit m 1 = x.le ∧ bit m 2 = x.lv ∧
      bits m 5 4 = min 3 x.longOps.length ∧ m.toNat < 64 ∧ bit m 3 = false ∧
      CompletesUnclean (.lmoder r w) s (t.setRole r (x.setG (fGd w) m)) r) ∧
    (s.takes r .lmodew w = some t →
      CompletesUnclean (.lmodew r w) s (t.setRole r { x with lprec := bit v 0, le := bit v 1, lv := bit v 2 }) r) ∧
    (s.takes r .lclean w = some t →
      (∀ d, T.check v.toNat 1 [] false T.isDbt = some d → exec (.lclean r w) s = .next (syncFault t r 3 d.toNat w (some a))) ∧
      (T.check v.toNat 1 [] false T.isDbt = none →
        (cached t (leadOf t r) false (a / 64) = none → CompletesUnclean (.lclean r w) s t r) ∧
        (∀ l, cached t (leadOf t r) false (a / 64) = some l → l.dirty = false → CompletesUnclean (.lclean r w) s t r) ∧
        (∀ l, cached t (leadOf t r) false (a / 64) = some l → l.dirty = true →
          exec (.lclean r w) s = .next (finish (unclean (cleanLine t l) r) r none))))) ∧
  (∀ (lead : Fin 10) (line : Line) (s : State),
    let l := line.toNat
    (marked s (l * 64) = true ∨ wantsLine s lead l = false ∧ fetchesLine s lead l = false →
      exec (.dcacheFill lead line) s = .next s) ∧
    (marked s (l * 64) = false → (wantsLine s lead l = true ∨ fetchesLine s lead l = true) → winLoadError s (l * 64) = true →
      exec (.dcacheFill lead line) s = .next s) ∧
    (marked s (l * 64) = false → ∀ ic, (ic = false ∧ wantsLine s lead l = true ∨
        ic = true ∧ wantsLine s lead l = false ∧ fetchesLine s lead l = true) →
      ∀ u c, fetchLine s lead ic l = (u, some c) →
        let set := u.caches.filter (fun m => m.lead == lead.val && m.icache == ic && m.line % (if ic then 256 else 128) == l % (if ic then 256 else 128))
        c.lead = lead.val ∧ c.icache = ic ∧ c.line = l ∧ c.dirty = false ∧
        (set.length < (if ic then 4 else 8) → exec (.dcacheFill lead line) s = .next (putLine u c)) ∧
        (∀ m rest, (if ic then 4 else 8) ≤ set.length → set = m :: rest →
          exec (.dcacheFill lead line) s = .next (putLine (dropLine u m) c)))) ∧
  (∀ s : State,
    let due := s.cxl.pfail = true ∨ s.field Adr.cxlDir 29 16 ≤ dirtyCount s + 64
    (¬ due ∨ (∀ l, l ∈ s.caches → l.dirty = false) → exec .dirtyWriteback s = .next s) ∧
    (∀ l before after, due → s.caches = before ++ l :: after → l.dirty = true → (∀ m, m ∈ before → m.dirty = false) →
      exec .dirtyWriteback s = .next (cleanLine s l)))

/-- EVENT_CROSSING_LAUNCH, HARDWARE_EVENT_FIRE and FIRE_TAKEN (R273 to R278, R281, R580, R581).
The model's own choices in it: logs 48, 53, 54, 109. -/
def Obligations.Fires : Prop :=
  (∀ (s : State) (e d : Nat) (hop : BitVec 4) (p : List Byte) (extra : Option Nat), evDomain e = some d →
    let x := s.xevOf e
    raiseEvent s e hop p extra = s.setXev e (if x.count = 0 then ⟨1, hop, p, extra, x.fly⟩
      else ⟨x.count + 1, x.hop, x.payload, x.extra.orElse (fun _ => extra), x.fly⟩)) ∧
  (∀ (event : BitVec 12) (s : State),
    let e := event.toNat
    let x := s.xevOf e
    (evDomain e = none ∨ x.fly ≠ none ∨ x.count = 0 ∨ (∀ d, evDomain e = some d → s.flag (Adr.xcStat d) 0 = false) →
      exec (.eventCrossingLaunch event) s = .next s) ∧
    (∀ d, evDomain e = some d → x.fly = none → x.count ≠ 0 → s.flag (Adr.xcStat d) 0 = true →
      ∃ u v, exec (.eventCrossingLaunch event) s = .next u ∧
        v = s.setXev e ⟨0, 0, [], none, some ⟨min 255 (x.count - 1), x.hop, x.payload, x.extra⟩⟩ ∧ OnlyRegs v u [Adr.xcStat d] ∧
        u.field (Adr.xcStat d) 30 16 = min 0x7FFF (s.field (Adr.xcStat d) 30 16 + min 255 (x.count - 1)) ∧
        u.field (Adr.xcStat d) 15 8 = max (s.field (Adr.xcStat d) 15 8) (min 255 (x.count - 1)) ∧
        ∀ n, n < 8 ∨ n = 31 → u.flag (Adr.xcStat d) n = s.flag (Adr.xcStat d) n) ∧
    (evLatch e = none ∨ x.fly = none → exec (.hardwareEventFire event) s = .next s) ∧
    (∀ i f, evLatch e = some i → x.fly = some f →
      let l := s.latch i
      let t := s.setXev e { x with fly := none }
      (l.full = false → exec (.hardwareEventFire event) s = .next (t.setLatch i
        ⟨true, f.hop, BitVec.ofNat 8 (min 255 f.merged), BitVec.ofNat 32 (s.metro.toNat % 2 ^ 32), 0, f.extra, false, f.payload⟩)) ∧
      (l.full = true → exec (.hardwareEventFire event) s = .next (t.setLatch i
        { l with merge := BitVec.ofNat 8 (min 255 (l.merge.toNat + 1 + f.merged)), extra := l.extra.orElse (fun _ => f.extra) })))) ∧
  (∀ (i : Fin 1192) (s : State),
    let l := s.latch i
    let chs := fireChannels s i l
    (l.full = false → exec (.fireTaken i) s = .next s) ∧
    (l.full = true → exec (.fireTaken i) s = .next (chs.foldl (actChannel i l) (s.setLatch i Latch.reset))) ∧
    (656 ≤ i.val → chs = [l.chan]) ∧
    (i.val < 656 → s.Canonical → ∀ c, c ∈ chs ↔ l.extra = some c ∨ c < 1024 ∧ s.field (Adr.chSrc c) 11 0 = latchEv i)) ∧
  (∀ (i : Nat) (l : Latch) (s : State) (ch : Nat), s.flag Adr.trCtl 2 = false →
    let u := actChannel i l s ch
    let loop := Adr.cxLoop
    let rpt := s.reg Adr.cxLooprpt
    let v := (s.incField (Adr.chStat ch) 15 0).setField (Adr.chStat ch) 19 16 l.hop.toNat
    let route := fun (s : State) (k : Nat) => if s.flag (Adr.chRt ch k) 16 then
      deliver s (s.field (Adr.chRt ch k) 12 0) (s.field (Adr.chRt ch k) 18 17) ch l.hop else s
    let routed := route (route (route (route v 0) 1) 2) 3
    let cs := routed.reg (Adr.chCs ch)
    let payload := ((l.payload ++ List.replicate 6 0).take 6) ++ (if i < 656 then [l.merge, 0] else if i < 1184 then [0, 1] else [0, 2])
    (l.hop = 15 → ∃ t, OnlyRegs s t [loop] ∧ t.flag loop 0 = true ∧ t.field loop 15 8 = min 0xFF (s.field loop 15 8 + 1) ∧
      t.field loop 25 16 = (if s.flag loop 0 then s.field loop 25 16 else ch % 1024) ∧
      (bit rpt 16 = false → u = t) ∧
      (bit rpt 16 = true → u = postRecord t ⟨bits rpt 9 0, bits rpt 15 12, BitVec.ofNat 16 ch, 6, 15, false, false, l.time,
        leBytes 2 (t.field loop 15 8) ++ List.replicate 6 0⟩)) ∧
    (l.hop ≠ 15 → s.flag (Adr.chSrc ch) 16 = false → u = s.incField (Adr.chStat ch) 31 24) ∧
    (l.hop ≠ 15 → s.flag (Adr.chSrc ch) 16 = true →
      u = deliverUibs (if bit cs 16 then postRecord routed ⟨bits cs 9 0, bits cs 15 12, BitVec.ofNat 16 ch, 1, l.hop, l.curtain,
        l.merge ≠ 0, l.time, payload⟩ else routed) ch l.hop)) ∧
  (∀ (s : State) (id arg ch a : Nat) (hop : BitVec 4), cinAdr id = some a →
    let u := deliver s id arg ch hop
    (s.flag a 0 = false → cinPowered s id = true → ∃ t, OnlyRegs s t [a] ∧ u = t.setCin id (some ⟨arg, hop⟩) ∧ u.flag a 0 = true ∧
      u.field a 25 16 = ch % 1024 ∧ u.flag a 1 = s.flag a 1 ∧ u.field a 15 8 = s.field a 15 8) ∧
    (s.flag a 0 = true ∨ cinPowered s id = false → OnlyRegs s u [a] ∧ u.flag a 1 = true ∧ u.flag a 0 = s.flag a 0 ∧
      u.field a 15 8 = min 0xFF (s.field a 15 8 + 1) ∧ u.field a 25 16 = s.field a 25 16)) ∧
  (∀ (s : State) (ch v : Nat) (hop : BitVec 4),
    let u := deliverUibs s ch hop
    { u with uibIn := s.uibIn } = s ∧ u.uibInOf v = (if v < 251 ∧ uibPresent v = true ∧ s.flag (Adr.uibCuein v) 12 = true ∧
      s.field (Adr.uibCuein v) 9 0 = ch then s.uibInOf v ++ [hop] else s.uibInOf v))

/-- CONSTANT_WORD_PUSH, PAD_CUE_ACTION, TIMER_CUE_ACTION and UIB_CUE_ACTION (R37, R38, R279 to R281, R301, R302, R590).
The model's own choices in it: logs 58, 64. -/
def Obligations.CueActions : Prop :=
  (∀ (s : State) (id a : Nat), cinAdr id = some a →
    clearCin s id = (s.setFlag a 0 false).setCin id none) ∧
  (∀ (q : QueueId) (s : State),
    let a := Adr.cqCin q
    let ready := s.flag a 0 = true ∧ domOn s (queueDomain q) = true ∧ qHeld s q agentCue = false ∧ qFull s q = false
    (¬ ready → exec (.constantWordPush q) s = .next s) ∧
    (ready → ∃ w : Word, bits w 31 10 = s.field (Adr.cqConst q) 31 10 ∧ bits w 9 0 = s.field a 25 16 ∧
      exec (.constantWordPush q) s = .next (clearCin (push s q agentCue w false) (0x800 + q)))) ∧
  (∀ (p : Fin 192) (s : State),
    let a := Adr.padCtl p
    let t := clearCin s (0x200 + p)
    (s.cinOf (0x200 + p) = none ∨ ringOn s a = false → exec (.padCueAction p) s = .next s) ∧
    (∀ c, s.cinOf (0x200 + p) = some c → ringOn s a = true →
      (c.arg = 0 → exec (.padCueAction p) s = .next (t.setFlag a 0 (!s.flag a 0))) ∧
      (c.arg = 1 → exec (.padCueAction p) s = .next (t.setFlag a 0 true)) ∧
      (c.arg = 2 → exec (.padCueAction p) s = .next (t.setFlag a 0 false)))) ∧
  (∀ (n : Fin 64) (s : State),
    let stat := Adr.tmrStat n
    let cnt := Adr.tmrCount n
    let cin := Adr.tmrCin n
    let mode := s.field (Adr.tmrCtl n) 1 0
    let load := s.reg (Adr.tmrLoad n)
    (s.cinOf (0x400 + n) = none → exec (.timerCueAction n) s = .next s) ∧
    (∀ c, s.cinOf (0x400 + n) = some c → ∃ u, exec (.timerCueAction n) s = .next u ∧ u.flag cin 0 = false ∧ u.cinOf (0x400 + n) = none ∧
      (∀ k, k ≠ 0x400 + n.val → u.cinOf k = s.cinOf k) ∧ (∀ b, b ≠ stat → b ≠ cnt → b ≠ cin → u.reg b = s.reg b) ∧
      { u with regs := s.regs, cin := s.cin } = s ∧
      let starts := c.arg = 0 ∨ c.arg = 2 ∧ s.flag stat 0 = false
      (starts → mode ≠ 2 ∧ load = 0 → u.reg stat = setBit (s.reg stat) 2 true ∧ u.reg cnt = s.reg cnt) ∧
      (starts → ¬ (mode ≠ 2 ∧ load = 0) → u.flag stat 0 = true ∧ u.reg cnt = (if mode = 2 then 0 else load) ∧
        u.field stat 7 4 = min 15 (c.hop.toNat + 1) ∧ u.field stat 31 8 = s.field stat 31 8) ∧
      (c.arg = 1 → s.flag stat 0 = true → u.reg stat = setBit (s.reg stat) 0 false ∧ u.reg cnt = 0) ∧
      (c.arg = 1 ∧ s.flag stat 0 = false ∨ c.arg = 2 ∧ s.flag stat 0 = true ∨ 3 ≤ c.arg →
        u.reg stat = s.reg stat ∧ u.reg cnt = s.reg cnt))) ∧
  (∀ (u : Fin 256) (s : State),
    let a := Adr.uibCuein u
    let act := s.field a 17 16
    let counted := fun rest => (s.setUibIn u rest).incField a 31 24
    (s.uibInOf u = [] → exec (.uibCueAction u) s = .next s) ∧
    (∀ hop rest, s.uibInOf u = hop :: rest →
      (act = 3 → exec (.uibCueAction u) s = .next (counted rest)) ∧
      (act ≠ 3 → s.flag a 13 = true → exec (.uibCueAction u) s = .next ((counted rest).setFlag a 14 true)) ∧
      (act ≤ 1 → s.flag a 13 = false → exec (.uibCueAction u) s =
        .next (settleCue (holdUnit ((counted rest).setFlag a 13 true) u (decide (act = 0))) u)) ∧
      (act = 2 → s.flag a 13 = false → exec (.uibCueAction u) s =
        .next (writePwrreq ((counted rest).setFlag a 13 true) u 1))))

/-- CALL_SHEET_RECORD_WRITE, CS_CONS_WRITE and CS_DESCRIPTOR_WRITE (R289 to R296, R299).
The model's own choices in it: logs 42, 69. -/
def Obligations.SheetWrites : Prop :=
  (∀ (s : State) (x : CsRec),
    let c := companyOf x.role
    let stat := Adr.cswStat c
    let ring := Adr.csStat c (companyIx x.role) (x.level - 1)
    let u := postRecord s x
    ((s.writer c).length < 64 → ∃ t, OnlyRegs s t [stat] ∧ u = t.setWriter c (s.writer c ++ [x]) ∧
      u.field stat 14 8 = max (s.field stat 14 8) ((s.writer c).length + 1)) ∧
    (64 ≤ (s.writer c).length → OnlyRegs s { u with ovf := s.ovf } [stat, ring] ∧
      u.field stat 31 16 = min 0xFFFF (s.field stat 31 16 + 1) ∧ u.field ring 15 0 = min 0xFFFF (s.field ring 15 0 + 1))) ∧
  (∀ (s : State) (x : CsRec), 1 ≤ x.level → x.level ≤ 12 → x.role < 528 →
    let c := companyOf x.role
    let ix := companyIx x.role
    let prod := s.field (Adr.csProd c ix (x.level - 1)) 15 0
    let size := s.field (Adr.csCfg c ix (x.level - 1)) 19 16
    let base := (s.reg (Adr.csBasel c ix (x.level - 1))).toNat / 16 * 16 + s.field (Adr.csCfg c ix (x.level - 1)) 15 0 * 2 ^ 32
    let a := base + prod % 2 ^ size * 16
    let phase : Bool := decide (prod / 2 ^ size % 2 = 0)
    let bytes := leBytes 2 x.source.toNat ++ leBytes 1 (x.level % 16 + x.kind.toNat * 16) ++
      leBytes 1 (x.hop.toNat + (if x.curtain then 16 else 0) + (if x.merged then 32 else 0) + (if phase then 128 else 0)) ++
      leBytes 4 x.time.toNat ++ ((x.payload ++ List.replicate 8 0).take 8)
    let u := writeRecord s x
    (storeError s a = true ∨ isMemory a = false → u = s.incField (Adr.csStat c ix (x.level - 1)) 15 0) ∧
    (storeError s a = false → isMemory a = true → Plain s a 16 →
      (List.range 16).map (fun i => byteAt u (a + i)) = bytes ∧ KeepsBytes s u (fun k => a ≤ k ∧ k < a + 16) ∧
      u.field (Adr.csProd c ix (x.level - 1)) 15 0 = (prod + 1) % 2 ^ 16 ∧
      (∀ b, b ≠ Adr.csProd c ix (x.level - 1) → u.reg b = s.reg b))) ∧
  (∀ (c : Fin 8) (s : State),
    let lost := fun (s : State) (x : CsRec) (owe : Bool) => loseRecord s x.role x.level x.source x.time owe
    let en := fun (x : CsRec) => ringEn s x.role x.level
    let full := fun (x : CsRec) => ringFull s x.role x.level
    (∀ r l, owedRing s c = some (r, l) → exec (.callSheetRecordWrite c) s = .next
      (((writeRecord s (ovfRecord s r l)).setFlag (ringStatAdr r l) 16 false).setOvf (ringKey r l) Ovf.reset)) ∧
    (owedRing s c = none → s.writer c = [] → exec (.callSheetRecordWrite c) s = .next s) ∧
    (∀ x rest, owedRing s c = none → s.writer c = x :: rest →
      (en x = false → exec (.callSheetRecordWrite c) s = .next (lost (s.setWriter c rest) x false)) ∧
      (en x = true → full x = true → exec (.callSheetRecordWrite c) s = .next (lost (s.setWriter c rest) x true)) ∧
      (en x = true → full x = false → exec (.callSheetRecordWrite c) s = .next (writeRecord (s.setWriter c rest) x)))) ∧
  (∀ (r : RoleId) (level : Fin 12) (v : Word) (s : State),
    let cons := Adr.csCons (companyOf r) (companyIx r) level
    let prod := s.field (Adr.csProd (companyOf r) (companyIx r) level) 15 0
    let old := s.field cons 15 0
    let new := v.toNat % 2 ^ 16
    (storeError s cons = true → exec (.csConsWrite r level v) s = .next s) ∧
    (storeError s cons = false → (prod + 2 ^ 16 - old) % 2 ^ 16 < (new + 2 ^ 16 - old) % 2 ^ 16 →
      exec (.csConsWrite r level v) s = .next (s.setFlag (Adr.csStat (companyOf r) (companyIx r) level) 17 true)) ∧
    (storeError s cons = false → (new + 2 ^ 16 - old) % 2 ^ 16 ≤ (prod + 2 ^ 16 - old) % 2 ^ 16 →
      exec (.csConsWrite r level v) s = .next (s.setField cons 15 0 new))) ∧
  (∀ (a : Agent) (r : RoleId) (level : Fin 12) (v : Word) (s : State) (cfg : Bool),
    let c := companyOf r
    let i := companyIx r
    let adr := if cfg then Adr.csCfg c i level else Adr.csBasel c i level
    let old := s.reg adr
    let sizeOk := 4 ≤ bits v 19 16 ∧ bits v 19 16 ≤ 12
    let new : Nat := if cfg then bits v 15 0 + (if sizeOk then bits v 19 16 else bits old 19 16) * 2 ^ 16 + bits v 20 20 * 2 ^ 20 +
        bits old 31 21 * 2 ^ 21 else bits old 3 0 + bits v 31 4 * 2 ^ 4
    let moved := if cfg then bits old 19 0 ≠ new % 2 ^ 20 else old.toNat ≠ new
    let cleared := (((((s.setReg adr (BitVec.ofNat 32 new)).setField (Adr.csProd c i level) 15 0 0).setField (Adr.csCons c i level) 15 0 0).setFlag
      (Adr.csStat c i level) 16 false).setOvf (r.val * 12 + level) Ovf.reset)
    (storeError s adr = true ∨ isSmOrDbt a = false → exec (.csDescriptorWrite a r level cfg v) s = .next s) ∧
    (storeError s adr = false → isSmOrDbt a = true → ¬ moved →
      exec (.csDescriptorWrite a r level cfg v) s = .next (s.setReg adr (BitVec.ofNat 32 new))) ∧
    (storeError s adr = false → isSmOrDbt a = true → moved → exec (.csDescriptorWrite a r level cfg v) s = .next cleared))

/-- CROSSBAR_ROUTE_WRITE, REGISTER_WRITE and CLOCK_RESUME (R10, R23, R40, R285, R542, R583, R654).
The model's own choices in it: logs 13, 67, 68. -/
def Obligations.RegisterWrites : Prop :=
  (∀ (a : Agent) (ch : Fin 1024) (reg : Fin 6) (v : Word) (s : State),
    let adr := Adr.chSrc ch + 4 * reg.val
    let m : Word := if reg.val = 0 then 0x10FFF else if reg.val = 1 then 0x1F3FF else 0x71FFF
    let w := (s.reg adr &&& ~~~m) ||| (v &&& m)
    let refused := bit w 16 = true ∧ (
      reg.val = 0 ∧ bits w 11 0 ≠ 0 ∧ evLatch (bits w 11 0) = none ∨
      reg.val = 1 ∧ (527 < bits w 9 0 ∨ bits w 15 12 = 0 ∨ 12 < bits w 15 12) ∨
      2 ≤ reg.val ∧ legalRoute (bits w 12 0) (bits w 18 17) = false)
    (domOn s 51 = false ∨ isSmOrDbt a = false → exec (.crossbarRouteWrite a ch reg v) s = .next s) ∧
    (domOn s 51 = true → isSmOrDbt a = true → refused →
      exec (.crossbarRouteWrite a ch reg v) s = .next (s.setFlag Adr.cxStat 0 true)) ∧
    (domOn s 51 = true → isSmOrDbt a = true → ¬ refused → exec (.crossbarRouteWrite a ch reg v) s = .next (s.setReg adr w))) ∧
  (∀ (a : Agent) (addr : Addr) (v : Word) (s : State),
    let p := addr.toNat
    let word := isDevice p = true ∧ p % 4 = 0
    (¬ word → exec (.registerWrite a addr v) s = .next s) ∧
    (word → storeError s p = true → exec (.registerWrite a addr v) s =
      .next (match a with
        | .role r _ => lateError s r 1 p none none
        | _ => s)) ∧
    (word → storeError s p = false → clockOn s p = true →
      (regAt p = none → exec (.registerWrite a addr v) s = .next s) ∧
      (∀ x, regAt p = some x → mayWrite x.d.writer a = false → exec (.registerWrite a addr v) s = .next s) ∧
      (∀ x, regAt p = some x → mayWrite x.d.writer a = true →
        let w := putFields x.d.fields (s.reg p) v
        writeUib s a x p v = none → writeHouse s a x p w v = none → writeFabric s a x p w v = none → writeRing s a x p w v = none →
        exec (.registerWrite a addr v) s = .next (s.setReg p w))) ∧
    (∀ d, word → storeError s p = false → clockOn s p = false → clockDom p = some d →
      let slot := Sparse.get (fun _ => none) s.heldW d
      let r := match a with
        | .role r _ => r.val
        | _ => 0
      (slot ≠ none → exec (.registerWrite a addr v) s = .next s) ∧
      (slot = none → exec (.registerWrite a addr v) s = .next
        ({ s with heldW := Sparse.put (fun _ => none) s.heldW d (some ⟨a, p, v, r, (s.role r).pc⟩) }.setFlag (Adr.xcStat d) 1 true)))) ∧
  (∀ (f : FieldD) (old v : Word) (n : Nat), 0 < f.width → f.lo + f.width ≤ 32 → n < 32 →
    let inside := f.lo ≤ n ∧ n < f.lo + f.width
    let new := putField v old f
    (¬ inside → bit new n = bit old n) ∧ (f.acc = .wo → bit new n = bit old n) ∧
    (inside → f.acc = .rw → f.legal.ok (bits v (f.lo + f.width - 1) f.lo) = true → bit new n = bit v n) ∧
    (f.acc = .rw → f.legal.ok (bits v (f.lo + f.width - 1) f.lo) = false → new = old) ∧
    (inside → f.acc = .w1c → bit new n = (bit old n && !bit v n))) ∧
  (∀ (d : Fin 64) (s : State),
    let stat := Adr.xcStat d
    let flush := houseNow s = 1 ∧ s.cxl.pfail = true ∧ 4 ≤ d.val ∧ d.val ≤ 14
    let can := s.flag stat 0 = false ∧ (clockInState (houseNow s) d = true ∨ flush) ∧ (fromRefclk d = false ∨ s.time.refclk = true)
    let t := (s.setFlag stat 0 true).setFlag stat 2 false
    (¬ can → exec (.clockResume d) s = .next s) ∧
    (can → Sparse.get (fun _ => none) s.heldW d.val = none → exec (.clockResume d) s = .next t) ∧
    (∀ w, can → Sparse.get (fun _ => none) s.heldW d.val = some w → exec (.clockResume d) s = .next
      (devWrite ({ t with heldW := Sparse.put (fun _ => none) s.heldW d.val none }.setFlag stat 1 false) w.by_ w.addr w.value)))

/-- TIMER_START, TIMER_STOP, TIMER_EXPIRY, METRO_LO_READ, METRONOME_BOUNDARY and BEATPER_WINDOW (R55, R56, R59 to R63, R301, R302).
The model's own choices in it: logs 1, 5, 8, 36. -/
def Obligations.Timers : Prop :=
  (∀ (n : Fin 64) (s : State),
    let stat := Adr.tmrStat n
    let cnt := Adr.tmrCount n
    let ctl := s.reg (Adr.tmrCtl n)
    let mode := bits ctl 1 0
    let load := s.reg (Adr.tmrLoad n)
    let e := 0x40 + n.val
    (mode ≠ 2 → load = 0 → domOn s 65 = true → exec (.timerStart n) s = .next (s.setFlag stat 2 true)) ∧
    (mode = 2 ∨ load ≠ 0 → domOn s 65 = true → ∃ u, exec (.timerStart n) s = .next u ∧ OnlyRegs s u [stat, cnt] ∧
      u.reg cnt = (if mode = 2 then 0 else load) ∧ u.flag stat 0 = true ∧ u.field stat 7 4 = 0 ∧
      u.field stat 3 1 = s.field stat 3 1 ∧ u.field stat 31 8 = s.field stat 31 8) ∧
    (s.flag stat 0 = true → domOn s 65 = true → ∃ u, exec (.timerStop n) s = .next u ∧ OnlyRegs s u [stat, cnt] ∧ u.reg cnt = 0 ∧
      u.reg stat = setBit (s.reg stat) 0 false) ∧
    (s.flag stat 0 = false → exec (.timerStop n) s = .next s ∧ exec (.timerExpiry n) s = .next s) ∧
    (domOn s 65 = false → exec (.timerStart n) s = .next s ∧ exec (.timerStop n) s = .next s) ∧
    (s.flag stat 0 = true → ∃ u, exec (.timerExpiry n) s = .next u ∧ OnlyRegs s { u with xev := s.xev } [stat, cnt] ∧
      u.xev = (raiseEvent s e (BitVec.ofNat 4 (s.field stat 7 4)) (List.replicate 6 0)
        (if bit ctl 2 then some (bits ctl 13 4) else none)).xev ∧
      u.flag stat 1 = true ∧ u.field stat 15 8 = min 0xFF (s.field stat 15 8 + 1) ∧ u.field stat 7 4 = s.field stat 7 4 ∧
      (mode = 1 → load ≠ 0 → u.flag stat 0 = true ∧ u.reg cnt = load ∧ u.flag stat 2 = s.flag stat 2) ∧
      (mode = 1 → load = 0 → u.flag stat 0 = false ∧ u.reg cnt = 0 ∧ u.flag stat 2 = true) ∧
      (mode ≠ 1 → u.flag stat 0 = false ∧ u.reg cnt = 0 ∧ u.flag stat 2 = s.flag stat 2))) ∧
  (∀ s : State, ∃ u, exec .metroLoRead s = .next u ∧ OnlyRegs s u [Adr.metroHi] ∧
    u.field Adr.metroHi 15 0 = s.metro.toNat / 2 ^ 32 ∧ u.field Adr.metroHi 31 16 = s.field Adr.metroHi 31 16 ∧
    metroLo s = s.metro.setWidth 32) ∧
  (∀ (ticks : BitVec 32) (s : State),
    let adj : Int := max (-2) (min 2 s.time.debt)
    let target := s.time.lastB.toNat + (125000 + adj).toNat
    let gone := target - s.metro.toNat
    (s.time.xtal = false ∨ s.flag (Adr.xcStat 1) 0 = false → exec (.metronomeBoundary ticks) s = .next s) ∧
    (s.time.xtal = true → s.flag (Adr.xcStat 1) 0 = true → ∃ u, exec (.metronomeBoundary ticks) s = .next u ∧
      u.metro = BitVec.ofNat 48 (max target s.metro.toNat) ∧
      u.time = { s.time with debt := s.time.debt - adj, lastB := BitVec.ofNat 48 target } ∧
      { u with regs := s.regs, metro := s.metro, time := s.time, freeNext := s.freeNext } = s ∧
      u.flag Adr.metroStat 0 = true ∧ u.flag Adr.metroStat 1 = s.flag Adr.metroStat 1 ∧
      (u.flag Adr.metroStat 2 = true ↔ s.flag Adr.metroStat 2 = true ∨ ticks.toNat < 124998 ∨ 125002 < ticks.toNat) ∧
      (∀ a, a ≠ Adr.metroStat → a ≠ Adr.metroTrim → (∀ n, n < 64 → a ≠ Adr.tmrCount n) → u.reg a = s.reg a) ∧
      (s.Canonical → ∀ n, n < 64 → u.reg (Adr.tmrCount n) =
        (if s.flag (Adr.tmrStat n) 0 = true ∧ s.field (Adr.tmrCtl n) 1 0 ≠ 2 then
          BitVec.ofNat 32 ((s.reg (Adr.tmrCount n)).toNat - gone) else s.reg (Adr.tmrCount n))))) ∧
  (∀ s : State, s.pending = [] →
    (s.boot.porst = true ∨ s.field Adr.pmStat 2 0 = 5 → step s = .next { s with sm := { s.sm with timeOff := s.sm.timeOff + 1 } }) ∧
    (s.boot.porst = false → s.field Adr.pmStat 2 0 ≠ 5 → s.flag (Adr.xcStat 1) 0 = false → step s = .next s) ∧
    (s.boot.porst = false → s.field Adr.pmStat 2 0 ≠ 5 → s.flag (Adr.xcStat 1) 0 = true → ∃ u, step s = .next u ∧
      { u with regs := s.regs, metro := s.metro } = s ∧ u.metro = s.metro + 1 ∧
      (∀ a, (∀ n, n < 64 → a ≠ Adr.tmrCount n) → (∀ l, l < 128 → a ≠ Adr.twdStat (l / 4) (l % 4)) → u.reg a = s.reg a) ∧
      (s.Canonical → ∀ n, n < 64 → u.reg (Adr.tmrCount n) =
        (if s.flag (Adr.tmrStat n) 0 = true ∧ s.field (Adr.tmrCtl n) 1 0 ≠ 2 then
          BitVec.ofNat 32 ((s.reg (Adr.tmrCount n)).toNat - 1) else s.reg (Adr.tmrCount n))) ∧
      ∀ l, l < 128 →
        let a := Adr.twdStat (l / 4) (l % 4)
        u.reg a = (if u.metro.toNat % 1000 = 0 ∧ s.flag (Adr.twdCtl (l / 4) (l % 4)) 16 = true ∧ s.flag a 16 = false then
          setBits (s.reg a) 15 0 (s.field a 15 0 - 1) else s.reg a))) ∧
  (∀ (core : CoreId) (beats : BitVec 16) (s : State),
    let p := if beats = 0 then 20001 else (32000000 + beats.toNat / 2) / beats.toNat
    (coreOn s core = false → exec (.beatperWindow core beats) s = .next s) ∧
    (coreOn s core = true → ∃ v : Word, exec (.beatperWindow core beats) s = .next (s.setCore core { s.core core with per := v }) ∧
      bits v 15 0 = max 1000 (min 20000 p) ∧ bits v 29 16 = 0 ∧ (bit v 30 = true ↔ p < 1000 ∨ 20000 < p) ∧ bit v 31 = true))

/-- XTAL_LOST, CRYSTAL_RETURN, OSCILLATOR_FAILOVER, REFCLK_LOSS, REFCLK_RETURN, FUSE_PROGRAM, FUSE_PROGRAM_DONE, WATCHDOG_SERVICE and
TROUPE_WATCHDOG_EXPIRY (R63, R381, R535, R545, R621, R654). The payload of the watchdog's event and the code of the loss record are free
values, which the manual leaves open (log 8). The model's own choices in it: logs 8, 51, 81. -/
def Obligations.ClockLoss : Prop :=
  (∀ s : State, s.time.xtal = false → exec .xtalLost s = .next s ∧ ∃ d : Int, exec .crystalReturn s =
    .next { s with freeNext := s.freeNext + 1, time := { s.time with xtal := true, debt := d, lastB := s.metro } }) ∧
  (∀ s : State, s.time.xtal = true → exec .crystalReturn s = .next s ∧ ∃ u x, exec .xtalLost s = .next u ∧
    u.time = { s.time with xtal := false } ∧ u.reg Adr.metroStat = setBit (s.reg Adr.metroStat) 1 true ∧
    (∀ a, a ≠ Adr.metroStat → u.reg a = s.reg a) ∧ u.log = (logRecord s x).log ∧
    x.role = s.field Adr.smNote 9 0 ∧ x.level = s.field Adr.smNote 15 12 ∧ x.source = 249 ∧ x.kind = 5 ∧ x.time = metroLo s ∧
    x.payload.length = 8 ∧ { u with regs := s.regs, time := s.time, log := s.log, freeNext := s.freeNext } = s) ∧
  (∀ s : State,
    let o := s.field Adr.metroStat 15 8
    (2 ≤ o → exec .oscillatorFailover s = .next s) ∧
    (o < 2 → ∃ u n, exec .oscillatorFailover s = .next u ∧ n ≤ 4 ∧ u.time = { s.time with debt := s.time.debt + (n : Int) } ∧
      u.field Adr.metroStat 15 8 = o + 1 ∧ u.field Adr.metroStat 7 0 = s.field Adr.metroStat 7 0 ∧
      u.sm = { s.sm with records := if s.sm.records.length < 128 then s.sm.records ++ [(5, o)] else s.sm.records } ∧
      (∀ a, a ≠ Adr.metroStat → u.reg a = s.reg a) ∧
      { u with regs := s.regs, time := s.time, sm := s.sm, freeNext := s.freeNext } = s)) ∧
  (∀ s : State, s.time.refclk = false → exec .refclkLoss s = .next s ∧
    let t := { s with time := { s.time with refclk := true } }
    (s.boot.porst = true ∨ s.boot.brown ≠ 0 → exec .refclkReturn s = .next t) ∧
    (s.boot.porst = false → s.boot.brown = 0 → s.field Adr.bootStat 2 0 ≠ 1 → exec .refclkReturn s =
      .next (if s.flag Adr.smStat 2 = true then notice t 242 0x5A [] else t))) ∧
  (∀ s : State, s.time.refclk = true → exec .refclkReturn s = .next s ∧ ∃ u, exec .refclkLoss s = .next u ∧
    u.time = { s.time with refclk := false } ∧ { u with regs := s.regs, time := s.time } = s ∧
    (∀ a, (∀ d, d < 64 → a ≠ Adr.xcStat d) → u.reg a = s.reg a) ∧
    ∀ d, d < 64 → u.reg (Adr.xcStat d) =
      (if clockInState (houseNow s) d = true ∧ fromRefclk d = false then s.reg (Adr.xcStat d)
        else setBit (s.reg (Adr.xcStat d)) 0 false)) ∧
  (∀ s : State,
    let n := s.field Adr.fuseAddr 5 0
    (domOn s 64 = false ∨ s.flag Adr.fuseCtl 1 = true → exec .fuseProgram s = .next s) ∧
    (domOn s 64 = true → s.flag Adr.fuseCtl 1 = false → ∃ u, exec .fuseProgram s = .next u ∧ OnlyRegs s u [Adr.fuseCtl] ∧
      u.reg Adr.fuseCtl = setBit (s.reg Adr.fuseCtl) 1 true) ∧
    (∀ ok, s.flag Adr.fuseCtl 1 = false → exec (.fuseProgramDone ok) s = .next s) ∧
    (∀ ok, s.flag Adr.fuseCtl 1 = true → ∃ u, exec (.fuseProgramDone ok) s = .next u ∧ u.flag Adr.fuseCtl 1 = false ∧
      u.flag Adr.fuseCtl 2 = (s.flag Adr.fuseCtl 2 || !ok) ∧ (∀ k, k ≠ n → ownerWord u k = ownerWord s k) ∧
      (ok = true → ownerWord u n = ownerWord s n ||| s.reg Adr.fuseData) ∧
      (∀ i, bit (ownerWord s n) i = true → bit (ownerWord u n) i = true) ∧
      (∀ i, bit (ownerWord u n) i = true → bit (ownerWord s n) i = true ∨ bit (s.reg Adr.fuseData) i = true) ∧
      (∀ a, a ≠ Adr.fuseCtl → u.reg a = s.reg a) ∧
      { u with regs := s.regs, freeNext := s.freeNext, sm := { u.sm with ownerFuse := s.sm.ownerFuse } } = s)) ∧
  (∀ (core : Fin 128) (s : State),
    let l := core.val
    let ctl := Adr.twdCtl (l / 4) (l % 4)
    let stat := Adr.twdStat (l / 4) (l % 4)
    (domOn s (l / 4) = false → exec (.watchdogService core) s = .next s) ∧
    (domOn s (l / 4) = true → ∃ u, exec (.watchdogService core) s = .next u ∧ OnlyRegs s u [stat] ∧
      u.field stat 15 0 = s.field ctl 15 0 ∧ u.field stat 31 16 = s.field stat 31 16) ∧
    let runs := s.flag ctl 16 = true ∧ s.flag stat 16 = false ∧ domOn s (l / 4) = true
    (¬ runs → exec (.troupeWatchdogExpiry core) s = .next s) ∧
    (runs → ∃ t p, exec (.troupeWatchdogExpiry core) s = .next (raiseEvent { t with freeNext := t.freeNext + 1 } (0x420 + l / 4) 0 p none) ∧
      p.length = 6 ∧ OnlyRegs (raiseFault s (64 + l) 9 1 0 none) t [stat] ∧
      t.field stat 15 0 = s.field ctl 15 0 ∧ t.field stat 23 16 = s.field stat 23 16 ∧
      t.field stat 31 24 = min 0xFF (s.field stat 31 24 + 1)))

/-- UIB_HOLD_WRITE, HOLD_ENTRY, HOLD_RELEASE, UIB_FAULT_CLEAR, UIB_FAULT_CLRCNT, UIB_CUEIN_WRITE and UIB_PWRREQ_WRITE (R30 to R38, R42,
R43, R608 to R612). The model's own choices in it: logs 25, 55. -/
def Obligations.Units : Prop :=
  (∀ (a : Agent) (u : Fin 256) (v : Word) (s : State),
    let core : Bool := decide (64 ≤ u.val ∧ u.val ≤ 199)
    let mask := if u.val < 192 then 0xF else 0x3
    (uibPresent u = false ∨ isSmOrDbt a = false ∨ 241 < u.val → exec (.uibHoldWrite a u v) s = .next s) ∧
    (uibPresent u = true → isSmOrDbt a = true → u.val ≤ 241 → ∃ t w, exec (.uibHoldWrite a u v) s = .next w ∧
      OnlyRegs s t [Adr.uibHold u] ∧
      (∀ n, bit (t.reg (Adr.uibHold u)) n = (if core = true ∧ 4 ≤ n ∧ n ≤ 7 then bit v n && mask.testBit (n - 4) else s.flag (Adr.uibHold u) n)) ∧
      { w with regs := s.regs, roles := s.roles } = s ∧
      (∀ x, x < 256 → w.reg (Adr.uibHold x) =
        (if x ∈ selectedUnits t 3 u ∧ x ≤ 241 then setBit (t.reg (Adr.uibHold x)) 0 (bit v 0) else t.reg (Adr.uibHold x))) ∧
      (∀ b, (∀ x, x < 256 → b ≠ Adr.uibHold x) → w.reg b = s.reg b) ∧
      ∀ r, w.role r = (if r ∈ selectedRoles t u then { s.role r with holdReq := bit v 0 } else s.role r))) ∧
  (∀ (r : RoleId) (s : State),
    let x := s.role r
    let can := x.started = true ∧ x.holdReq = true ∧ x.onHold = false ∧ x.frozen = false ∧ rsLoadOut x = false
    let kept := fun (y : Role) => y.g = x.g ∧ y.pc = x.pc ∧ y.st = x.st ∧ y.posted = x.posted ∧ y.rc = x.rc
    (¬ can → exec (.holdEntry r) s = .next s) ∧
    (can → ∃ u, exec (.holdEntry r) s = .next u ∧ (u.role r).onHold = true ∧ (u.role r).resv = none ∧
      (x.busy = .idle ∨ x.busy = .waiting → x.rep = none → u.role r = { x with onHold := true, resv := none } ∧
        u.mem = s.mem ∧ ∀ q, q ≠ r.val → u.role q = s.role q)) ∧
    (x.onHold = false ∨ x.holdReq = true → exec (.holdRelease r) s = .next s) ∧
    (x.onHold = true → x.holdReq = false → x.prompt = false → ∃ u, exec (.holdRelease r) s = .next u ∧
      (u.role r).onHold = false ∧ kept (u.role r) ∧ (u.role r).busy = x.busy ∧ u.mem = s.mem ∧
      (∀ n, n < 8 → (u.role r).tick n = if (x.tick n).cid = 0xFFF then Ticket.null else x.tick n) ∧
      (u.role r).ht = (if x.ht.cid = 0xFFF then Ticket.null else x.ht) ∧
      (u.role r).tst = (if x.tst.cid = 0xFFF then Ticket.null else x.tst) ∧
      (u.role r).srt = (if x.srt.cid = 0xFFF then Ticket.null else x.srt) ∧ ∀ q, q ≠ r.val → u.role q = s.role q)) ∧
  (∀ (u : Fin 256) (v : Word) (s : State),
    (uibPresent u = false → exec (.uibFaultClear u v) s = .next s ∧ exec (.uibFaultClrcnt u) s = .next s) ∧
    (uibPresent u = true → ∃ w, exec (.uibFaultClear u v) s = .next w ∧ { w with regs := s.regs } = s ∧
      (∀ b, (∀ x, x ∈ uibBeneath u → b ≠ Adr.uibFault x) → w.reg b = s.reg b) ∧
      ∀ x, x ∈ uibBeneath u → ∀ n, n < 32 → w.flag (Adr.uibFault x) n = (s.flag (Adr.uibFault x) n && !(decide (n < 12) && bit v n))) ∧
    (uibPresent u = true → ∃ w, exec (.uibFaultClrcnt u) s = .next w ∧ OnlyRegs s w [Adr.uibFault u] ∧
      w.field (Adr.uibFault u) 31 16 = 0 ∧ w.field (Adr.uibFault u) 15 0 = s.field (Adr.uibFault u) 15 0)) ∧
  (∀ (a : Agent) (u : Fin 256) (v : Word) (s : State),
    let c := Adr.uibCuein u
    (uibPresent u = false → exec (.uibCueinWrite a u v) s = .next s) ∧
    (uibPresent u = true → ∃ w, exec (.uibCueinWrite a u v) s = .next w ∧ OnlyRegs s w [c] ∧ w.field c 9 0 = bits v 9 0 ∧
      w.flag c 12 = bit v 12 ∧ w.flag c 13 = s.flag c 13 ∧ w.flag c 14 = (s.flag c 14 && !bit v 14) ∧ w.field c 31 24 = 0 ∧
      w.field c 17 16 = (if bits v 17 16 ≤ 1 ∧ isSmOrDbt a = false then s.field c 17 16 else bits v 17 16))) ∧
  (∀ (u : Fin 256) (v : Word) (s : State),
    let p := Adr.uibPwrreq u
    (uibPresent u = false ∨ domOn s 51 = false → exec (.uibPwrreqWrite u v) s = .next s) ∧
    (uibPresent u = true → domOn s 51 = true → s.field p 3 2 = 1 →
      exec (.uibPwrreqWrite u v) s = .next (s.setFlag p 4 true)) ∧
    (uibPresent u = true → domOn s 51 = true → s.field p 3 2 ≠ 1 → ∃ w, exec (.uibPwrreqWrite u v) s = .next w ∧ OnlyRegs s w [p] ∧
      w.field p 1 0 = bits v 1 0 ∧ w.field p 3 2 = (if bits v 1 0 = 0 then 0 else 1) ∧ w.field p 15 8 = 0 ∧
      w.flag p 4 = (s.flag p 4 && !bit v 4)))

/-- PFAIL_ASSERT, PFAIL_DEASSERT and GPF_PHASE_COMPLETE (R271, R355, R420, R422, R457, R567).
The model's own choices in it: logs 57, 59. -/
def Obligations.PowerFail : Prop :=
  (∀ s : State, s.cxl.pfail = true → exec .pfailAssert s = .next s ∧ ∃ u, exec .pfailDeassert s = .next u ∧
    u.cxl = { s.cxl with pfail := false, gpf := if s.cxl.gpf = .drain ∨ s.cxl.gpf = .phase 3 3 then .idle else s.cxl.gpf } ∧
    (∀ r, u.role r = { s.role r with pfail := false }) ∧ { u with roles := s.roles, cxl := s.cxl } = s) ∧
  (∀ s : State, s.cxl.pfail = false → exec .pfailDeassert s = .next s ∧
    let low := 1 < s.field Adr.pmStat 2 0
    (low → exec .pfailAssert s = .next ({ s with cxl := { s.cxl with pfail := true, pfailAt := s.metro } }.setFlag Adr.pmStat 4 true)) ∧
    (¬ low → ∃ u, exec .pfailAssert s = .next u ∧ u.cxl.pfail = true ∧ u.cxl.pfailAt = s.metro ∧
      u.cxl.gpf = (if s.cxl.gpf = .idle then .drain else s.cxl.gpf) ∧
      (∀ r w, (s.scene r).cur ≠ none → (s.role r).busy = .curtain w → (u.scene r).cur = none ∧ (u.role r).busy = .idle) ∧
      (∀ h e l, h < 2 → hcOn s h = true → (hcOf s h).queue = e :: l → (hcOf u h).queue = { e with attempt := 0, wrote := false } :: l) ∧
      ((∀ r, (s.scene r).cur = none) → hcOn s 0 = false → hcOn s 1 = false → { u with roles := s.roles, cxl := s.cxl } = s ∧ u.cxl.reqs = s.cxl.reqs ∧
        ∀ r, u.role r = { s.role r with pfail := (s.role r).started && !coreDark s (coreOf r) }))) ∧
  (∀ (port : Fin 2) (timeout : Bool) (s : State),
    let first := fun p => if linkUp s p then 1 else 3
    let gpf := Adr.cxlGpf
    (s.cxl.gpf = .idle ∨ s.cxl.gpf = .phase 3 3 ∨ s.cxl.gpf = .drain ∧ gpfDrained s = false →
      exec (.gpfPhaseComplete port timeout) s = .next s) ∧
    (∀ a b, s.cxl.gpf = .phase a b ∧ ¬ (a = 3 ∧ b = 3) ∨ s.cxl.gpf = .drain ∧ gpfDrained s = true ∧ a = first 0 ∧ b = first 1 →
      let n := if port.val = 0 then a else b
      let a' := if linkUp s 0 then (if port.val = 0 then min 3 (a + 1) else a) else 3
      let b' := if linkUp s 1 then (if port.val = 0 then b else min 3 (b + 1)) else 3
      let done := a' = 3 ∧ b' = 3
      ∃ u, exec (.gpfPhaseComplete port timeout) s = .next u ∧ OnlyRegs s { u with cxl := s.cxl } [gpf] ∧
        u.cxl = { s.cxl with gpf := if done ∧ s.cxl.pfail = false then .idle else .phase a' b' } ∧
        u.flag gpf 2 = (s.flag gpf 2 || (timeout && decide (n = 1))) ∧ u.flag gpf 3 = (s.flag gpf 3 || (timeout && decide (n = 2))) ∧
        (done → u.flag gpf 0 = false ∧ u.flag gpf 1 = true ∧
          u.field gpf 31 16 = min 0xFFFF (s.metro.toNat - s.cxl.pfailAt.toNat)) ∧
        (¬ done → u.flag gpf 0 = true ∧ u.flag gpf 1 = s.flag gpf 1 ∧ u.field gpf 31 16 = s.field gpf 31 16)))

/-- CORE_FAULT_DETECTED, STALL_DETECTOR_EXPIRY, CORE_MIGRATION, LEAD_MIGRATION, SLACK_READING and RETIREMENT_NOTICE_REPEAT (R87, R347 to
R353, R364 to R375, R507). The model's own choices in it: logs 37, 45, 46. -/
def Obligations.Wear : Prop :=
  (∀ (r : RoleId) (wide : Bool) (s : State) (kind : CoreFault) (stage : StallStage),
    let core := coreOf r
    let w := (s.role r).busy
    (coreOn s core = false → exec (.coreFaultDetected r kind) s = .next s ∧ exec (.stallDetectorExpiry r stage) s = .next s) ∧
    (coreOn s core = true →
      exec (.coreFaultDetected r (.dualRail wide)) s = .next (coreFault s core 1 (if wide then rolesOf core else [r.val])) ∧
      exec (.coreFaultDetected r .parityG) s = .next (coreFault (raiseRoleFault s r 5 1 none) core 3 [r.val]) ∧
      exec (.coreFaultDetected r .paritySpecial) s = .next (coreFault (raiseRoleFault s r 5 2 none) core 3 [r.val]) ∧
      exec (.coreFaultDetected r .parityTicket) s = .next (coreFault (raiseRoleFault s r 5 3 none) core 3 [r.val]) ∧
      exec (.stallDetectorExpiry r .roleStage) s = .next (coreFault (raiseRoleFault s r 4 1 none) core 2 [r.val]) ∧
      (isLead r = true → exec (.stallDetectorExpiry r .leadUnit) s = .next (coreFault (raiseRoleFault s r 4 3 none) core 2 [r.val])) ∧
      (castFollower s core = none ∨ (∀ i, w ≠ .curtain i) → exec (.coreFaultDetected r .castMismatch) s = .next s))) ∧
  (∀ (core mech : Nat) (s : State),
    let p := physOf s core
    let u := noteFault s p
    faultsOf u p = (faultsOf s p ++ [todNow s]).drop ((faultsOf s p ++ [todNow s]).length - 255) ∧
    (∀ q, q ≠ p → faultsOf u q = faultsOf s q) ∧ { u with sm := { u.sm with faultTimes := s.sm.faultTimes } } = s ∧
    (faultsWithin u p s.sm.wear.days < s.sm.wear.faults → coreFault s core mech [] = u)) ∧
  (∀ (r : RoleId) (mech : Nat) (s : State),
    let x := s.role r
    let n := if replaying s r then max 2 ((s.scene r).faults + 1) else (s.scene r).faults + 1
    let t := s.setScene r { s.scene r with faults := n }
    let core := coreOf r
    let cause := if (castFollower s core).isSome then 4 else 3
    let guarded := isLead r = false ∧ (x.sc = true ∨ recFlag s r 9 = true)
    (x.started = false → chargeRole mech s r = s) ∧
    (x.started = true → ¬ guarded → chargeRole mech s r = restartRole (abandonWork s r 4).1 r 0x13 mech) ∧
    (x.started = true → guarded → n = 1 → x.sc = true → chargeRole mech s r = replayScene (abandonWork t r 3).1 r 1 0x10 mech) ∧
    (x.started = true → guarded → n = 1 → x.sc = false → chargeRole mech s r = restoreCheckpoint (abandonWork t r 4).1 r mech) ∧
    (x.started = true → guarded → n ≠ 1 → understudyFree s core = true → chargeRole mech s r =
      addDue ((abandonWork t r 3).1.modRole r (fun x => { x with frozen := true })) ⟨core, cause, [(r.val, mech)]⟩) ∧
    (x.started = true → guarded → n = 2 → understudyFree s core = false → chargeRole mech s r =
      wearNotice (if x.sc then replayScene (abandonWork t r 3).1 r 1 0x10 mech else restoreCheckpoint (abandonWork t r 4).1 r mech)
        core 0x24 cause) ∧
    (x.started = true → guarded → 2 < n → understudyFree s core = false → chargeRole mech s r = retireNoCarrier t core cause)) ∧
  (∀ (r : RoleId) (vec kind : Nat) (s : State),
    let x := s.role r
    let y := (startRole s r vec kind).role r
    y.started = true ∧ y.pc = BitVec.ofNat 32 (0x20 * vec) ∧ y.st = BitVec.ofNat 32 (roleIn r * 2 ^ 16) ∧ (∀ n, y.greg n = 0) ∧
    y.stack = [] ∧ y.resv = none ∧ y.busy = .idle ∧ y.tick 0 = y.ht ∧ y.ht.base = BitVec.ofNat 48 (homeBase r) ∧ y.ht.len = 0x4000 ∧
    y.ht.perm = 7 ∧ y.ht.cid = BitVec.ofNat 12 (roleCid s r) ∧ y.ht.tag = true ∧ y.onHold = x.onHold ∧ y.holdReq = x.holdReq) ∧
  (∀ (core : Fin 128) (cause : Byte) (s : State),
    let hit := s.sm.due.find? (fun d => d.core == core.val && d.cause == cause.toNat)
    (hit = none → exec (.coreMigration core cause) s = .next s) ∧
    (∀ d, hit = some d → carrier s core = 7 →
      exec (.coreMigration core cause) s = .next { s with sm := { s.sm with due := s.sm.due.filter (fun e => e.core ≠ core.val) } }) ∧
    (∀ d q, hit = some d → carrier s core ≠ 7 → freeSlot s (core / 4) = some q → d.charged = [] →
      (∀ r, r ∈ rolesOf core → (s.role r).posted = [] ∧ ((s.role r).busy = .idle ∨ (s.role r).busy = .waiting) ∧ (s.role r).rep = none ∧
        (s.role r).sc = false) →
      let moved := (castFollower s core).getD core
      let p := physOf s moved
      ∃ u, exec (.coreMigration core cause) s = .next u ∧ carrier u moved = q ∧ u.flag (Adr.tmap (core / 4)) (16 + p % 5) = true ∧
        u.flag (Adr.uibFault (uibOfCore core)) 8 = true ∧ u.sm.due = s.sm.due.filter (fun e => e.core ≠ core.val) ∧
        u.sm.records = (if s.sm.records.length < 128 then s.sm.records ++ [(2, core / 4 + p % 5 * 32)] else s.sm.records) ∧
        u.mem = s.mem ∧ ∀ r, u.role r = (if r ∈ rolesOf core ∧ (s.role r).started = true then { s.role r with resv := none, fetchQ := [] }
          else s.role r))) ∧
  (∀ (c : Fin 8) (spare : Fin 2) (cause : Byte) (s : State),
    let core := 128 + c.val
    let p := leadPhys s c
    let due := s.sm.due.any (fun d => d.core == core && d.cause == cause.toNat) = true ∧ s.field Adr.lmap (2 * c + 1) (2 * c) ≠ 3
    (¬ due → exec (.leadMigration c spare cause) s = .next s) ∧
    (∀ k, due → freeSpare s = some k → k ≠ spare.val → exec (.leadMigration c spare cause) s = .next s) ∧
    (due → freeSpare s = none → exec (.leadMigration c spare cause) s = .next (retireNoCarrier s core cause.toNat)) ∧
    (due → freeSpare s = some spare.val → (∀ l, l ∈ s.caches → l.lead ≠ p) →
      (∀ r, r ∈ rolesOf core → (s.role r).posted = [] ∧ ((s.role r).busy = .idle ∨ (s.role r).busy = .waiting) ∧ (s.role r).rep = none) →
      ∃ u, exec (.leadMigration c spare cause) s = .next u ∧ u.field Adr.lmap (2 * c + 1) (2 * c) = 1 + spare.val ∧
        u.flag Adr.lmap (16 + p) = true ∧ domOn u (48 + spare) = true ∧ u.sm.due = s.sm.due.filter (fun e => e.core ≠ core) ∧
        u.sm.records = (if s.sm.records.length < 128 then s.sm.records ++ [(3, p)] else s.sm.records) ∧ u.mem = s.mem ∧
        ∀ r, u.role r = (if r ∈ rolesOf core ∧ (s.role r).started = true then { s.role r with resv := none, fetchQ := [] }
          else s.role r))) ∧
  (∀ (slot : PhysId) (ps : BitVec 16) (s : State),
    let p := slot.val
    let rd := fun (u : State) => Sparse.get (fun _ => []) u.sm.slackRd
    let l := (rd s p ++ [ps.toNat]).drop ((rd s p ++ [ps.toNat]).length - 16)
    let base := if p < 160 then s.field (Adr.slackbase (p / 5) (p % 5)) 15 0 else 0
    let slow := if base = 0 then 0 else min 0xFFF ((l.sum / l.length - base) * 1000 / base)
    let a := slackAdr p
    (physOn s p = false → exec (.slackReading slot ps) s = .next s) ∧
    (physOn s p = true → slow < s.sm.wear.thr ∨ carriedBy s p = none ∨ s.flag a 13 = true ∧ declinedAt s p = none →
      ∃ u, exec (.slackReading slot ps) s = .next u ∧
        u.field a 11 0 = slow ∧ u.flag a 12 = decide (l.length = 16) ∧ u.flag a 13 = decide (s.sm.wear.thr ≤ slow) ∧ rd u p = l ∧
        (∀ b, b ≠ a → u.reg b = s.reg b) ∧ (∀ q, q ≠ p → rd u q = rd s q) ∧
        { u with regs := s.regs, sm := { u.sm with slackRd := s.sm.slackRd } } = s) ∧
    (∀ core, physOn s p = true → s.sm.wear.thr ≤ slow → s.flag a 13 = false → declinedAt s p = none → carriedBy s p = some core →
      spareFree s core = true → s.sm.wear.approval = false → s.sm.due = [] →
      ∃ u, exec (.slackReading slot ps) s = .next u ∧ u.sm.due = [⟨core, 1, []⟩] ∧ u.flag a 13 = true ∧ rd u p = l) ∧
    (p ∉ s.sm.pendingRet ∨ carriedBy s p = none → exec (.retirementNoticeRepeat slot) s = .next s) ∧
    (∀ core, p ∈ s.sm.pendingRet → carriedBy s p = some core → exec (.retirementNoticeRepeat slot) s =
      .next (wearNotice s core 0x23 (if s.sm.wear.thr ≤ slowOf s p then 1 else 2))))

/-- SCRUB_WORD, CORRECTION_REWRITE, SRAM_REPAIR_COMPLETE and SHADOW_FORMAT_DONE (R378 to R380, R385, R386, R389 to R394, R398, R416).
The model's own choices in it: logs 8, 43, 52, 66. -/
def Obligations.Integrity : Prop :=
  (∀ s : State,
    let n := s.field Adr.scrubPos 7 0
    let i := s.field Adr.scrubPos 23 8
    let next := if i + 1 < arrayWords n then n + (i + 1) * 2 ^ 8 else if n < 176 then n + 1 else 0
    let last := arrayWords n ≤ i + 1 ∧ 176 ≤ n
    let moved := fun (u : State) (unc : Nat) => u.reg Adr.scrubPos = BitVec.ofNat 32 next ∧
      (last → u.field Adr.scrubPass 15 0 = min 0xFFFF (s.field Adr.scrubPass 15 0 + 1) ∧
        u.field Adr.scrubPass 31 16 = min 0xFFFF (s.scrub.unc + unc) ∧ u.scrub = ⟨0, []⟩) ∧
      (¬ last → u.reg Adr.scrubPass = s.reg Adr.scrubPass ∧ u.scrub.unc = s.scrub.unc + unc)
    let on := fun a => arrayAddr s n i = some a ∧ arrayOn s n i = true ∧ domOn s 64 = true
    (s.flag Adr.scrubCtl 0 = false → exec .scrubWord s = .next s) ∧
    (s.flag Adr.scrubCtl 0 = true → (∀ a, ¬ on a) → ∃ u, exec .scrubWord s = .next u ∧ moved u 0 ∧
      (∀ b, b ≠ Adr.scrubPos → b ≠ Adr.scrubPass → u.reg b = s.reg b) ∧ { u with regs := s.regs, scrub := s.scrub } = s) ∧
    (∀ a, s.flag Adr.scrubCtl 0 = true → on a → marked s a = true → exec .scrubWord s = .next s) ∧
    (∀ a, s.flag Adr.scrubCtl 0 = true → on a → marked s a = false →
      let c := cwAt s (a / 8)
      let mec := Adr.mecCnt (mecIndex a)
      let bad := n < 144 ∧ i % 2 = 0 ∧ Sparse.get (fun _ => false) s.tagBad (a / 16) = true
      ∃ u, exec .scrubWord s = .next u ∧ a / 8 ∉ u.fixQ ∧ (∀ k, k ≠ a / 8 → cwAt u k = cwAt s k) ∧
        (c.poison = true ∨ c.bits ≤ 3 → u.mem = s.mem) ∧
        (n < 144 → i % 2 = 0 → Sparse.get (fun _ => false) u.tagBad (a / 16) = false) ∧
        (c.poison = true → cwAt u (a / 8) = c ∧ moved u 0) ∧
        (c.poison = false → c.bits = 0 → cwAt u (a / 8) = c ∧ moved u 0) ∧
        (c.poison = false → 1 ≤ c.bits → c.bits ≤ 2 → ¬ bad → cwAt u (a / 8) = Cw.clean ∧ moved u 0 ∧
          u.field mec 15 0 = min 0xFFFF (s.field mec 15 0 + 1) ∧ u.flag (Adr.uibFault (ownerUib a)) 11 = true) ∧
        (c.poison = false → c.bits = 3 → cwAt u (a / 8) = ⟨0, true⟩ ∧ moved u 1 ∧
          u.field mec 23 16 = min 0xFF (s.field mec 23 16 + 1) ∧ u.flag (Adr.uibFault (ownerUib a)) 1 = true) ∧
        (c.poison = false → 4 ≤ c.bits → cwAt u (a / 8) = Cw.clean ∨ cwAt u (a / 8) = ⟨0, true⟩))) ∧
  (∀ s : State,
    (s.fixQ = [] → exec .correctionRewrite s = .next s) ∧
    (∀ dw rest, s.fixQ = dw :: rest → powered s (dw * 8) = false ∨ marked s (dw * 8) = true → exec .correctionRewrite s = .next s) ∧
    (∀ dw rest, s.fixQ = dw :: rest → powered s (dw * 8) = true → marked s (dw * 8) = false → ∃ u, exec .correctionRewrite s = .next u ∧
      u.fixQ = rest ∧ { u with fixQ := s.fixQ, cw := s.cw } = s ∧
      ∀ k, cwAt u k = (if k = dw ∧ (cwAt s dw).poison = false ∧ (cwAt s dw).bits ≤ 2 then Cw.clean else cwAt s k))) ∧
  (∀ (n : Fin 32) (fused : Bool) (s : State),
    let e := Adr.repEntry n
    let base := bankBase (s.field e 7 0) / 8 + (repRange s n).1
    let full := 128 ≤ s.sm.records.length
    (s.field e 23 22 ≠ 1 → exec (.sramRepairComplete n fused) s = .next s) ∧
    (s.field e 23 22 = 1 → ∃ u, exec (.sramRepairComplete n fused) s = .next u ∧
      u.field e 23 22 = (if fused = true ∧ ¬ full then 3 else 2) ∧ u.field e 21 0 = s.field e 21 0 ∧
      u.sm.records = (if full then s.sm.records else s.sm.records ++ [if fused then (1, s.field e 21 0) else (0, 0)]) ∧
      (fused = false → ¬ full → u.flag Adr.repStat 17 = true) ∧
      (s.Canonical → ∀ k, base ≤ k → k < base + (repRange s n).2 → cwAt u k = Cw.clean ∨ (cwAt u k).poison = true) ∧
      (s.cw = [] → { u with regs := s.regs, sm := { u.sm with records := s.sm.records } } = s ∧
        ∀ b, b ≠ e → b ≠ Adr.repStat → u.reg b = s.reg b))) ∧
  (∀ (w : Fin 3) (s : State),
    let gone := fun i => s.flag (Adr.cxlFail0 i) 0 = true ∧ s.field (Adr.cxlFail1 i) 15 8 = w.val + 1
    (s.flag (Adr.shdCfg w) 1 = false → exec (.shadowFormatDone w) s = .next s) ∧
    (s.flag (Adr.shdCfg w) 1 = true → ∃ u, exec (.shadowFormatDone w) s = .next u ∧ u.reg (Adr.shdCfg w) = setBit (s.reg (Adr.shdCfg w)) 1 false ∧
      { u with regs := s.regs, mem := s.mem, cw := s.cw } = s ∧
      (∀ k, byteAt u k = if formatted s w k = true then 0 else byteAt s k) ∧
      (∀ k, cwAt u k = if formatted s w (k * 8) = true then Cw.clean else cwAt s k) ∧
      (∀ i, i < 64 → gone i → u.reg (Adr.cxlFail0 i) = 0 ∧ u.reg (Adr.cxlFail1 i) = 0) ∧
      (∀ i, i < 64 → ¬ gone i → u.reg (Adr.cxlFail0 i) = s.reg (Adr.cxlFail0 i) ∧ u.reg (Adr.cxlFail1 i) = s.reg (Adr.cxlFail1 i)) ∧
      (∀ b, b ≠ Adr.shdCfg w → b ≠ Adr.cxlFailcnt → (∀ i, i < 64 → b ≠ Adr.cxlFail0 i ∧ b ≠ Adr.cxlFail1 i) → u.reg b = s.reg b)))

/-- CXL_COMPLETION, CXL_COMPLETION_TIMEOUT, CXL_LINK_ERROR and CXL_LINK_DOWN (R410 to R418).
The model's own choices in it: logs 51, 56. -/
def Obligations.CxlRequests : Prop :=
  (∀ (p : Fin 2) (n : Fin 512) (s : State) (st : CxlStatus), reqOf s p n = none →
    exec (.cxlCompletion p n st) s = .next (cxlError s p 10 none 0) ∧ exec (.cxlCompletionTimeout p n) s = .next s) ∧
  (∀ (p : Fin 2) (n : Fin 512) (s : State) (q : CxlReq), reqOf s p n = some q →
    let a := q.addr
    let ag := reqAgent (some q)
    let load : Bool := match q.who with
      | .load _ | .dropped => true
      | _ => false
    (load = true ∨ q.mate = none → exec (.cxlCompletion p n .ok) s = .next (setReq s p n none)) ∧
    (∀ m t, load = false → q.mate = some m → m < 512 → reqOf s (1 - p.val) m = some t →
      exec (.cxlCompletion p n .ok) s = .next (setReq (setReq s p n none) (1 - p.val) m (some { t with mate := none, good := true }))) ∧
    (load = true → exec (.cxlCompletion p n .poison) s = .next (endReq (poisonReceived s p a ag) p n .poison)) ∧
    (load = false → exec (.cxlCompletion p n .poison) s = .next (endReq (cxlError s p 11 (some a) ag) p n (.failed 3))) ∧
    exec (.cxlCompletion p n .error) s = .next (endReq (cxlError s p 11 (some a) ag) p n (.failed 3)) ∧
    exec (.cxlCompletionTimeout p n) s = .next (endReq (addScore (cxlError s p 8 (some a) ag) p 64) p n (.failed 4))) ∧
  (∀ (p : Fin 2) (n : Nat) (s : State) (q : CxlReq) (e : ReqEnd), reqOf s p n = some q → n < 512 → e ≠ .ok →
    let t := setReq s p n none
    let o := 1 - p.val
    let both := winOf q.addr = 2 ∧ winC s = 2 ∧ mirState s = 1 ∧ q.good = false ∧ linkUp s o = true
    let detail : Byte := match e with
      | .failed d => d
      | _ => 2
    (q.who = .dropped → endReq s p n e = t) ∧
    (∀ r, q.who = .load r → ¬ both ∨ freeReq s o = none →
      endReq s p n e = t.setRole r { s.role r with loadErr := some (detail, q.addr) }) ∧
    (∀ r m, q.who = .load r → both → freeReq s o = some m → endReq s p n e = setReq t o m (some { q with good := true })) ∧
    (q.who ≠ .dropped → (∀ r, q.who ≠ .load r) →
      (∀ m x, q.mate = some m → reqOf (mirrorLose t p) o m = some x → endReq s p n e = setReq (mirrorLose t p) o m (some { x with mate := none })) ∧
      (q.mate = none → q.good = true → endReq s p n e = mirrorLose t p) ∧
      (q.mate = none → q.good = false → endReq s p n e = failWrite t q.who q.addr))) ∧
  (∀ (s : State) (p b agent : Nat) (addr : Option Nat), p < 2 → b < 15 →
    let u := cxlError s p b addr agent
    let first := s.flag (Adr.cxlEmask p) b = false ∧ 8 ≤ b ∧ s.flag (Adr.cxlFirst p) 4 = false
    u.flag (Adr.cxlErr p) b = true ∧ (s.flag (Adr.cxlEmask p) b = true → u = s.setFlag (Adr.cxlErr p) b true) ∧
    (s.flag (Adr.cxlEmask p) b = false → u.flag (Adr.uibFault 243) 10 = true) ∧
    (first → u.field (Adr.cxlFirst p) 4 0 = b - 8 + 16 ∧ u.reg (Adr.cxlHlog p 0) = BitVec.ofNat 32 (addr.getD 0) ∧
      u.field (Adr.cxlHlog p 1) 15 0 = addr.getD 0 / 2 ^ 32 % 2 ^ 16 ∧ u.reg (Adr.cxlHlog p 2) = BitVec.ofNat 32 (agent % 1024) ∧
      u.reg (Adr.cxlHlog p 3) = metroLo s) ∧
    (¬ first → u.reg (Adr.cxlFirst p) = s.reg (Adr.cxlFirst p) ∧ ∀ k, k < 4 → u.reg (Adr.cxlHlog p k) = s.reg (Adr.cxlHlog p k))) ∧
  (∀ (s : State) (who : CxlWho) (a i : Nat), a < 2 ^ 48 → failEntry s a = none → (List.range 64).find? (fun i => !s.flag (Adr.cxlFail0 i) 0) = some i →
    let u := failWrite s who a
    u.flag (Adr.cxlFail0 i) 0 = true ∧ u.field (Adr.cxlFail0 i) 31 6 = a / 64 % 2 ^ 26 ∧ u.field (Adr.cxlFail1 i) 15 0 = a / 2 ^ 32 ∧
    (s.field Adr.cxlFailcnt 6 0 < 64 → u.field Adr.cxlFailcnt 6 0 = s.field Adr.cxlFailcnt 6 0 + 1) ∧
    (∀ r pc, who = .store r pc → r < 528 → (s.role r).started = true → coreDark s (coreOf r) = false → (s.role r).late = none →
      (u.role r).late = some ⟨1, BitVec.ofNat 48 a, some pc, none, 0⟩)) ∧
  (∀ (s : State) (p : Fin 2), winC s = 2 →
    let u := mirrorLose s p
    let st := mirState s
    let only := fun q => mirState u = 2 + q ∧ u.sm.mirrorRec = some q
    (st = 1 → only (1 - p.val)) ∧ (st = 2 + p.val → mirState u = 6) ∧ (st = 2 + (1 - p.val) → mirState u = st) ∧
    (st = 4 + p.val → only (1 - p.val)) ∧ (st = 4 + (1 - p.val) → mirState u = 6) ∧ (st ≠ 0 → st ≠ 6 → u.cxl.pos = 0)) ∧
  (∀ (s : State) (p : Fin 2),
    let u := linkDown s p
    (linkUp s p = false → u = s ∧ exec (.cxlLinkDown p) s = .next s) ∧
    (linkUp s p = true → exec (.cxlLinkDown p) s = .next (linkDown (cxlError s p 12 none 0) p)) ∧
    (linkUp s p = true → u.field (Adr.cxlLink p) 9 0 = 0 ∧ u.field (Adr.cxlLink p) 15 12 = 0 ∧ ∀ n, n < 512 → reqOf u p n = none)) ∧
  (∀ (p : Fin 2) (b : Fin 15) (req : Option (Fin 512)) (s : State),
    let q := (req.map (fun n => n.val)).bind (reqOf s p)
    let t := cxlError s p b (q.map (fun q => q.addr)) (reqAgent q)
    let health := Adr.cxlHealth p
    (b.val = 6 ∨ b.val = 7 → exec (.cxlLinkError p b req) s = .next s) ∧
    (b.val ∈ [0, 2, 3, 4, 10] → exec (.cxlLinkError p b req) s = .next t) ∧
    (b.val = 1 → ∃ u, exec (.cxlLinkError p b req) s = .next u ∧ OnlyRegs t u [health] ∧
      u.field health 31 16 = min 0xFFFF (s.field health 31 16 + 1) ∧ u.field health 15 0 = min 0xFFFF (s.field health 15 0 + 1)) ∧
    (b.val = 5 → ∃ u, exec (.cxlLinkError p b req) s = .next u ∧ u.flag (Adr.cxlLink p) 7 = true) ∧
    (∀ n, req = some n → (b.val = 8 → exec (.cxlLinkError p b req) s = .next (timeoutReq s p n)) ∧
      (b.val = 9 → exec (.cxlLinkError p b req) s = .next (endReq (addScore t p 16) p n .poison)) ∧
      (b.val = 11 → exec (.cxlLinkError p b req) s = .next (endReq t p n (.failed 3)))) ∧
    (req = none → (b.val = 8 → exec (.cxlLinkError p b req) s = .next (addScore t p 64)) ∧
      (b.val = 9 → exec (.cxlLinkError p b req) s = .next (addScore t p 16)) ∧ (b.val = 11 → exec (.cxlLinkError p b req) s = .next t)) ∧
    (b.val = 12 ∨ b.val = 14 → exec (.cxlLinkError p b req) s = .next (linkDown t p)) ∧
    (b.val = 13 → exec (.cxlLinkError p b req) s = .next
      (linkDown (cxlNotice ((addScore t p 64).setField (Adr.cxlLink p) 9 8 3) 0x37 p 0) p)))

/-- CXL_PORT_BRINGUP, CXL_LINK_TRAINED, CXL_RETRAIN_ATTEMPT, RESYNC_LINE_COPY and HEALTH_SCORE_DECAY (R403 to R409, R414, R418, R419).
The model's own choices in it: logs 47, 60, 83. -/
def Obligations.CxlLinks : Prop :=
  (∀ (p : Fin 2) (dev : Option CxlDevice) (s : State),
    let link := Adr.cxlLink p
    let t := { s with cxl := if p.val = 0 then { s.cxl with dev0 := dev } else { s.cxl with dev1 := dev } }
    let here := portExists s p = true ∧ domOn s 54 = true
    (¬ here → exec (.cxlPortBringup p dev) s = .next s) ∧
    (here → dev = none → exec (.cxlPortBringup p dev) s = .next (if linkUp s p then t else commitDecoders t true)) ∧
    (here → dev ≠ none → linkUp s p = false → exec (.cxlPortBringup p dev) s = .next t) ∧
    (∀ d, here → dev = some d → linkUp s p = true → ∃ u, exec (.cxlPortBringup p dev) s = .next u ∧ u.flag link 10 = true ∧
      u.field link 31 16 = d.cap.toNat ∧ u.field link 9 8 = (if s.flag Adr.cxlCfg 6 then 2 else 0) ∧ u.field link 7 0 = s.field link 7 0 ∧
      u.field link 15 11 = s.field link 15 11 ∧ u.reg (Adr.cxlSerl p 0) = d.serial.setWidth 32 ∧
      u.reg (Adr.cxlSerl p 1) = (d.serial >>> 32).setWidth 32)) ∧
  (∀ (p : Fin 2) (speed : Fin 4) (width : Fin 5) (s : State),
    let link := Adr.cxlLink p
    let top := s.field Adr.cxlCfg 3 2 + 1
    let full := if s.field Adr.cxlCfg 1 0 = 2 then 8 else 4
    let can := portExists s p = true ∧ domOn s 54 = true ∧ speed.val ≤ top ∧ lanes width ≤ full
    (¬ can → exec (.cxlLinkTrained p speed width) s = .next s) ∧
    (can → speed.val = 0 ∨ width.val = 0 → exec (.cxlLinkTrained p speed width) s = .next (commitDecoders s true)) ∧
    (can → speed.val ≠ 0 → width.val ≠ 0 → ∃ u, exec (.cxlLinkTrained p speed width) s = .next u ∧ linkUp u p = true ∧
      u.field link 2 1 = speed.val ∧ u.field link 6 3 = lanes width ∧ u.flag link 7 = decide (speed.val < top ∨ lanes width < full) ∧
      u.field link 15 12 = 0)) ∧
  (∀ (s : State) (alone : Bool),
    let u := commitDecoders s alone
    let cap := fun (p : Nat) => ([0, 1, 2, 3].map (fun n => if bit (s.reg (Adr.hdmCtl p n)) 14 = true ∧ s.field (Adr.hdmCtl p n) 13 12 = 0 then
      s.field (Adr.hdmMap p n) 28 16 else 0)).sum
    (decodersLegal s = false → u = s) ∧
    (decodersLegal s = true → (∀ p n, p < 2 → n < 4 → u.flag (Adr.hdmCtl p n) 15 = decoderMatched s p n ∧
        u.field (Adr.hdmCtl p n) 14 0 = s.field (Adr.hdmCtl p n) 14 0) ∧
      ∀ w, w < 2 → u.field (Adr.cxlWin w) 12 0 = cap w % 2 ^ 13 ∧
        u.flag (Adr.cxlWin w) 13 = (s.flag (Adr.cxlLink w) 10 && decide (cap w ≠ 0)))) ∧
  (∀ (p : Fin 2) (serial : Option (BitVec 64)) (s : State),
    let link := Adr.cxlLink p
    let n := s.field link 15 12
    let tries := linkUp s p = false ∧ portExists s p = true ∧ n < 3 ∧ s.flag link 11 = false ∧ s.flag link 10 = true
    let same := ∃ v, serial = some v ∧ v.setWidth 32 = s.reg (Adr.cxlSerl p 0) ∧ (v >>> 32).setWidth 32 = s.reg (Adr.cxlSerl p 1)
    (¬ tries → exec (.cxlRetrainAttempt p serial) s = .next s) ∧
    (tries → same → exec (.cxlRetrainAttempt p serial) s = .next (s.setField link 15 12 (n + 1))) ∧
    (tries → ¬ same → exec (.cxlRetrainAttempt p serial) s =
      .next (cxlNotice ((s.setField link 15 12 (n + 1)).setFlag link 11 true) 0x38 p 0))) ∧
  (∀ s : State,
    let st := mirState s
    let back := st - 4
    let o := s.cxl.pos
    (st ≠ 4 → st ≠ 5 → exec .resyncLineCopy s = .next s) ∧
    (∀ d e, st = 4 ∨ st = 5 → dpaOf s back 2 o = some d → dpaOf s (1 - back) 2 o = some e → d + 64 ≤ 2 ^ 41 → e + 64 ≤ 2 ^ 41 → ∃ u, exec .resyncLineCopy s = .next u ∧
      u.cxl = { s.cxl with pos := o + 64 } ∧ (∀ i, i < 64 → byteAt u (dpaKey back d + i) = byteAt s (dpaKey (1 - back) e + i)) ∧
      (∀ i, i < 8 → cwAt u (dpaKey back d / 8 + i) = cwAt s (dpaKey (1 - back) e / 8 + i)) ∧
      KeepsBytes s u (fun k => dpaKey back d ≤ k ∧ k < dpaKey back d + 64) ∧ u.field Adr.cxlMir 27 8 = (o + 64) / 2 ^ 20 % 2 ^ 20 ∧
      (o + 64 < winCap s 2 → mirState u = st ∧ u.sm = s.sm ∧ u.log = s.log) ∧
      (winCap s 2 ≤ o + 64 → mirState u = 1 ∧ u.sm.mirrorRec = some 2))) ∧
  (∀ s : State, ∃ u, exec .healthScoreDecay s = .next u ∧ OnlyRegs s u [Adr.cxlHealth 0, Adr.cxlHealth 1] ∧
    ∀ p, p < 2 → u.field (Adr.cxlHealth p) 15 0 = s.field (Adr.cxlHealth p) 15 0 / 2 ∧
      u.field (Adr.cxlHealth p) 31 16 = s.field (Adr.cxlHealth p) 31 16)

/-- FEED_POP, CONTEXT_FETCH, BLOCK_AGE_CHECK, HC_CONFIG, HC_FLUSH, HC_RESET, HC_FLUSH_ALL and HC_DRAIN (R426 to R434, R444, R455 to R461).
The model's own choices in it: logs 71, 72. -/
def Obligations.HcFeeds : Prop :=
  (∀ (h : Fin 2) (q : Fin 8) (s : State),
    let c := hcOf s h
    let k := q.val % 4
    let next := ((List.range 4).map (fun i => (c.turn + i) % 4)).find? (fun i => feedReady s (324 + 4 * h.val + i))
    let can := q.val / 4 = h.val ∧ hcRuns s h = true ∧ c.drain = false ∧ c.work = [] ∧ c.todo = [] ∧ next = some k
    (¬ can → exec (.feedPop h q) s = .next s) ∧
    (∀ t w, can → pop (modHc s h (fun c => { c with turn := (k + 1) % 4 })) (324 + 4 * h.val + k) = (t, some w) → w.tags / 2 % 2 = 0 →
      exec (.feedPop h q) s = .next (hcProgress (wakeProducers (modHc t h (fun c => { c with work := [⟨h.val * 0x8000 + bits w.data 30 16,
        t.metro.toNat, BitVec.ofNat 32 (bits w.data 15 0), bit w.data 31, true⟩] })) (324 + 4 * h.val + k)) h))) ∧
  (∀ (s : State) (h : Nat) (x : HcSample),
    let loc := x.chan % 0x8000
    let no := fun ring a hi lo => doSample s h x = (hcEvent (s.incField a hi lo) h 3 x.chan ring, true)
    (x.short = false → x.chan / 0x8000 ≠ h → no 0 (Adr.hcRej2 h) 15 0) ∧
    (x.short = true ∨ x.chan / 0x8000 = h → hcLimit s h ≤ loc → no 0 (Adr.hcRej2 h) 31 16) ∧
    (∀ c, x.short = true ∨ x.chan / 0x8000 = h → loc < hcLimit s h → ctxOf s h loc = some c →
      let ring := bits (cw c 0) 7 6
      let dec := bits (cw c 0) 2 1 = 2
      let badDigits := ∃ i, i < 8 ∧ 9 < bits x.value (4 * i + 3) (4 * i)
      (bit (cw c 0) 0 = false → no ring (Adr.hcRej2 h) 31 16) ∧
      (bit (cw c 0) 0 = true → x.short = true → dec → no ring (Adr.hcRej1 h) 31 16) ∧
      (bit (cw c 0) 0 = true → x.short = false → dec → badDigits → no ring (Adr.hcRej1 h) 15 0) ∧
      (bit (cw c 0) 0 = true → ¬ dec → bit (cw c 0) 3 = false → cxState c ≠ 0 → x.time ≤ cxRef c → no ring (Adr.hcRej0 h) 15 0) ∧
      (bit (cw c 0) 0 = true → ¬ dec → bit (cw c 0) 3 = true → cxState c ≠ 0 → x.short = false →
        x.time ≤ cxRef c ∨ (x.time - cxRef c) % (cw c 1).toNat ≠ 0 → no ring (Adr.hcRej0 h) 31 16))) ∧
  (∀ (c : BitVec 512) (t one : Nat) (v : Word) (alarm : Bool), (cxState c ≠ 0 → cxRef c < t) → t < 2 ^ 48 →
    let st := cxState c
    let u := (segment c t v alarm one).1
    let l := (segment c t v alarm one).2
    let per := (cw c 1).toNat
    let far := t - cxRef c
    let gap : Bool := decide (2 ^ 32 ≤ far ∨ per < far ∧ (bit (cw c 0) 3 = true ∨ per ≠ 0))
    let point : HRec := ⟨(if alarm then 1 else 0) + (if gap then 2 else 0), t, v⟩
    let dt := t - cxTa c
    let calm := alarm = false ∧ gap = false ∧ dt < 2 ^ 32
    let anchor := fun a w => cxTa u = a ∧ cw u 4 = w
    let cand := cxTp u = t ∧ cw u 6 = v
    let dp := (cw c 5).toNat
    let e : Int := (bits (cw c 0) 31 8 : Nat)
    let rise : Int := v.toInt - (cw c 4).toInt
    let lean : Int := (cw c 6).toInt - (cw c 4).toInt
    let near := (lean - e) * dt ≤ rise * dp ∧ rise * dp ≤ (lean + e) * dt
    let within := slopeLe (slopeOf c false) (rise, dt) = true ∧ slopeLe (rise, dt) (slopeOf c true) = true
    let inside := near ∧ (st = 2 ∨ within)
    let slopes := st = 2 ∨ 0 < (slopeOf c false).2 ∧ 0 < (slopeOf c true).2
    cw u 0 = cw c 0 ∧ cw u 1 = cw c 1 ∧
    (st = 0 → l = [⟨if alarm then 1 else 0, t, v⟩] ∧ cxState u = 1 ∧ anchor t v) ∧
    (st ≠ 0 → alarm = true ∨ gap = true → l.getLast? = some point ∧ cxState u = 1 ∧ anchor t v ∧ (st = 1 → l = [point]) ∧
      (2 ≤ st → (l.dropLast).getLast? = some ⟨0, cxTp c, cw c 6⟩)) ∧
    (st = 1 → calm → l = [] ∧ cxState u = 2 ∧ cand ∧ anchor (cxTa c) (cw c 4)) ∧
    (2 ≤ st → calm → 0 < dp → slopes → inside →
      l = (if bit (cw c 0) 5 then [⟨4, cxTp c, 0⟩] else []) ∧ cxState u = 3 ∧ cand ∧ anchor (cxTa c) (cw c 4)) ∧
    (2 ≤ st → calm → 0 < dp → slopes → ¬ inside → cxTp c < 2 ^ 48 →
      l.getLast? = some ⟨0, cxTp c, cw c 6⟩ ∧ cxState u = 2 ∧ cand ∧ anchor (cxTp c) (cw c 6))) ∧
  (∀ (h : Fin 2) (s : State),
    let a := Adr.hcCmd h
    let loc := s.field a 15 0 % 0x8000
    let served := s.field a 15 0 / 0x8000 = h.val ∧ loc < hcLimit s h
    let cfg := s.reg (Adr.hcCmdcfg h)
    let per := s.reg (Adr.hcCmdper h)
    let can := hcOn s h = true ∧ s.flag a 19 = false
    let calm := (hcOf s h).todo = [] ∧ (hcOf s h).work = [] ∧ (hcOf s h).drain = false
    let rsn := if bits cfg 2 1 = 2 ∧ bits cfg 31 8 ≠ 0 then 1 else if bits cfg 2 1 = 3 then 2 else if bit cfg 3 = true ∧ per = 0 then 3
      else if bit cfg 3 = true ∧ bit cfg 5 = true then 4 else if ¬ served then 5 else 0
    let x := chanOf s h loc
    (¬ can → exec (.hcConfig h) s = .next s ∧ exec (.hcFlush h) s = .next s ∧ exec (.hcReset h) s = .next s ∧ exec (.hcFlushAll h) s = .next s) ∧
    (can → rsn ≠ 0 → ∃ u, exec (.hcConfig h) s = .next u ∧ OnlyRegs s u [a] ∧ u.flag a 20 = true ∧ u.field a 23 21 = rsn ∧ u.flag a 19 = false) ∧
    (∀ c, can → calm → rsn = 0 → ctxOf s h loc = some c → cxState c ≤ 1 → x.recs = [] → ∃ u n, exec (.hcConfig h) s = .next u ∧
      ctxOf u h loc = some n ∧ cw n 0 = cfg ∧ cw n 1 = per ∧ cxState n = 0 ∧ chanOf u h loc = HcChan.reset ∧ u.flag a 19 = false ∧
      u.flag a 20 = false ∧ u.field a 23 21 = 0) ∧
    (∀ c, can → calm → served → ctxOf s h loc = some c → 2 ≤ cxState c → cxTp c < 2 ^ 48 → (hcOf s h).queue.length < 8 →
      x.recs ≠ [] ∨ halfBusy s h loc (bits (cw c 11) 16 16) = false → ∃ u e n, exec (.hcFlush h) s = .next u ∧
      (hcOf u h).queue = (hcOf s h).queue ++ [e] ∧ e.loc = loc ∧ e.half = bits (cw c 11) 16 16 ∧ e.ring = bits (cw c 0) 7 6 ∧ e.attempt = 0 ∧
      e.wrote = false ∧ e.recs.getLast? = some ⟨0, cxTp c, cw c 6⟩ ∧ (chanOf u h loc).recs = [] ∧
      (chanOf u h loc).last = some ⟨0, cxTp c, cw c 6⟩ ∧ (chanOf u h loc).seq = x.seq + 1 ∧ ctxOf u h loc = some n ∧ cxState n = 1 ∧
      cxTa n = cxTp c ∧ cw n 4 = cw c 6 ∧ bits (cw n 11) 16 16 = 1 - bits (cw c 11) 16 16) ∧
    (∀ c, can → served → ctxOf s h loc = some c → ∃ u n, exec (.hcReset h) s = .next u ∧ ctxOf u h loc = some n ∧ cxState n = 0 ∧
      cw n 0 = cw c 0 ∧ cw n 1 = cw c 1 ∧ (chanOf u h loc).recs = [] ∧ (chanOf u h loc).seq = x.seq ∧ (hcOf u h).queue = (hcOf s h).queue) ∧
    (can → ∃ t, exec (.hcFlushAll h) s = .next (hcProgress t h) ∧ (hcOf t h).todo = (hcOf s h).todo ++ enabledChans s h ∧ t.flag a 19 = true) ∧
    (can → calm → enabledChans s h = [] → ∃ u, exec (.hcFlushAll h) s = .next u ∧ u.flag a 19 = false ∧ u.flag a 20 = false) ∧
    (hcOn s h = false → exec (.hcDrain h) s = .next s) ∧
    (hcOn s h = true → calm → (hcOf s h).queue = [] → (hcOf s h).cmd = none → ∃ u, exec (.hcDrain h) s = .next u ∧ (hcOf u h).drain = true ∧
      (hcOf u h).cache = [] ∧ u.flag (Adr.hcCtl h) 2 = true)) ∧
  (∀ (h : Fin 2) (s : State),
    let sec := s.field (Adr.hcAge h) 15 0
    let old := fun (e : Nat × HcChan) => ∃ x l, e.2.recs = x :: l ∧ x.time + sec * 1000000 < s.metro.toNat
    (sec = 0 ∨ hcRuns s h = false → exec (.blockAgeCheck h) s = .next s) ∧
    (sec ≠ 0 → hcRuns s h = true → ∃ t, exec (.blockAgeCheck h) s = .next (hcProgress t h) ∧ { t with hc := s.hc } = s ∧
      ∀ i, i ∈ (hcOf t h).todo ↔ i ∈ (hcOf s h).todo ∨ ∃ e, e ∈ (hcOf s h).chans ∧ e.1 = i ∧ old e) ∧
    ((hcOf s h).work = [] ∨ hcRuns s h = false → exec (.contextFetch h) s = .next s) ∧
    (∀ x l, (hcOf s h).work = x :: l → hcRuns s h = true → x.chan % 0x8000 < hcLimit s h →
      exec (.contextFetch h) s = .next (hcProgress (fetchCtx s h (x.chan % 0x8000)) h)) ∧
    (∀ x l, (hcOf s h).work = x :: l → hcLimit s h ≤ x.chan % 0x8000 → exec (.contextFetch h) s = .next s))

/-- RING_ENABLE, RNG_CONS_WRITE, CLOSE_ENGINE_HALF, PLAYBACK_START and PLAYBACK_DONE (R446 to R454, R464).
The model's own choices in it: logs 73, 74. -/
def Obligations.HcBlocks : Prop :=
  (∀ (h : Fin 2) (ring : Fin 4) (v : Word) (s : State),
    let cfg := Adr.rngCfg h ring
    let prod := Adr.rngProd h ring
    let base := hcRingBase s h ring
    let word1 := 0x4B4E + s.field cfg 20 16 * 2 ^ 16
    let head := fun i => leNat ((List.range 4).map (fun j => byteAt s (base + 4 * i + j)))
    (ringOn s (Adr.rngCons h ring) = false → exec (.rngConsWrite h ring v) s = .next s) ∧
    (ringOn s (Adr.rngCons h ring) = true → exec (.rngConsWrite h ring v) s = .next (s.setReg (Adr.rngCons h ring) v)) ∧
    (s.flag cfg 22 = true ∨ hcOn s h = false → exec (.ringEnable h ring) s = .next s) ∧
    (s.flag cfg 22 = false → hcOn s h = true → Readable s base 8 → head 1 = word1 → ∃ u, exec (.ringEnable h ring) s = .next u ∧
      OnlyRegs s u [cfg, prod] ∧ u.reg cfg = setBit (s.reg cfg) 22 true ∧ u.reg prod = BitVec.ofNat 32 (head 0)) ∧
    (s.flag cfg 22 = false → hcOn s h = true → Readable s base 8 → head 1 ≠ word1 → Plain s base 4096 →
      (∀ i, i < 4096 → isMemory (base + i) = true ∧ storeError s (base + i) = false) → ∃ u, exec (.ringEnable h ring) s = .next u ∧
      u.reg cfg = setBit (s.reg cfg) 22 true ∧ u.reg prod = 0 ∧ (∀ a, a ≠ cfg → a ≠ prod → u.reg a = s.reg a) ∧
      (List.range 4096).map (fun i => byteAt u (base + i)) = leBytes 4 0 ++ leBytes 4 word1 ++ List.replicate 4088 0 ∧
      KeepsBytes s u (fun k => base ≤ k ∧ k < base + 4096))) ∧
  (∀ (h : Fin 2) (s : State),
    (hcRuns s h = false ∨ (hcOf s h).queue = [] → exec (.closeEngineHalf h) s = .next s) ∧
    (∀ e l, hcRuns s h = true → (hcOf s h).queue = e :: l → e.wrote = false → e.ring < 4 →
      let cfg := Adr.rngCfg h e.ring
      let prod := hcProd s h e.ring
      let slot := slotAdr s h e.ring prod
      let block := codedBlock e.info prod e.recs
      let held := (prod + 2 ^ 32 - (s.reg (Adr.rngCons h e.ring)).toNat) % 2 ^ 32
      let still := (hcOf s h).work = [] ∧ (hcOf s h).todo = [] ∧ (hcOf s h).drain = false ∧ (hcOf s h).cmd = none
      (s.flag cfg 22 = false → still → ∃ u, exec (.closeEngineHalf h) s = .next u ∧ (hcOf u h).queue = l ∧
        u.field (Adr.hcBlkerr h) 31 16 = min 0xFFFF (s.field (Adr.hcBlkerr h) 31 16 + 1) ∧ u.flag (Adr.uibFault (244 + h)) 2 = true ∧
        u.mem = s.mem) ∧
      (s.flag cfg 22 = true → s.flag cfg 21 = true → hcSlots s h e.ring < held + closeParts e →
        ((hcOf s h).holdWait = true → exec (.closeEngineHalf h) s = .next s) ∧
        ((hcOf s h).holdWait = false → exec (.closeEngineHalf h) s =
          .next (hcEvent (modHc s h (fun c => { c with holdWait := true })) h 4 e.info.chan e.ring))) ∧
      (s.flag cfg 22 = true → s.flag cfg 21 = false → still → l = [] → e.attempt = 0 → e.recs ≠ [] → prod < 2 ^ 32 - 1 →
        block.length = 4096 → blockGood block = true → blockRecs block = e.recs → s.hcFail = [] → hcOutstanding s h e.ring = false →
        Readable s (halfAdr s h e.loc e.half) (12 * e.recs.length) → Readable s slot 4096 → Readable s (hcRingBase s h e.ring) 4096 →
        (∀ i, i < 4096 → isMemory (slot + i) = true ∧ storeError s (slot + i) = false ∧ isMemory (hcRingBase s h e.ring + i) = true ∧
          storeError s (hcRingBase s h e.ring + i) = false) →
        ∃ u, exec (.closeEngineHalf h) s = .next u ∧ (hcOf u h).queue = [] ∧ u.reg (Adr.rngProd h e.ring) = BitVec.ofNat 32 (prod + 1) ∧
          (List.range 4096).map (fun i => byteAt u (slot + i)) = block ∧
          (List.range 4).map (fun i => byteAt u (hcRingBase s h e.ring + i)) = leBytes 4 (prod + 1) ∧
          u.reg (Adr.hcBlks h) = s.reg (Adr.hcBlks h) + 1 ∧
          KeepsBytes s u (fun k => slot ≤ k ∧ k < slot + 4096 ∨ hcRingBase s h e.ring ≤ k ∧ k < hcRingBase s h e.ring + 4)))) ∧
  (∀ (h : Fin 2) (s : State),
    let ctl := Adr.pbCtl h
    let a := s.field (Adr.pbDescl h) 31 6 * 64 + s.field (Adr.pbDesch h) 15 0 * 2 ^ 32
    (hcOn s h = false ∨ s.flag ctl 1 = true → exec (.playbackStart h) s = .next s) ∧
    (hcOn s h = true → s.flag ctl 1 = false → Readable s a 64 → ∃ u, exec (.playbackStart h) s = .next u ∧
      (hcOf u h).play = some ((List.range 64).map (fun i => byteAt s (a + i))) ∧ u.flag ctl 1 = true ∧ u.reg (Adr.pbSkip h) = 0 ∧
      u.reg (Adr.pbCnt h) = 0 ∧ OnlyRegs s { u with hc := s.hc } [ctl, Adr.pbSkip h, Adr.pbCnt h]) ∧
    ((hcOf s h).play = none ∨ hcOn s h = false → exec (.playbackDone h) s = .next s) ∧
    (∀ d, (hcOf s h).play = some d → hcOn s h = true →
      let ask : PlayAsk := ⟨at_ d 12 6, at_ d 18 6, at_ d 24 4⟩
      let acc := (List.range (at_ d 8 4)).foldl (fun acc i => playOne h (at_ d 0 1 % 4) (at_ d 2 2) (at_ d 28 6) (at_ d 36 4) ask acc
        ((at_ d 4 4 + i) % 2 ^ 32)) ⟨s, 0, none, [], false⟩
      ∃ u, exec (.playbackDone h) s = .next u ∧ u.mem = acc.s.mem ∧ u.reg (Adr.pbCnt h) = BitVec.ofNat 32 acc.count ∧
        u.flag ctl 1 = false ∧ u.flag ctl 2 = true ∧ u.flag ctl 3 = acc.s.flag ctl 3 ∧ u.reg (Adr.pbSkip h) = acc.s.reg (Adr.pbSkip h) ∧
        (hcOf u h).play = none ∧ (hcOf u h).queue = (hcOf acc.s h).queue))

/-- The rows SERIAL_* , CTS_ASSERT and CAN_ERROR_STATE_CHANGE (R593 to R596, R601, R665). The model's own choices in it: log 61. -/
def Obligations.Serial : Prop :=
  (∀ (ch : Fin 18) (v : Word) (s : State),
    let c := serOf s ch
    let cfg := s.reg (Adr.serCfg ch)
    let mode := serMode s ch
    let b : Byte := BitVec.ofNat 8 (bits v 7 0 % (if mode ≤ 1 ∧ bit cfg 7 = true then 128 else 256))
    let on := ringOn s (Adr.serTx ch) = true ∧ c.fifo.length < 64
    let free := serOn s ch = true ∧ c.line = none ∧ ctsOk s ch = true
    let row := exec (.serialTxWrite ch v) s
    let puts := fun (x : SerCh) => Host.Outcome.next (setSer s ch x)
    let started := fun (x : SerCh) => Host.Outcome.next (serEvent (setSer s ch x) ch 2 0 (serPayload s ch 0 0))
    let more := c.closed = false ∧ c.drop = false ∧ c.fifo = [] ∧ c.frame.length < (if mode = 3 then 64 else 4096)
    (ringOn s (Adr.serTx ch) = false → row = .next s) ∧
    (ringOn s (Adr.serTx ch) = true → 64 ≤ c.fifo.length → row = .next (s.setFlag (Adr.serStat ch) 16 true)) ∧
    (on → mode ≤ 1 → bit v 9 = true → row = .next s) ∧
    (on → mode ≤ 1 → bit v 9 = false → mode = 0 ∨ ¬ free → row = puts { c with fifo := c.fifo ++ [(b, false)] }) ∧
    (on → mode = 1 → bit v 9 = false → free → c.fifo = [] → row = started { c with line := some [b], lineHop := 0 }) ∧
    (∀ x rest, on → mode = 1 → bit v 9 = false → free → c.fifo = x :: rest →
      row = puts { c with fifo := rest ++ [(b, false)], line := some [x.1], lineHop := 0 }) ∧
    (on → 2 ≤ mode → bit v 9 = false → serOn s ch = true → more → bit v 8 = false → row = puts { c with frame := c.frame ++ [b] }) ∧
    (on → mode = 2 → bit v 9 = false → free → more → bit v 8 = true → bit cfg 3 = false →
      row = started { c with line := some (c.frame ++ [b]), lineHop := 0, frame := [], held := false, hop := 0 }) ∧
    (on → mode = 2 → bit v 9 = false → serOn s ch = true → more → bit v 8 = true → bit cfg 3 = true →
      row = puts { c with frame := c.frame ++ [b], closed := true, held := true, hop := 0 }) ∧
    (on → 2 ≤ mode → bit v 9 = true → ∃ l m, c.fifo = l ++ m ∧ (∀ x, x ∈ m → x.2 = false) ∧ (∀ x, l.getLast? = some x → x.2 = true) ∧
      row = puts { c with fifo := l, frame := if c.closed then c.frame else [], drop := c.closed && c.drop })) ∧
  (∀ (ch : Fin 18) (s : State),
    let c := serOf s ch
    let uart := serMode s ch = 1
    let next := { c with line := none, lineHop := 0 }
    (c.line = none ∨ ringOn s (Adr.serCfg ch) = false → exec (.serialTxComplete ch) s = .next s) ∧
    (∀ f, c.line = some f → ringOn s (Adr.serCfg ch) = true →
      (uart ∧ c.fifo ≠ [] → exec (.serialTxComplete ch) s = .next (txKick (setSer s ch next) ch)) ∧
      (¬ (uart ∧ c.fifo ≠ []) → exec (.serialTxComplete ch) s =
        .next (txKick (serEvent (setSer s ch next) ch 3 c.lineHop (serPayload s ch f.length 0)) ch)))) ∧
  (∀ (ch : Fin 18) (b : Byte) (flags : BitVec 3) (s : State),
    let c := serOf s ch
    let full := 64 ≤ rxBytes c.rx
    let stopped := s.flag (Adr.serRxq ch) 9 = false ∨ ringOn s (Adr.serCfg ch) = false
    let w : Word := BitVec.ofNat 32 (b.toNat % (if s.flag (Adr.serCfg ch) 7 then 128 else 256) + flags.toNat * 2 ^ 16 + (if c.lost then 2 ^ 19 else 0))
    let kept := { c with rx := c.rx ++ [PushW.word w 1], lost := false }
    let n := rxBytes kept.rx
    let lostOne := fun (u : State) => u.field (Adr.serCnt ch) 15 0 = min 0xFFFF (s.field (Adr.serCnt ch) 15 0 + 1) ∧
      u.flag (Adr.serStat ch) 17 = true ∧ serOf u ch = { c with lost := true }
    (rxOn s ch = false ∨ serMode s ch ≠ 1 → exec (.serialRxByte ch b flags) s = .next s) ∧
    (rxOn s ch = true → serMode s ch = 1 → full → ∃ u, exec (.serialRxByte ch b flags) s = .next u ∧ lostOne u) ∧
    (rxOn s ch = true → full → ∃ u, exec (.serialRxOverrun ch) s = .next u ∧ lostOne u) ∧
    (rxOn s ch = false ∨ ¬ full → exec (.serialRxOverrun ch) s = .next s) ∧
    (rxOn s ch = true → serMode s ch = 1 → ¬ full → stopped → ∃ u, exec (.serialRxByte ch b flags) s = .next u ∧
      serOf u ch = { kept with rts := if 56 ≤ n then true else if n ≤ 48 then false else c.rts } ∧
      u.xevOf (0x100 + ch.val * 8) = (serEvent s ch 0 0 (serPayload s ch 1 0)).xevOf (0x100 + ch.val * 8) ∧
      (bit flags 0 = true ∨ bit flags 1 = true → u.field (Adr.serCnt ch) 31 16 = min 0xFFFF (s.field (Adr.serCnt ch) 31 16 + 1) ∧
        u.flag (Adr.serStat ch) 18 = true) ∧ (bit flags 0 = false → bit flags 1 = false → u.regs = s.regs))) ∧
  (∀ (ch : Fin 18) (f : RxFrame) (s : State),
    let c := serOf s ch
    let can : Bool := serMode s ch == 3
    let q := s.field (Adr.serRxq ch) 8 0
    let data := if f.rtr then [] else f.data
    let head : Word := BitVec.ofNat 32 (partHeader f c.lost true true data.length)
    let tail : PushW := .done (leBytes 2 data.length ++ [BitVec.ofNat 8 (partHeader f c.lost true true 0 / 2 ^ 13 % 16), 0] ++ leBytes 2 q)
    let pkt := s.flag (Adr.serCfg ch) 11 = true
    let all := c.rx ++ (if pkt then [PushW.opn] else []) ++ [PushW.word head 0] ++ (if can then [PushW.word f.canId 0] else []) ++ packWords 30 data ++
      (if pkt then [PushW.cls] else []) ++ [tail]
    (rxOn s ch = false ∨ serMode s ch ≤ 1 ∨ can = true ∧ canAccepts s ch f.canId = false → exec (.serialRxFrame ch f) s = .next s) ∧
    (rxOn s ch = true → 2 ≤ serMode s ch → (can = true → canAccepts s ch f.canId = true) → data.length ≤ 120 → rxBytes all ≤ 64 → f.err = false →
      s.flag (Adr.serRxq ch) 9 = false → exec (.serialRxFrame ch f) s = .next (setRts (setSer s ch { c with lost := false, rx := all }) ch))) ∧
  (∀ (s : State) (ch n : Nat) (w : Word) (rest : List PushW),
    let q := s.field (Adr.serRxq ch) 8 0
    let ready := pushReady s q (0x300 + ch) = true
    (domOn s (queueDomain q) = true → ready → drainRx s ch (.word w n :: rest) = drainRx (push s q (0x300 + ch) w false) ch rest) ∧
    (domOn s (queueDomain q) = true → ¬ ready → drainRx s ch (.word w n :: rest) = setSer s ch { serOf s ch with rx := .word w n :: rest })) ∧
  (∀ (ch : Fin 18) (s : State),
    let c := serOf s ch
    let cue := fun k => s.cinOf (0x500 + ch.val * 4 + k) ≠ none ∧ ringOn s (Adr.serCfg ch) = true
    let taken := fun k (x : SerCh) => setSer (clearCin s (0x500 + ch.val * 4 + k)) ch x
    let quiet := s.flag (Adr.serRxq ch) 9 = false
    (¬ cue 0 → exec (.serialFlushRx ch) s = .next s) ∧ (¬ cue 1 → exec (.serialFlushTx ch) s = .next s) ∧
    (¬ cue 2 → exec (.serialReleaseFrame ch) s = .next s) ∧
    (cue 0 → quiet → c.rx.any (· == .cls) = false → exec (.serialFlushRx ch) s = .next (taken 0 { c with rx := [], rts := false })) ∧
    (cue 1 → exec (.serialFlushTx ch) s = .next (taken 1 { c with fifo := [], frame := [], closed := false, held := false, drop := false })) ∧
    (cue 2 → c.held = false → exec (.serialReleaseFrame ch) s = .next (clearCin s (0x502 + ch.val * 4))) ∧
    (∀ x, cue 2 → s.cinOf (0x502 + ch.val * 4) = some x → c.held = true → exec (.serialReleaseFrame ch) s =
      .next (txKick (taken 2 { c with held := false, hop := BitVec.ofNat 4 (min 15 (x.hop.toNat + 1)) }) ch))) ∧
  (∀ (ch : Fin 18) (st : CanState) (s : State),
    let off : Bool := st == .busOff
    let e := fun s k => serEvent s ch k 0 (serPayload s ch 0 0)
    let t := s.setFlag (Adr.serStat ch) 19 off
    (serPad s ch 3 = none → exec (.ctsAssert ch) s = .next s) ∧
    (∀ p, serPad s ch 3 = some p → s.flag (Adr.padCtl p) 5 = false → exec (.ctsAssert ch) s = .next (txKick s ch)) ∧
    (∀ p, serPad s ch 3 = some p → s.flag (Adr.padCtl p) 5 = true → exec (.ctsAssert ch) s = .next (padEdge s p false)) ∧
    (serOn s ch = false ∨ serMode s ch ≠ 3 → exec (.canErrorStateChange ch st) s = .next s) ∧
    (serOn s ch = true → serMode s ch = 3 → exec (.canErrorStateChange ch st) s = .next (e (if off then e t 6 else t) 7)))

/-- The rows PULSE_* , BANK_VIO_LOSS and BANK_VIO_RETURN (R579, R597, R601, R649). The model's own choices in it: log 62. -/
def Obligations.Pulse : Prop :=
  (∀ (u : Fin 8) (clocks : Word) (s : State),
    let x := pulseOf s u
    let cnt := Adr.puCnt u
    let runs := fun m => s.flag (Adr.puCtl u) 2 = true ∧ s.field (Adr.puCtl u) 1 0 = m ∧ ringOn s (Adr.puCtl u) = true
    let ev := fun (t : State) e (v : Word) => raiseEvent t (0x200 + u.val * 16 + e) x.hop (leBytes 4 v.toNat ++ [0, 0]) none
    let n := s.reg cnt + 1
    (¬ runs 1 → exec (.pulsePeriodEnd u) s = .next s) ∧
    (runs 1 → exec (.pulsePeriodEnd u) s =
      .next (ev ((setPulse s u { x with per := s.reg (Adr.puPer u), duty := s.reg (Adr.puDuty u) }).setReg cnt 0) 0 (s.reg (Adr.puCap u)))) ∧
    (¬ runs 2 → ¬ runs 3 → exec (.pulseCaptureEdge u clocks) s = .next s) ∧
    (runs 2 → ∃ t v, exec (.pulseCaptureEdge u clocks) s = .next (ev { v with freeNext := s.freeNext + 1 } 1 clocks) ∧
      OnlyRegs s v [Adr.puCap u, Adr.puCapt u, cnt] ∧ v.reg (Adr.puCap u) = clocks ∧ v.reg (Adr.puCapt u) = t ∧ v.reg cnt = 0 ∧
      (t = metroLo s ∨ t = metroLo s - 1)) ∧
    (runs 3 → n.toNat < x.per.toNat → exec (.pulseCaptureEdge u clocks) s = .next (s.setReg cnt n)) ∧
    (runs 3 → x.per.toNat ≤ n.toNat → exec (.pulseCaptureEdge u clocks) s = .next (ev (s.setReg cnt 0) 2 x.per)) ∧
    (runs 3 → x.per.toNat ≤ (s.reg cnt).toNat + 1 → exec (.pulseCountMatch u) s = .next (ev (s.setReg cnt 0) 2 x.per)) ∧
    (¬ runs 3 ∨ (s.reg cnt).toNat + 1 < x.per.toNat → exec (.pulseCountMatch u) s = .next s) ∧
    (¬ runs 2 → exec (.pulseCaptureTimeout u) s = .next s) ∧
    (runs 2 → exec (.pulseCaptureTimeout u) s = .next (ev (s.setFlag (Adr.puStat u) 1 true) 3 (s.reg (Adr.puCap u))))) ∧
  (∀ (u : Fin 8) (s : State),
    let x := pulseOf s u
    let cin := fun k => s.cinOf (0x560 + u.val * 4 + k)
    let on := ringOn s (Adr.puCtl u) = true
    let t := fun k => clearCin s (0x560 + u.val * 4 + k)
    let loaded := fun (s : State) hop => setPulse s u ⟨s.reg (Adr.puPer u), s.reg (Adr.puDuty u), hop⟩
    (cin 0 = none ∨ ¬ on → exec (.pulseStart u) s = .next s) ∧ (cin 1 = none ∨ ¬ on → exec (.pulseStop u) s = .next s) ∧
    (cin 2 = none ∨ ¬ on → exec (.pulseClear u) s = .next s) ∧ (cin 3 = none ∨ ¬ on → exec (.pulseLoad u) s = .next s) ∧
    (∀ c, cin 0 = some c → on →
      let hop := BitVec.ofNat 4 (min 15 (c.hop.toNat + 1))
      let started := loaded ((t 0).setFlag (Adr.puCtl u) 2 true) hop
      exec (.pulseStart u) s = .next (if s.field (Adr.puCtl u) 1 0 = 3 then started else started.setReg (Adr.puCnt u) 0)) ∧
    (cin 1 ≠ none → on → exec (.pulseStop u) s = .next ((t 1).setFlag (Adr.puCtl u) 2 false)) ∧
    (cin 2 ≠ none → on → exec (.pulseClear u) s = .next ((t 2).setReg (Adr.puCnt u) 0)) ∧
    (cin 3 ≠ none → on → exec (.pulseLoad u) s = .next (loaded (t 3) x.hop))) ∧
  (∀ (b : Fin 4) (s : State),
    (∃ u, exec (.bankVioLoss b) s = .next u ∧ { u with regs := s.regs, vioOff := s.vioOff } = s ∧
      (∀ i, i < 4 → u.vioOff.getLsbD i = (s.vioOff.getLsbD i || decide (i = b.val))) ∧
      (∀ p, p < 192 → u.reg (Adr.padCtl p) = if p / 48 = b.val then setBit (s.reg (Adr.padCtl p)) 5 false else s.reg (Adr.padCtl p)) ∧
      ∀ a, (∀ p, p < 192 → a ≠ Adr.padCtl p) → u.reg a = s.reg a) ∧
    (∃ u, exec (.bankVioReturn b) s = .next u ∧ { u with vioOff := s.vioOff } = s ∧
      ∀ i, i < 4 → u.vioOff.getLsbD i = (s.vioOff.getLsbD i && decide (i ≠ b.val))))

/-- ADC_GO, ADC_TRIGGER, ADC_CONVERSION_DONE and PAD_INPUT_EDGE (R281, R589, R590, R598 to R601, R649).
The model's own choices in it: log 63. -/
def Obligations.AdcAndPads : Prop :=
  (∀ (a : Fin 4) (s : State),
    let ctl := Adr.adcCtl a
    let stat := Adr.adcStat a
    let runs := s.flag stat 0
    let on := ringOn s ctl = true ∧ s.flag ctl 0 = true
    (¬ on → exec (.adcGo a) s = .next s ∧ exec (.adcTrigger a) s = .next s) ∧
    (on → runs = false → ∃ u, exec (.adcGo a) s = .next u ∧ OnlyRegs s { u with adc := s.adc } [stat] ∧ u.flag stat 0 = true ∧
      u.field stat 15 8 = 0 ∧ adcOf u a = ⟨0, none⟩) ∧
    (on → runs = true → exec (.adcGo a) s = .next (adcEvent (s.incField stat 15 8) a 2 0 0)) ∧
    (runs = true ∨ s.cinOf (0x300 + a) = none → exec (.adcTrigger a) s = .next s) ∧
    (on → runs = false → s.cinOf (0x300 + a) ≠ none →
      exec (.adcTrigger a) s = .next ((setAdc (clearCin s (0x300 + a)) a ⟨0, none⟩).setFlag stat 0 true))) ∧
  (∀ (a : Fin 4) (code : BitVec 12) (s : State),
    let x := adcOf s a
    let n := code.toNat
    let stat := Adr.adcStat a
    let ain := s.field (Adr.adcSeq a) (4 * x.rank + 3) (4 * x.rank)
    let win := s.reg (Adr.cmpWin ain)
    let cmp := Adr.cmpStat ain
    let bad := n < bits win 11 0 ∨ bits win 27 16 < n
    let begins := bit win 31 = true ∧ bad ∧ s.flag cmp 0 = false
    let len := s.field (Adr.adcCtl a) 3 1
    let on := s.flag stat 0 = true ∧ x.wait = none ∧ ringOn s (Adr.adcCtl a) = true
    (¬ on → exec (.adcConversionDone a code) s = .next s) ∧
    (on → x.rank < 8 → s.flag (Adr.adcQ a) 9 = false → ∃ u, exec (.adcConversionDone a code) s = .next u ∧
      u.reg (Adr.adcRes a x.rank) = BitVec.ofNat 32 (n + ain * 2 ^ 12 + 2 ^ 16) ∧
      (bit win 31 = true → (u.flag cmp 0 = true ↔ bad)) ∧ (bit win 31 = false → u.reg cmp = s.reg cmp) ∧
      (bit win 31 = true → u.field cmp 15 8 = if begins then min 0xFF (s.field cmp 15 8 + 1) else s.field cmp 15 8) ∧
      (u.xevOf (0x2A0 + ain)).count = (s.xevOf (0x2A0 + ain)).count + (if begins then 1 else 0) ∧
      u.xevOf (0x281 + a.val * 8) = (adcEvent s a 1 n ain).xevOf (0x281 + a.val * 8) ∧
      (x.rank < len → adcOf u a = ⟨x.rank + 1, none⟩ ∧ u.flag stat 0 = true) ∧
      (len ≤ x.rank → adcOf u a = ⟨0, none⟩ ∧ u.flag stat 0 = (s.flag (Adr.adcCtl a) 4 && s.flag (Adr.adcCtl a) 0) ∧
        (u.xevOf (0x280 + a.val * 8)).count = (s.xevOf (0x280 + a.val * 8)).count + 1))) ∧
  (∀ (p : Fin 192) (level : Bool) (s : State),
    let ctl := Adr.padCtl p
    let w := s.reg ctl
    let sees := s.vioOff.getLsbD (p / 48) = false ∧ ringOn s ctl = true ∧ bit w 5 ≠ level
    let counts := level = true ∧ bit w 7 = true ∨ level = false ∧ bit w 8 = true
    let cts := padFunc s p = 1 ∧ p.val % 4 = 3 ∧ level = false
    (¬ sees → exec (.padInputEdge p level) s = .next s) ∧
    (sees → ¬ cts → ¬ counts → exec (.padInputEdge p level) s = .next (s.setFlag ctl 5 level)) ∧
    (sees → ¬ cts → counts → ∃ t, exec (.padInputEdge p level) s =
      .next (raiseEvent t (0x300 + p) 0 [if level then 1 else 0, 0, 0, 0, 0, 0] none) ∧ OnlyRegs s t [ctl] ∧
      t.flag ctl 5 = level ∧ t.field ctl 31 16 = (bits w 31 16 + 1) % 2 ^ 16 ∧ t.field ctl 4 0 = bits w 4 0 ∧ t.field ctl 15 6 = bits w 15 6) ∧
    (sees → cts → ¬ counts → exec (.padInputEdge p level) s = .next (txKick (s.setFlag ctl 5 level) (padUnit s p))))

/-- The rows MAILBOX_*, SPI_* and SET1_DOORBELL (R470 to R477). The model's own choices in it: log 93. -/
def Obligations.MailboxPorts : Prop :=
  let byteOf := fun (u : State) (j : Nat) => Sparse.get (fun _ => (0 : Byte)) u.sm.slotBytes j
  let err := fun (s u : State) (b : Nat) => { u with sm := { u.sm with mbErr := s.sm.mbErr } } = s ∧ mbErr u 0 = setBit (mbErr s 0) b true ∧
    ∀ k, k ≠ 0 → mbErr u k = mbErr s k
  (∀ (link : Bool) (mask : Byte) (s : State),
    let set := portSet link
    let hit := fun (n : Nat) (v : Nat → Bool) => mask.getLsbD n && v (slotState s set n)
    (portsAnswer s = false → exec (.mailboxRing link mask) s = .next s ∧ exec (.mailboxFree link mask) s = .next s) ∧
    (portsAnswer s = true → s.flag Adr.smStat 2 = false → exec (.mailboxRing link mask) s = .next s) ∧
    (portsAnswer s = true → s.flag Adr.smStat 2 = true → ∃ u, exec (.mailboxRing link mask) s = .next u ∧
      { u with sm := { u.sm with slotState := s.sm.slotState, rung := s.sm.rung, mbErr := s.sm.mbErr } } = s ∧
      (∀ k n, n < 8 → slotState u k n = if k = set ∧ hit n (· == 0) = true then 1 else slotState s k n) ∧
      u.sm.rung = s.sm.rung ++ ((List.range 8).filter (fun n => hit n (· == 0))).map (fun n => set * 8 + n) ∧
      mbErr u set = (if (List.range 8).any (fun n => hit n (· != 0)) then setBit (mbErr s set) 1 true else mbErr s set) ∧
      ∀ k, k ≠ set → mbErr u k = mbErr s k) ∧
    (portsAnswer s = true → ∃ u, exec (.mailboxFree link mask) s = .next u ∧ { u with sm := { u.sm with slotState := s.sm.slotState } } = s ∧
      ∀ k n, n < 8 → slotState u k n = if k = set ∧ hit n (· == 3) = true then 0 else slotState s k n)) ∧
  (∀ (a : BitVec 16) (l : List Byte) (b0 b1 b2 b3 : Byte) (s : State),
    let row := fun (l : List Byte) => exec (.spiWrite a l) s
    let one := row [b0, b1, b2, b3]
    let w : Word := BitVec.ofNat 32 (leNat [b0, b1, b2, b3])
    let on := portsAnswer s = true ∧ a.toNat % 4 = 0
    let off := a.toNat
    exec (.spiQwrite a l) s = row l ∧
    (portsAnswer s = false → row l = .next s) ∧
    (portsAnswer s = true → a.toNat % 4 ≠ 0 → ∃ u, row l = .next u ∧ err s u 5) ∧
    (on → row [] = .next s ∧ ∀ l, l = [b0] ∨ l = [b0, b1] ∨ l = [b0, b1, b2] → ∃ u, row l = .next u ∧ err s u 3) ∧
    (on → ∃ u, one = .next u ∧ row (b0 :: b1 :: b2 :: b3 :: l) = exec (.spiWrite (a + 4) l) u) ∧
    (on → off < 0x800 → slotState s 0 (off / 256) = 0 → ∃ u, one = .next u ∧
      { u with sm := { u.sm with slotBytes := s.sm.slotBytes } } = s ∧
      ∀ j, byteOf u j = if off ≤ j ∧ j < off + 4 then [b0, b1, b2, b3].getD (j - off) 0 else byteOf s j) ∧
    (on → off < 0x800 → slotState s 0 (off / 256) ≠ 0 → ∃ u, one = .next u ∧ err s u 0) ∧
    (on → off = 0x800 → one = exec (.mailboxRing false b0) s) ∧ (on → off = 0x808 → one = exec (.mailboxFree false b0) s) ∧
    (on → off = 0x80C → ∃ u, one = .next u ∧ { u with sm := { u.sm with mbIrq := s.sm.mbIrq } } = s ∧ mbIrq u 0 = w &&& 0x1FF ∧
      ∀ k, k ≠ 0 → mbIrq u k = mbIrq s k) ∧
    (on → off = 0x810 → ∃ u, one = .next u ∧ { u with sm := { u.sm with mbErr := s.sm.mbErr } } = s ∧ mbErr u 0 = mbErr s 0 &&& ~~~w ∧
      ∀ k, k ≠ 0 → mbErr u k = mbErr s k) ∧
    (on → (off = 0x804 ∨ 0x814 ≤ off) → one = .next s)) ∧
  (∀ (a : BitVec 16) (n : Fin 1024) (s : State),
    let on := portsAnswer s = true ∧ a.toNat % 4 = 0
    exec (.spiQread a n) s = exec (.spiRead a n) s ∧
    ∃ u, exec (.spiRead a n) s = .next u ∧ { u with sm := { u.sm with spiOut := s.sm.spiOut, mbErr := s.sm.mbErr } } = s ∧
      u.sm.spiOut.length = 4 * n.val ∧
      (portsAnswer s = true → a.toNat % 4 ≠ 0 → err s { u with sm := { u.sm with spiOut := s.sm.spiOut } } 5) ∧
      (portsAnswer s = false ∨ a.toNat % 4 = 0 → u.sm.mbErr = s.sm.mbErr) ∧
      (¬ on → ∀ j, u.sm.spiOut.getD j 0 = 0) ∧
      (on → ∀ i, i < n.val →
        let off := (a.toNat + 4 * i) % 2 ^ 16
        let w : Word := BitVec.ofNat 32 (leNat ((u.sm.spiOut.drop (4 * i)).take 4))
        (off < 0x800 → ∀ j, j < 4 → u.sm.spiOut.getD (4 * i + j) 0 = if slotState s 0 (off / 256) = 2 then 0 else byteOf s (off + j)) ∧
        (off = 0x804 → (∀ m, m < 8 → slotState s 0 m < 4) → (∀ m, m < 8 → bits w (2 * m + 1) (2 * m) = slotState s 0 m) ∧ bits w 31 16 = 0) ∧
        (off = 0x808 → (∀ m, m < 8 → bit w m = decide (slotState s 0 m = 3)) ∧ bits w 31 8 = 0) ∧
        (off = 0x80C → w = mbIrq s 0) ∧ (off = 0x810 → w = mbErr s 0) ∧
        (off = 0x814 → sessionCount s < 8 → bits w 15 0 = 0x7160 ∧ bits w 18 16 = sessionCount s ∧ bits w 30 19 = 0 ∧
          bit w 31 = s.flag Adr.smStat 2) ∧
        (off = 0x800 ∨ 0x818 ≤ off → w = 0))) ∧
  (∀ (b : Byte) (s : State),
    let known := b ∈ [(0x02 : Byte), 0x32, 0x0B, 0x6B, 0x05, 0xAB]
    (∃ v : Byte, exec .spiStatus s = .next { s with sm := { s.sm with spiOut := [v] } } ∧
      (portsAnswer s = false → v = 0) ∧
      (portsAnswer s = true → (v.getLsbD 0 = true ↔ ∃ n, n < 8 ∧ slotState s 0 n = 3) ∧ (v.getLsbD 1 = true ↔ ∃ n, n < 8 ∧ slotState s 0 n = 0) ∧
        v.getLsbD 2 = decide (mbErr s 0 ≠ 0) ∧ v.getLsbD 7 = s.flag Adr.smStat 2 ∧ v.toNat / 8 % 16 = 0)) ∧
    (known ∨ portsAnswer s = false → exec (.spiBadInstruction b) s = .next s) ∧
    (¬ known → portsAnswer s = true → ∃ u, exec (.spiBadInstruction b) s = .next u ∧ err s u 2)) ∧
  (∀ (k : Fin 4) (s : State) (g : Stage) (rest : List Stage),
    let q := 320 + k.val
    let ready := smRuns s = true ∧ popReady s q = true ∧ ∀ j, j < k.val → popReady s (320 + j) = false
    let calm := (∀ ch, ch < 18 → (serOf s ch).rx = []) ∧ ∀ c, c < 4 → (adcOf s c).wait = none
    let row := exec (.set1Doorbell k) s
    let w := g.data
    let n := bits w 2 0
    let a := 0x33FF800 + n * 0x100
    let t := s.setQueue q { s.queue q with stages := rest }
    let good := bits w 15 3 = 0 ∧ s.flag (Adr.mb1Own n) 16 = true
    let idle := s.sm.cmdWait = none ∧ s.field Adr.mb1State 7 0 = 0
    let seq := (byteAt s (a + 2)).toNat + 256 * (byteAt s (a + 3)).toNat
    (¬ ready → row = .next s) ∧
    (ready → calm → (s.queue q).stages = g :: rest → g.err = 0 →
      (¬ good → row = .next (t.incField Adr.mb1Err 15 0)) ∧
      (good → s.flag Adr.mb1State n = true → row = .next (t.incField Adr.mb1Err 31 16)) ∧
      (good → s.flag Adr.mb1State n = false → ¬ idle → row = .next s) ∧
      (good → idle → Readable s a 256 → seq ≠ bits w 31 16 → row = .next (t.incField Adr.mb1Err 15 0)) ∧
      (good → idle → Readable s a 256 → seq = bits w 31 16 → ∃ u, row = .next u ∧ OnlyRegs t { u with sm := s.sm } [Adr.mb1State] ∧
        u.reg Adr.mb1State = setBit (s.reg Adr.mb1State) n true ∧ { u.sm with slotBytes := s.sm.slotBytes } = s.sm ∧
        ∀ j, byteOf u j = if 256 * (8 + n) ≤ j ∧ j < 256 * (8 + n) + 256 then byteAt s (a + (j - 256 * (8 + n))) else byteOf s j)))

/-- SM_WARM_RESET, OPEN_EXPIRY, SESSION_IDLE_TIMEOUT, JOB_COMPLETE, JOB_EXPIRY, LOCKOUT_EXPIRY, DARK_AUTO_RESTART, VID_STEP, POWER_RECONCILE,
DOMAIN_ON_COMPLETE and HOUSE_WATCHDOG_SERVICE (R53, R382, R466, R482, R486, R489, R491, R498, R522, R540, R636).
The model's own choices in it: logs 5, 91, 103. -/
def Obligations.ManagerTimed : Prop :=
  (∀ (cause : WarmCause) (s : State),
    let n := min 0xFFFF (s.sm.warmResets + 1)
    let idle := s.field Adr.mb1State 7 0 = 0 ∧ s.sm.cmdWait = none
    (portsAnswer s = false → exec (.smWarmReset cause) s = .next s) ∧
    (portsAnswer s = true → cause ≠ .sramError → idle → ∃ v, exec (.smWarmReset cause) s = .next (notice v 242 0x51 (leBytes 2 n)) ∧
      OnlyRegs s { v with sm := s.sm, roles := s.roles } [Adr.hwdStat, Adr.smStat] ∧ DbtsFollow s v ∧ v.flag Adr.hwdStat 8 = false ∧
      v.sm.sessions = [] ∧ v.sm.opens = [] ∧ v.sm.unlocked = [] ∧ v.sm.slotState = [] ∧ v.sm.rung = [] ∧ v.sm.cmdWait = none ∧
      v.sm.warmResets = n ∧ v.sm.vid = s.sm.vid ∧ v.sm.jobs = s.sm.jobs ∧ v.sm.images = s.sm.images ∧ v.sm.lockouts = s.sm.lockouts ∧
      (∀ j, j < 2048 ∨ 4096 ≤ j → Sparse.get (fun _ => (0 : Byte)) v.sm.slotBytes j = 0) ∧ mbErr v 0 = setBit (mbErr s 0) 4 true ∧ mbErr v 2 = setBit (mbErr s 2) 4 true) ∧
    (∀ t, t = raiseFault (countMec { s with freeNext := s.freeNext + 1 } 176 (Config.freeValue s.freeNext).toNat true false) 242 1 1 0 none →
      portsAnswer s = true → portsAnswer t = true → exec (.smWarmReset .sramError) s = exec (.smWarmReset .stall) t)) ∧
  (∀ (i : Fin 4) (s : State),
    (portsAnswer s = false → exec (.openExpiry i) s = .next s ∧ exec (.sessionIdleTimeout i) s = .next s) ∧
    (portsAnswer s = true → ∃ u, exec (.openExpiry i) s = .next u ∧ { u with sm := { u.sm with opens := s.sm.opens } } = s ∧
      ∀ j, openOf u j = if j = i then none else openOf s j) ∧
    (sessionBusy s i = true ∨ sessionOf s i = none → exec (.sessionIdleTimeout i) s = .next s) ∧
    (portsAnswer s = true → sessionBusy s i = false → sessionOf s i ≠ none → ∃ u, exec (.sessionIdleTimeout i) s = .next u ∧
      OnlyRegs s { u with sm := s.sm, roles := s.roles } [Adr.hwdStat] ∧ (∀ j, sessionOf u j = if j = i then none else sessionOf s j) ∧
      { u.sm with sessions := s.sm.sessions, unlocked := s.sm.unlocked } = s.sm ∧
      u.sm.unlocked = s.sm.unlocked.filter (fun x => x.2.1 ≠ i.val) ∧ DbtsFollow s u ∧ u.flag Adr.hwdStat 8 = u.sm.unlocked.any (fun x => x.2.2))) ∧
  (∀ (i : Fin 8) (status : Byte) (s : State),
    let row := exec (.jobComplete i status) s
    let fin := fun (t u : State) (j : Job) (st : Nat) (res : List Byte) => { u with sm := { u.sm with jobs := t.sm.jobs } } = t ∧
      ∃ n, 8 ≤ n ∧ jobOf t n = none ∧ ∀ m, jobOf u m = if m = i then none
        else if m = n then some { j with running := false, status := st, progress := 1000, result := res } else jobOf t m
    (jobOf s i = none ∨ portsAnswer s = false → row = .next s) ∧
    (∀ j, jobOf s i = some j → portsAnswer s = true →
      (∀ a f c t l, j.kind = .imageLoad a f c → loadImage s a (f.testBit 1) (f.testBit 2) = (t, l) →
        (l.status ≠ 0 → ∃ u, row = .next u ∧ fin t u j l.status (leBytes 2 l.detail ++ leBytes 2 l.off)) ∧
        (l.status = 0 → f.testBit 0 = false → ∃ u, row = .next u ∧ fin t u j 0 (leBytes 2 l.cid)) ∧
        (∀ img, l.status = 0 → f.testBit 0 = true → imageOfCid t l.cid = some img → ∃ u, fin t u j 0 (leBytes 2 l.cid) ∧
          row = .next (startImage u img 0 (if f.testBit 1 then 1 else 0)))) ∧
      (∀ res, (∃ n, j.kind = .repair n ∧ 2 ≤ repState s n ∧ res = leBytes 1 n) ∨
          (∃ w, j.kind = .format w ∧ s.flag (Adr.shdCfg w) 1 = false ∧ res = []) ∨
          (∃ h, j.kind = .playback h ∧ s.flag (Adr.pbCtl h) 1 = false ∧
            res = leBytes 4 (s.reg (Adr.pbCnt h)).toNat ++ leBytes 4 (s.reg (Adr.pbSkip h)).toNat) →
        status = 0 → ∃ u, row = .next u ∧ fin s u j 0 res) ∧
      ((∃ n, j.kind = .repair n ∧ repState s n < 2) ∨ (∃ w, j.kind = .format w ∧ s.flag (Adr.shdCfg w) 1 = true) ∨
        (∃ h, j.kind = .playback h ∧ s.flag (Adr.pbCtl h) 1 = true) → status = 0 → row = .next s) ∧
      ((∀ a f c, j.kind ≠ .imageLoad a f c) → status ≠ 0 → ∃ u, row = .next u ∧ fin s u j status.toNat [0, 0, 0xFF, 0xFF]))) ∧
  (∀ (i slot : Fin 8) (s : State),
    let done := s.sm.jobs.filter (fun e => 8 ≤ e.1)
    (done.length ≤ i.val → exec (.jobExpiry i) s = .next s) ∧
    (∀ e, done[i.val]? = some e → ∃ u, exec (.jobExpiry i) s = .next u ∧ { u with sm := { u.sm with jobs := s.sm.jobs } } = s ∧
      ∀ j, jobOf u j = if j = e.1 then none else jobOf s j) ∧
    ((lockout s slot).lock = 0 → exec (.lockoutExpiry slot) s = .next s) ∧
    ((lockout s slot).lock ≠ 0 → ∃ u, exec (.lockoutExpiry slot) s = .next u ∧ { u with sm := { u.sm with lockouts := s.sm.lockouts } } = s ∧
      ∀ k, lockout u k = if k = slot then { lockout s slot with lock := 0 } else lockout s k)) ∧
  (∀ (core : CoreId) (s : State),
    let recent := (Sparse.get (fun _ => []) s.sm.darkTimes core).filter (fun t => decide (s.metro.toNat < t + 3600000000))
    let acts := smRuns s = true ∧ s.flag Adr.smDarkpol 0 = true ∧ coreDark s core = true ∧ core.val ∉ s.sm.darkHeld
    (¬ acts → exec (.darkAutoRestart core) s = .next s) ∧
    (acts → 3 ≤ recent.length → exec (.darkAutoRestart core) s =
      .next (notice { s with sm := { s.sm with darkHeld := s.sm.darkHeld ++ [core.val] } } (uibOfCore core) 0x55 [])) ∧
    (acts → recent.length < 3 → ∃ v, exec (.darkAutoRestart core) s = .next (notice v (uibOfCore core) 0x52 (leBytes 1 (recent.length + 1))) ∧
      (∀ k, Sparse.get (fun _ => []) v.sm.darkTimes k = if k = core then recent ++ [v.metro.toNat] else
        Sparse.get (fun _ => []) (restartCore s core).sm.darkTimes k) ∧
      { v with sm := { v.sm with darkTimes := (restartCore s core).sm.darkTimes } } = restartCore s core)) ∧
  (∀ s : State,
    let tgt := s.sm.vidTarget
    let near := fun (v : Nat) => s.sm.vid < tgt ∧ v = s.sm.vid + 1 ∨ tgt < s.sm.vid ∧ v = s.sm.vid - 1
    let waits := ∃ w, s.sm.cmdWait = some w ∧ w.vid = true
    (s.sm.vid = tgt ∨ portsAnswer s = false → exec .vidStep s = .next s) ∧
    (∀ v, portsAnswer s = true → near v → let t := { s with sm := { s.sm with vid := v } }
      (¬ waits ∨ v ≠ tgt → exec .vidStep s = .next t) ∧ (waits → v = tgt → exec .vidStep s = .next (endWait t 0 (leBytes 1 v)))) ∧
    exec .houseWatchdogService s = .next { s with boot := { s.boot with hwdAt := s.metro } } ∧
    (s.flag Adr.smStat 2 = false ∨ 1 < houseNow s ∨ s.sm.entering = .waiting ∨ s.sm.cmdWait ≠ none → exec .powerReconcile s = .next s) ∧
    (s.flag Adr.smStat 2 = true → houseNow s ≤ 1 → s.sm.entering ≠ .waiting → s.sm.cmdWait = none →
      let ok := fun d => powTab s d = domSetting s d
      let gok := fun n => powTab s (128 + n) = gateSetting s (n / 5) (n % 5)
      let adopts := fun key truth u b9 b10 => exec .powerReconcile s =
        .next (notice (setPowTab s key truth) u 0x59 (leBytes 1 b9 ++ leBytes 1 b10 ++ leBytes 1 (powTab s key) ++ leBytes 1 truth))
      ((∀ d, d < 66 → ok d) → (∀ n, n < 160 → gok n) → exec .powerReconcile s = .next s) ∧
      (∀ d, d < 66 → ¬ ok d → (∀ k, k < 66 → k ≠ d → ok k) → (∀ n, n < 160 → gok n) → adopts d (domSetting s d) (domainUib d) d 0) ∧
      (∀ n, n < 160 → ¬ gok n → (∀ d, d < 66 → ok d) → (∀ k, k < 160 → k ≠ n → gok k) →
        adopts (128 + n) (gateSetting s (n / 5) (n % 5)) (slotUib s n) (0x80 + n / 5) (n % 5)))) ∧
  (∀ (d : Fin 66) (bad : BitVec 4) (n : PhysId) (s : State),
    let up := houseNow s ≤ 1 ∧ s.sm.entering ≠ .waiting ∧ s.boot.porst = false ∧ s.boot.brown = 0
    let asked := domOn s d = false ∧ s.field (Adr.domainSet (d / 16)) (2 * (d % 16) + 1) (2 * (d % 16)) = 0
    let gate := n.val < 160 ∧ n.val ∈ s.sm.gateReq
    let row := exec (.domainOnComplete d none bad) s
    let grow := exec (.domainOnComplete d (some n) bad) s
    let alone := ∀ w, s.sm.cmdWait = some w → w.vid = true
    let opened := fun (t : State) =>
      { t with sm := { t.sm with gateReq := t.sm.gateReq.filter (· ≠ n.val) } }.setField (Adr.coreGate (n / 5)) (2 * (n % 5) + 1) (2 * (n % 5)) 0
    (¬ up → row = .next s ∧ grow = .next s) ∧ (¬ asked → row = .next s) ∧ (¬ gate → grow = .next s) ∧
    (up → asked → alone → row = .next (setDomState (testSegments s d bad) d 0)) ∧
    (up → gate → alone → grow = .next (opened (testSegments s (128 + n) bad))) ∧
    (∀ w, up → asked → s.sm.cmdWait = some w → w.vid = false → w.doms = [d.val] → w.gates = [] → bad = 0 →
      row = .next (endWait (let t := setDomState s d 0; { t with sm := { t.sm with cmdWait := some { w with doms := [] } } }) 0 [])) ∧
    (∀ w, up → gate → s.sm.cmdWait = some w → w.vid = false → w.doms = [] → w.gates = [n.val] → bad = 0 →
      grow = .next (endWait (let t := opened s; { t with sm := { t.sm with cmdWait := some { w with gates := [] } } }) 0 [])) ∧
    (∀ k, testSegments s k 0 = s) ∧
    (∀ k i, i < 4 → bad = 1 <<< i → i ∉ lostSegments s k → switchCore s k = none ∨ lostSegments s k = [] → s.sm.records.length < 128 →
      testSegments s k bad = { s with sm := { s.sm with records := s.sm.records ++ [(4, k + 512 * i)] } }))

/-- The checks of R481 and the response of R471, R477, R479, R480, R485 and R517, for every command row. POWER_REQ's row has a second use.
The model's own choices in it: logs 88, 89. -/
def Obligations.CommandService : Prop :=
  let rows : List (Nat × (Fin 3 → Fin 8 → Instr)) := [(0x0001, .openSession), (0x0002, .prove), (0x0003, .closeSession), (0x0101, .identify),
    (0x0102, .health), (0x0103, .jobStatus), (0x0104, .smPolicy), (0x0201, .imageChunk), (0x0202, .imageLoad), (0x0203, .imageUnload),
    (0x0204, .overlayLoad), (0x0301, .unitStart), (0x0302, .unitStop), (0x0303, .unitRestart), (0x0304, .unitHold), (0x0402, .houseState),
    (0x0403, .setVcore), (0x0404, .walkConfig), (0x0501, .wearPolicy), (0x0502, .retireDecide), (0x0503, .migrate), (0x0504, .unretire),
    (0x0601, .scrubSet), (0x0602, .sramRepair), (0x0701, .cxlConfig), (0x0702, .cxlDecoder), (0x0703, .cxlShadow), (0x0704, .cxlPort),
    (0x0705, .cxlMirror), (0x0801, .hcSetup), (0x0802, .hcRing), (0x0803, .hcChannel), (0x0804, .hcPlayback), (0x0901, .cueRoute),
    (0x0902, .cueFire), (0x0A01, .pinClaim), (0x0A02, .pinRelease), (0x0A03, .padRelease), (0x0B01, .regRead), (0x0B02, .regWrite),
    (0x0C01, .logRead), (0x0D01, .timeSet), (0x0D02, .timeGet), (0x0D03, .rtcAlarm), (0x0E01, .fuseRead), (0x0E02, .keyProvision),
    (0x0E03, .keyRevoke), (0x0E04, .rollbackRaise), (0x0E05, .patchProgram), (0x0F01, .debugUnlock), (0x0F02, .debugDisable)]
  let logs := fun (st : Nat) => st ≠ 0 ∧ st ≠ 1 ∧ st ≠ 0x13
  (∀ x, x ∈ rows → ∀ (set : Fin 3) (slot : Fin 8) (s : State),
    let row := exec (x.2 set slot) s
    let b := blockAt s set slot
    let t := takeSlot s set slot
    let flags := at_ b 6 2
    let sid := at_ b 8 4
    let malformed := flags % 2 = 1 ∨ 4 ≤ flags ∨ 224 < at_ b 4 2 ∨ at_ b 12 4 ≠ 0
    let bound := fun (y : Session) => y.sid.toNat = sid ∧ y.set = set.val ∧ (set.val = 1 → y.cid = slotCid t slot)
    let failed := fun (st : Nat) => row = .next (deliverResponse t set slot st (responseBlock b st [0, 0, 0xFF, 0xFF] none))
    (rowTakes s x.1 set slot = false → row = .next s) ∧
    (rowTakes s x.1 set slot = true →
      (malformed → failed 0x02) ∧
      (¬ malformed → sid = 0 → sessionless t set (at_ b 0 2) = false → failed 0x03) ∧
      (¬ malformed → sid ≠ 0 → (∀ i y, i < 4 → sessionOf t i = some y → ¬ bound y) → failed 0x03) ∧
      (∀ c i y, openCmd t set slot b = .ok c → c.sess = some (i, y) →
        let tag := (leBytes 32 (Config.hmac y.kcmd (b.take (16 + c.pay.length))).toNat).take 16
        (b.drop 240 ≠ tag → row = .next (reply t c b (Reply.bare 0x04))) ∧
        (b.drop 240 = tag → at_ b 2 2 ≤ y.last → row = .next (reply t c b (Reply.bare 0x05)))) ∧
      (∀ c, openCmd t set slot b = .ok c → sessionCheck c b = none →
        (cmdRow (at_ b 0 2) = none → row = .next (answer (acceptSeq t c) c b (Reply.bare 0x06))) ∧
        (∀ r, cmdRow (at_ b 0 2) = some r →
          let refused := fun (z : Reply) => row = .next (answer (acceptSeq t c) c b z)
          (meetsFloor c r = false → refused (Reply.bare 0x07)) ∧
          (meetsFloor c r = true → (c.pay.length < r.lo ∨ r.hi < c.pay.length) → refused (Reply.badArg 0xFFFF)) ∧
          (∀ pre z post, meetsFloor c r = true → r.lo ≤ c.pay.length → c.pay.length ≤ r.hi → r.zero = pre ++ z :: post →
            (∀ j, j ∈ pre → c.at j 1 = 0) → c.at z 1 ≠ 0 → refused (Reply.badArg z)))))) ∧
  (∀ (t : State) (c : Cmd),
    (∀ i y, c.sess = some (i, y) → ∀ j, sessionOf (acceptSeq t c) j = if j = i then some { y with last := c.seq } else sessionOf t j) ∧
    (c.sess = none → acceptSeq t c = t) ∧ { acceptSeq t c with sm := { (acceptSeq t c).sm with sessions := t.sm.sessions } } = t) ∧
  (∀ (b : List Byte) (st : Nat) (pay : List Byte) (key : Option (BitVec 256)), b.length = 256 → st < 2 ^ 16 → pay.length ≤ 224 →
    let m := responseBlock b st pay key
    m.length = 256 ∧ m.take 4 = b.take 4 ∧ at_ m 4 2 = pay.length ∧ at_ m 6 2 = 1 + 2 * (at_ b 6 2 / 2 % 2) ∧
    (m.drop 8).take 4 = (b.drop 8).take 4 ∧ at_ m 12 2 = st ∧ at_ m 14 2 = 0 ∧ (m.drop 16).take pay.length = pay ∧
    (∀ j, 16 + pay.length ≤ j → j < 240 → m.getD j 0 = 0) ∧
    (key = none → ∀ j, 240 ≤ j → m.getD j 0 = 0) ∧
    (∀ k, key = some k → m.drop 240 = (leBytes 32 (Config.hmac k (m.take (16 + pay.length))).toNat).take 16)) ∧
  (∀ (u : State) (c : Cmd) (b : List Byte) (r : Reply), c.slot < 8 → b.length = 256 → r.pay.length ≤ 224 →
    let m := responseBlock b r.status r.pay (c.sess.map (fun x => x.2.krsp))
    let v := reply u c b r
    (c.set = 0 ∨ c.set = 2 → blockAt v c.set c.slot = m ∧
      (∀ k n, n < 8 → slotState v k n = if k = c.set ∧ n = c.slot then 3 else slotState u k n) ∧
      (∀ k n, n < 8 → k ≠ c.set ∨ n ≠ c.slot → blockAt v k n = blockAt u k n) ∧
      { v with log := u.log, sm := { v.sm with slotState := u.sm.slotState, slotBytes := u.sm.slotBytes } } = u ∧
      (¬ logs r.status → v.log = u.log) ∧ (logs r.status → v.log.next = u.log.next + 1)) ∧
    (c.set = 1 → ∃ w, w.flag Adr.mb1State c.slot = false ∧
      (u.flag (Adr.mb1Own c.slot) 16 = false → v = w) ∧
      (u.flag (Adr.mb1Own c.slot) 16 = true → v = noticeTo w (u.field (Adr.mb1Own c.slot) 9 0) (u.field (Adr.mb1Own c.slot) 15 12) 242 0x50
        (leBytes 1 c.slot ++ (m.drop 2).take 2 ++ leBytes 2 r.status))) ∧
    (∀ i y, c.sess = some (i, y) → c.seq = 0xFFFF → r.ends = [] → r.restart = false → answer u c b r = endSession v i) ∧
    (∀ i y, c.sess = some (i, y) → c.seq ≠ 0xFFFF → r.restart = false → answer u c b r = r.ends.foldl endSession v) ∧
    (c.sess = none → r.restart = false → answer u c b r = r.ends.foldl endSession v))

/-- Commands 0x0001 to 0x0304 (R36, R270, R482 to R491, R498, R501, R502, R505). The model's own choices in it: logs 8, 9, 92. -/
def Obligations.CommandsSessions : Prop :=
  let le := leBytes
  Runs 0x0001 .openSession (fun t c ans =>
    let k := c.at 0 1
    let x := keySlot t k
    let usable := x.code ≠ 0 ∧ x.code ≠ 15 ∧ (x.code = 5 → t.sm.debugDis = false)
    let lock := (lockout t k).lock
    (8 ≤ k → ans t (Reply.badArg 0)) ∧ (k < 8 → ¬ usable → ans t (Reply.bare 0x07)) ∧
    (k < 8 → usable → lock ≠ 0 → ∃ n, 1 ≤ n ∧ n ≤ lock ∧ ans { t with freeNext := t.freeNext + 1 } ⟨0x08, le 4 n, [], false⟩) ∧
    (k < 8 → usable → lock = 0 → (∀ i, i < 4 → openOf t i ≠ none) → ans t (Reply.bare 0x09)) ∧
    (∀ i, k < 8 → usable → lock = 0 → i < 4 → openOf t i = none → (∀ j, j < i → openOf t j ≠ none) →
      ∃ (h : Nat) (n : BitVec 256) (u : State), 1 ≤ h ∧ h < 2 ^ 32 ∧ ans u (Reply.ok (le 4 h ++ le 32 n.toNat)) ∧
        { u with freeNext := t.freeNext, sm := { u.sm with opens := t.sm.opens } } = t ∧
        ∀ j, openOf u j = if j = i then some ⟨BitVec.ofNat 32 h, n, c.set, k, if c.set = 1 then slotCid t c.slot else 0⟩ else openOf t j)) ∧
  Runs 0x0002 .prove (fun t c ans =>
    let hit := fun (o : OpenRec) => o.handle.toNat = c.at 0 4 ∧ o.set = c.set
    let nh := (c.pay.drop 4).take 32
    ((∀ i o, i < 4 → openOf t i = some o → ¬ hit o) → ans t (Reply.bare 0x03)) ∧
    (∀ i o, i < 4 → openOf t i = some o → hit o → (∀ j p, j < i → openOf t j = some p → ¬ hit p) →
      let v := setOpen t i none
      let k := o.slot
      let x := lockout t k
      let nd := le 32 o.nonce.toNat
      let right := (c.pay.drop 36).take 32 = le 32 (Config.hmac (keySlot t k).key (nd ++ nh ++ le 1 k)).toNat
      (x.lock ≠ 0 → ∃ n, 1 ≤ n ∧ n ≤ x.lock ∧ ans { v with freeNext := t.freeNext + 1 } ⟨0x08, le 4 n, [], false⟩) ∧
      (x.lock = 0 → ¬ right → x.fails < 4 → ans (setLockout v k { x with fails := x.fails + 1 }) (Reply.bare 0x0A)) ∧
      (x.lock = 0 → ¬ right → 4 ≤ x.fails → let time := min (2 ^ x.level) 3600
        ans (notice (setLockout v k ⟨0, min 12 (x.level + 1), time⟩) 242 0x53 (le 1 k ++ le 4 time)) (Reply.bare 0x0A)) ∧
      (x.lock = 0 → right → (∀ j, j < 4 → sessionOf t j ≠ none) → ans v (Reply.bare 0x09)) ∧
      (∀ j, x.lock = 0 → right → j < 4 → sessionOf t j = none → (∀ m, m < j → sessionOf t m ≠ none) →
        ∃ (sid : Nat) (u : State), 1 ≤ sid ∧ sid < 2 ^ 32 ∧ (∀ m y, m < 4 → sessionOf t m = some y → y.sid.toNat ≠ sid) ∧
          let out := Config.hkdf (keySlot t k).key (nd ++ nh) ([0x53, 0x4C, 0x37, 0x31, 0x36, 0x30, 0x20, 0x53, 0x45, 0x53, 0x53, 0x49, 0x4F, 0x4E] ++ le 1 k ++ le 4 sid)
          ans u (Reply.ok (le 4 sid ++ le 1 (keySlot t k).code ++ [0, 0, 0] ++ le 32 (Config.hmac (keySlot t k).key (nh ++ nd ++ le 1 k ++ le 4 sid)).toNat)) ∧
          { u with freeNext := t.freeNext, sm := { u.sm with sessions := t.sm.sessions, lockouts := t.sm.lockouts } } = v ∧
          (∀ m, sessionOf u m = if m = j then some ⟨BitVec.ofNat 32 sid, o.set, k, (keySlot t k).code, 0, o.cid, out.extractLsb' 0 256, out.extractLsb' 256 256⟩
            else sessionOf t m) ∧
          ∀ m, lockout u m = if m = k then ⟨0, 0, 0⟩ else lockout t m))) ∧
  Runs 0x0003 .closeSession (fun t c ans =>
    (∀ i y, c.sess = some (i, y) → ans t ⟨0, [], [i], false⟩) ∧ (c.sess = none → ans t (Reply.bare 0x03))) ∧
  Runs 0x0101 .identify (fun t _ ans => ans t (Reply.ok ([0x60, 0x71, 0x21] ++ le 1 Config.order.toNat ++ le 8 Config.dieId.toNat ++ [2] ++
    le 1 (t.field Adr.smStat 1 0) ++ le 2 (t.field Adr.smStat 31 16) ++ le 4 Config.romVersion.toNat))) ∧
  Runs 0x0102 .health (fun t _ ans => ∃ p, ans t (Reply.ok p) ∧ p.length = 24 ∧ (at_ p 0 4).testBit 0 = !t.time.xtal ∧
    (at_ p 0 4).testBit 1 = t.sm.timeUnset ∧ ((at_ p 0 4).testBit 8 = true ↔ ∃ k, k < 136 ∧ coreDark t k = true) ∧
    (at_ p 0 4).testBit 9 = t.sm.overlayRefused ∧ (∀ d, d < 66 → (at_ p 4 9).testBit d = decide (2 ≤ (lostSegments t d).length)) ∧
    at_ p 16 2 = t.field Adr.darkCnt 15 0 ∧ at_ p 18 1 = sessionCount t % 256 ∧ at_ p 20 4 = (metroLo t).toNat) ∧
  Runs 0x0103 .jobStatus (fun t c ans =>
    let shows := fun (u : State) (j : Job) (st prog : Nat) =>
      ans u (Reply.ok (le 1 st ++ [0] ++ le 2 j.status ++ le 4 prog ++ (j.result ++ List.replicate 32 0).take 32))
    let isIt := fun (e : Nat × Option Job) => ∃ j, e.2 = some j ∧ j.id = c.at 0 2
    ((∀ e, e ∈ t.sm.jobs → ¬ isIt e) → ans t (Reply.bare 0x0D)) ∧
    (∀ pre i j post, t.sm.jobs = pre ++ (i, some j) :: post → (∀ e, e ∈ pre → ¬ isIt e) → j.id = c.at 0 2 →
      (c.byImage = true → j.cid ≠ c.cid → ans t (Reply.bare 0x07)) ∧
      (c.byImage = false ∨ j.cid = c.cid → j.running = true → ∃ n, n ≤ 1000 ∧ shows { t with freeNext := t.freeNext + 1 } j 0 n) ∧
      (c.byImage = false ∨ j.cid = c.cid → j.running = false → shows (setJob t i none) j 1 1000))) ∧
  Runs 0x0104 .smPolicy (fun t c ans =>
    let m := c.at 0 1
    let note : Word := BitVec.ofNat 32 (c.at 8 4)
    let loop : Word := BitVec.ofNat 32 (c.at 16 4)
    let bad0 := m.testBit 0 = true ∧ (c.at 4 4 < 10 ∨ 86400 < c.at 4 4)
    let bad1 := m.testBit 1 = true ∧ (527 < bits note 9 0 ∨ bits note 11 10 ≠ 0 ∨ bits note 15 12 = 0 ∨ 12 < bits note 15 12 ∨ bits note 31 17 ≠ 0)
    let bad2 := m.testBit 2 = true ∧ 2 ≤ c.at 12 1
    let bad3 := m.testBit 3 = true ∧ (badSheet loop = true ∨ bits loop 11 10 ≠ 0 ∨ bits loop 31 17 ≠ 0)
    (16 ≤ m → ans t (Reply.badArg 0)) ∧ (m < 16 → bad0 → ans t (Reply.badArg 4)) ∧ (m < 16 → ¬ bad0 → bad1 → ans t (Reply.badArg 8)) ∧
    (m < 16 → ¬ bad0 → ¬ bad1 → bad2 → ans t (Reply.badArg 12)) ∧ (m < 16 → ¬ bad0 → ¬ bad1 → ¬ bad2 → bad3 → ans t (Reply.badArg 16)) ∧
    (m < 16 → ¬ bad0 → ¬ bad1 → ¬ bad2 → ¬ bad3 → ∃ u, ans u (Reply.ok []) ∧ OnlyRegs t u [Adr.smIdle, Adr.smNote, Adr.smDarkpol, Adr.cxLooprpt] ∧
      u.reg Adr.smIdle = (if m.testBit 0 then BitVec.ofNat 32 (c.at 4 4) else t.reg Adr.smIdle) ∧
      u.reg Adr.smNote = (if m.testBit 1 then note else t.reg Adr.smNote) ∧
      u.reg Adr.smDarkpol = (if m.testBit 2 then BitVec.ofNat 32 (c.at 12 1) else t.reg Adr.smDarkpol) ∧
      u.reg Adr.cxLooprpt = if m.testBit 3 then loop else t.reg Adr.cxLooprpt)) ∧
  Runs 0x0201 .imageChunk (fun t c ans =>
    let a := c.at 0 6
    let d := c.pay.drop 6
    let sram := 0x3000000 ≤ a ∧ a + d.length ≤ 0x3400000
    let cxl := oneWindow a d.length = true
    let w := winOf a
    let kept := grantedTo t a d.length 0 = true ∨ meetsReserved t a d.length = true
    let open_ := sram ∨ cxl ∧ winOpen t w = true ∧ busyWindow t w = false
    let gone := rangeError t a d.length = true ∨ coversAbsent t a d.length = true
    (¬ sram → ¬ cxl → ans t (Reply.badArg 0)) ∧ (¬ sram → cxl → winOpen t w = false → ans t (Reply.bare 0x18)) ∧
    (¬ sram → cxl → winOpen t w = true → busyWindow t w = true → ans t (Reply.bare 0x09)) ∧
    (open_ → kept → ans t (Reply.bare 0x0F)) ∧ (open_ → ¬ kept → gone → ans t (Reply.bare 0x14)) ∧
    (open_ → ¬ kept → ¬ gone → ∃ u, ans u (Reply.ok []) ∧
      (sram → Plain t a d.length → ∀ k, byteAt u k = if a ≤ k ∧ k < a + d.length then d.getD (k - a) 0 else byteAt t k))) ∧
  Runs 0x0202 .imageLoad (fun t c ans =>
    let a := c.at 0 6
    let f := c.at 6 1
    let owner := f.testBit 2 = true → c.code = 1
    (8 ≤ f → ans t (Reply.badArg 6)) ∧ (f < 8 → ¬ owner → ans t (Reply.bare 0x07)) ∧
    (f < 8 → owner → inWindow a = true → winOpen t (winOf a) = false → ans t (Reply.bare 0x18)) ∧
    (f < 8 → owner → inWindow a = true → winOpen t (winOf a) = true → busyWindow t (winOf a) = true → ans t (Reply.bare 0x09)) ∧
    (f < 8 → owner → (inWindow a = true → winOpen t (winOf a) = true ∧ busyWindow t (winOf a) = false) → StartsJob t c (.imageLoad a f 0) ans)) ∧
  Runs 0x0203 .imageUnload (fun t c ans =>
    (imageOfCid t (c.at 0 2) = none → ans t (Reply.bare 0x0D)) ∧
    (∀ i, imageOfCid t (c.at 0 2) = some i → imageStarted t i = true → ans t (Reply.bare 0x16)) ∧
    (∀ i, imageOfCid t (c.at 0 2) = some i → imageStarted t i = false → (∀ e, e ∈ t.sm.claims → e.1 ≠ 0 ∧ e.2.1 < 256) → ∃ u, ans u (Reply.ok []) ∧
      u.sm.images = t.sm.images.filter (fun x => x.cid != i.cid) ∧ (∀ x, x ∈ i.slots → x.1 < 8 → u.reg (Adr.mb1Own x.1) = 0) ∧
      (∀ e, e ∈ u.sm.claims → e.2.2 ≠ i.cid) ∧ u.mem = t.mem ∧ u.roles = t.roles)) ∧
  Runs 0x0204 .overlayLoad (fun t c ans =>
    let a := c.at 0 6
    let closed := inWindow a = true ∧ winOpen t (winOf a) = false
    (closed → ans t (Reply.bare 0x18)) ∧
    (∀ v k, ¬ closed → checkOverlay t a = (v, .error k) → ans (notice v 242 0x54 (le 1 k)) (Reply.fail 0x10 k 0xFFFF)) ∧
    (∀ v o, ¬ closed → checkOverlay t a = (v, .ok o) → ans { v with sm := { v.sm with overlay := some o } } ⟨0, [], [], true⟩)) ∧
  (let named := fun (t : State) (c : Cmd) (ans : State → Reply → Prop) (acts : Image → Nat → Prop) =>
    let u := c.at 2 2
    (imageOfCid t (c.at 0 2) = none → ans t (Reply.bare 0x0D)) ∧
    (∀ i, imageOfCid t (c.at 0 2) = some i →
      (c.byImage = true → i.cid ≠ c.cid → ans t (Reply.bare 0x07)) ∧
      (c.byImage = false ∨ i.cid = c.cid → uibPresent u = false → ans t (Reply.bare 0x0D)) ∧
      (c.byImage = true → i.cid = c.cid → uibPresent u = true → rolesAt i u = [] → ans t (Reply.bare 0x07)) ∧
      (uibPresent u = true → c.byImage = false ∨ i.cid = c.cid ∧ rolesAt i u ≠ [] → acts i u))
  Runs 0x0301 .unitStart (fun t c ans => named t c ans (fun i u =>
    let stuck := ∃ r, r ∈ rolesAt i u ∧ (t.role r).started = false ∧ (coreOn t (coreOf r) = false ∨ coreDark t (coreOf r) = true)
    (2 ≤ c.at 4 1 → ans t (Reply.badArg 4)) ∧ (c.at 4 1 < 2 → stuck → ans t (Reply.bare 0x16)) ∧
    (c.at 4 1 < 2 → ¬ stuck → ∃ v, ans v (Reply.ok []) ∧ (∀ r, r ∈ rolesAt i u → (v.role r).started = true) ∧
      (∀ r, r ∈ rolesAt i u → (t.role r).started = false → (v.role r).pc = 0) ∧
      v.sm.images = i :: t.sm.images.filter (fun x => x.cid != i.cid)))) ∧
  Runs 0x0302 .unitStop (fun t c ans => named t c ans (fun i u => ∃ v, ans v (Reply.ok []) ∧
    (∀ r, r ∈ rolesAt i u → r ∈ startedRoles t i → (v.role r).started = false) ∧
    ((∀ r, r ∈ rolesAt i u → r ∉ startedRoles t i) → v = t)))) ∧
  Runs 0x0303 .unitRestart (fun t c ans =>
    let u := c.at 0 2
    let core := coreOfUib u
    (uibIsCore u = false → ans t (Reply.bare 0x0D)) ∧ (uibIsCore u = true → coreDark t core = false → ans t (Reply.bare 0x16)) ∧
    (uibIsCore u = true → coreDark t core = true → ∃ v, ans v (Reply.ok []) ∧ coreDark v core = false ∧ core ∉ v.sm.darkHeld ∧
      ∀ r, r ∈ rolesOf core → (v.role r).frozen = false ∧ ((t.role r).wentDark = true → (v.role r).started = true ∧ (v.role r).pc = 0x20) ∧
        ((t.role r).wentDark = false → (v.role r).pc = (t.role r).pc ∧ (v.role r).started = (t.role r).started))) ∧
  Runs 0x0304 .unitHold (fun t c ans =>
    let u := c.at 0 2
    let w : Word := BitVec.ofNat 32 (c.at 2 1 + c.at 3 1 * 16)
    (uibPresent u = false → ans t (Reply.bare 0x0D)) ∧ (uibPresent u = true → 2 ≤ c.at 2 1 → ans t (Reply.badArg 2)) ∧
    (uibPresent u = true → c.at 2 1 < 2 → 16 ≤ c.at 3 1 → ans t (Reply.badArg 3)) ∧
    (uibPresent u = true → c.at 2 1 < 2 → c.at 3 1 < 16 → ans (writeHold t u w) (Reply.ok [if unitHeld (writeHold t u w) u then 1 else 0])))

/-- Commands 0x0401 to 0x0602 (R30, R43, R53, R366, R371, R378 to R380, R393, R499, R503 to R505, R507, R543, R548).
The model's own choices in it: logs 85, 90, 94. -/
def Obligations.CommandsPower : Prop :=
  let force := fun (c : Cmd) => (c.at 3 1).testBit 0
  Runs 0x0401 .powerReq (fun t c ans =>
    let u := c.at 0 2
    let req := c.at 2 1
    let named := 1 ≤ req ∧ req ≤ 3
    let denied := force c = true ∧ c.code ≠ 5 ∨ c.byImage = true ∧ imageMayPower t c.cid u = false
    let sound := named ∧ c.at 3 1 < 2 ∧ ¬ denied
    let v := powerAct t c.set c.slot u req (force c)
    (¬ named → ans t (Reply.badArg 2)) ∧ (named → 2 ≤ c.at 3 1 → ans t (Reply.badArg 3)) ∧
    (named → c.at 3 1 < 2 → denied → ans t (Reply.bare 0x07)) ∧
    (∀ r, sound → powerRefused t u req (force c) = some r → ans t r) ∧
    (sound → powerRefused t u req (force c) = none → v.sm.cmdWait = none → ans v (Reply.ok []))) ∧
  (∀ (set : Fin 3) (slot : Fin 8) (s t : State) (c : Cmd),
    let u := c.at 0 2
    let req := c.at 2 1
    let v := powerAct t set slot u req (force c)
    Serves 0x0401 set slot s t c → 1 ≤ req → req ≤ 3 → c.at 3 1 < 2 → (force c = true → c.code = 5) →
      (c.byImage = true → imageMayPower t c.cid u = true) → powerRefused t u req (force c) = none → v.sm.cmdWait ≠ none →
      exec (.powerReq set slot) s = .next v) ∧
  (∀ (s : State) (u req : Nat) (fo : Bool),
    let acted := actedUnits s u
    let roles := (actedRoles s u).filter (fun r => (s.role r).started)
    let managed := ∃ v, v ∈ acted ∧ (v = 242 ∨ v = 246 ∨ v = 247 ∨ v = 249)
    let inUse := req = 3 ∧ roles ≠ [] ∨ req = 2 ∧ (∃ r, r ∈ roles ∧ roleWaits s r = false) ∨
      req ≠ 1 ∧ 243 ∈ acted ∧ (∃ w, w < 3 ∧ windowGranted s w = true) ∨ req ≠ 1 ∧ 248 ∈ acted ∧ anyClaim s = true
    let busy := ∃ j v, j ∈ runningJobs s ∧ jobUnit j.kind s = some v ∧ v ∈ acted
    let held := (actedRoles s u).find? (fun r => (s.role r).onHold)
    (uibPresent u = false → powerRefused s u req fo = some (Reply.bare 0x0D)) ∧
    (uibPresent u = true → managed → powerRefused s u req fo = some (Reply.bare 0x07)) ∧
    (uibPresent u = true → ¬ managed → inUse → powerRefused s u req fo = some (Reply.bare 0x16)) ∧
    (uibPresent u = true → ¬ managed → ¬ inUse → busy → powerRefused s u req fo = some (Reply.bare 0x09)) ∧
    (∀ r, uibPresent u = true → ¬ managed → ¬ inUse → ¬ busy → held = some r → fo = false →
      powerRefused s u req fo = some (Reply.fail 0x0E (uibOf r) 0xFFFF)) ∧
    (uibPresent u = true → ¬ managed → ¬ inUse → ¬ busy → held = none ∨ fo = true → powerRefused s u req fo = none)) ∧
  (∀ (set slot u req : Nat) (s : State),
    let keys := powerKeys s u
    let off := fun (t : State) => keys.filter (fun k => decide (k < 128) && decide (domSetting t k ≠ 0))
    let goff := fun (t : State) => (keys.filter (fun k => decide (128 ≤ k) && decide (gateSetting t ((k - 128) / 5) ((k - 128) % 5) ≠ 0))).map (· - 128)
    let t := (if req = 1 then keys else keys.reverse).foldl (requestKey (requestCode req)) s
    (req ≠ 1 ∨ (off t = [] ∧ goff t = []) → powerAct s set slot u req false = t) ∧
    (req = 1 → (off t ≠ [] ∨ goff t ≠ []) → powerAct s set slot u req false =
      { t with sm := { t.sm with cmdWait := some ⟨set, slot, off t, goff t, false⟩ } })) ∧
  (∀ (v k : Nat) (s : State), k < 65 → k ≠ 57 → k ≠ 58 →
    let t := requestKey v s k
    powTab t k = v ∧ (v = 1 ∨ v = 2 → domSetting t k = v) ∧ (v = 0 → domSetting t k = domSetting s k) ∧
    (v < 3 → t.field (Adr.domainSet (k / 16)) (2 * (k % 16) + 1) (2 * (k % 16)) = v)) ∧
  (∀ (set : Fin 3) (slot : Fin 8) (s : State),
    let row := exec (.powerReq set slot) s
    let pend := fun u => uibPresent u = true ∧ s.field (Adr.uibPwrreq u) 3 2 = 1
    let mine := rowTakes s 0x0401 set slot = false ∧ smRuns s = true ∧ s.sm.cmdWait = none
    (rowTakes s 0x0401 set slot = false → smRuns s = false ∨ s.sm.cmdWait ≠ none → row = .next s) ∧
    (mine → (∀ u, u < 251 → ¬ pend u) → row = .next s) ∧
    (∀ u, mine → u < 251 → pend u → (∀ w, w < u → ¬ pend w) →
      let req := s.field (Adr.uibPwrreq u) 1 0
      let v := powerAct s 3 u u req false
      (∀ r, powerRefused s u req false = some r → row = .next (endPwrreq s u r.status)) ∧
      (powerRefused s u req false = none → v.sm.cmdWait = none → row = .next (endPwrreq v u 0)) ∧
      (powerRefused s u req false = none → v.sm.cmdWait ≠ none → row = .next v))) ∧
  Runs 0x0402 .houseState (fun t c ans =>
    let g := c.at 0 1
    let fo := (c.at 1 1).testBit 0
    let banks := (List.range 144).filter (fun n => (c.at (4 + n / 8) 1).testBit (n % 8))
    let holders := (t.roles.filter (fun e => e.2.onHold)).map (fun e => e.1)
    let sound := g < 6 ∧ c.at 1 1 < 2 ∧ (fo = true → c.code = 5)
    let loose := fun (i : Image) => imageStarted t i = true ∧ ∃ x, x ∈ i.segs ∧ segmentKept banks x = false
    let entering := fun (v : State) => { v with sm := { v.sm with entering := .answered g banks } }
    let free := runningJobs t = [] ∨ g = 1
    let fits := free ∧ houseNow t = 0 ∧ (g = 2 → ∀ i, i ∈ t.sm.images → ¬ loose i) ∧ (g = 4 → t.sm.walkNext ≠ none)
    (6 ≤ g → ans t (Reply.badArg 0)) ∧ (g < 6 → 2 ≤ c.at 1 1 → ans t (Reply.badArg 1)) ∧
    (g < 6 → c.at 1 1 < 2 → fo = true → c.code ≠ 5 → ans t (Reply.bare 0x07)) ∧
    (sound → g = 0 → ans (startWake t 8 0) (Reply.ok [])) ∧
    (sound → g ≠ 0 → houseNow t ≠ 0 → ans t (Reply.bare 0x16)) ∧
    (∀ j l, sound → 2 ≤ g → houseNow t = 0 → runningJobs t = j :: l → ans t (Reply.fail 0x09 j.id 0xFFFF)) ∧
    (∀ pre i post, sound → g = 2 → houseNow t = 0 → runningJobs t = [] → t.sm.images = pre ++ i :: post → (∀ x, x ∈ pre → ¬ loose x) →
      loose i → ans t (Reply.fail 0x16 i.cid 0xFFFF)) ∧
    (sound → g = 4 → houseNow t = 0 → runningJobs t = [] → t.sm.walkNext = none → ans t (Reply.bare 0x16)) ∧
    (∀ r l, Sparse.wf (fun _ => Role.reset) t.roles = true → sound → g ≠ 0 → fits → holders = r :: l → fo = false → ans t (Reply.fail 0x0E (uibOf r) 0xFFFF)) ∧
    (Sparse.wf (fun _ => Role.reset) t.roles = true → sound → g ≠ 0 → fits → holders ≠ [] → fo = true → ans (entering (forceRelease t holders)) (Reply.ok [])) ∧
    (sound → g ≠ 0 → fits → holders = [] → ans (entering t) (Reply.ok []))) ∧
  (∀ (set : Fin 3) (slot : Fin 8) (s t : State) (c : Cmd), Serves 0x0403 set slot s t c → c.at 0 1 ≤ 45 → t.sm.vid ≠ c.at 0 1 →
    exec (.setVcore set slot) s =
      .next { t with sm := { t.sm with vidTarget := c.at 0 1, cmdWait := some ⟨set, slot, [], [], true⟩ } }) ∧
  Runs 0x0403 .setVcore (fun t c ans =>
    (45 < c.at 0 1 → ans t (Reply.badArg 0)) ∧
    (c.at 0 1 ≤ 45 → t.sm.vid = c.at 0 1 →
      ans { t with sm := { t.sm with vidTarget := c.at 0 1 } } (Reply.ok (leBytes 1 (c.at 0 1))))) ∧
  Runs 0x0404 .walkConfig (fun t c ans =>
    let p := c.at 0 4
    let badAt := fun i o => 0xFFF < c.at (8 + 4 * i) 2 ∧ o = 8 + 4 * i ∨ c.at (8 + 4 * i) 2 ≤ 0xFFF ∧ 0xFFF < c.at (10 + 4 * i) 2 ∧ o = 10 + 4 * i ∨
      c.at (8 + 4 * i) 2 ≤ 0xFFF ∧ c.at (10 + 4 * i) 2 < c.at (8 + 4 * i) 2 ∧ o = 8 + 4 * i
    (p = 0 ∨ 3600000 < p → ans t (Reply.badArg 0)) ∧
    (∀ i o, 1 ≤ p → p ≤ 3600000 → i < 16 → badAt i o → (∀ j q, j < i → ¬ badAt j q) → ans t (Reply.badArg o)) ∧
    (1 ≤ p → p ≤ 3600000 → (∀ i o, i < 16 → ¬ badAt i o) → ans { t with sm := { t.sm with walkNext := some c.pay } } (Reply.ok []))) ∧
  Runs 0x0501 .wearPolicy (fun t c ans =>
    let okA := 50 ≤ c.at 0 2 ∧ c.at 0 2 ≤ 300
    let okB := 1 ≤ c.at 2 1 ∧ c.at 2 1 ≤ 15
    let okC := 1 ≤ c.at 4 2 ∧ c.at 4 2 ≤ 365
    (¬ okA → ans t (Reply.badArg 0)) ∧ (okA → ¬ okB → ans t (Reply.badArg 2)) ∧ (okA → okB → ¬ okC → ans t (Reply.badArg 4)) ∧
    (okA → okB → okC → 2 ≤ c.at 6 1 → ans t (Reply.badArg 6)) ∧
    (okA → okB → okC → c.at 6 1 < 2 →
      ans { t with sm := { t.sm with wear := ⟨c.at 0 2, c.at 2 1, c.at 4 2, decide (c.at 6 1 = 1)⟩ } } (Reply.ok []))) ∧
  Runs 0x0502 .retireDecide (fun t c ans =>
    let u := c.at 0 2
    let core := coreOfUib u
    let p := physOf t core
    let v := { t with sm := { t.sm with pendingRet := t.sm.pendingRet.filter (· ≠ p) } }
    let waits := coreCarried t core = true ∧ p ∈ t.sm.pendingRet
    let go := uibIsCore u = true ∧ waits ∧ c.at 2 1 = 1
    (uibIsCore u = false → ans t (Reply.bare 0x0D)) ∧ (uibIsCore u = true → 2 ≤ c.at 2 1 → ans t (Reply.badArg 2)) ∧
    (uibIsCore u = true → c.at 2 1 < 2 → ¬ waits → ans t (Reply.bare 0x16)) ∧
    (uibIsCore u = true → waits → c.at 2 1 = 0 → ∃ w, ans w (Reply.ok []) ∧ { w with sm := { w.sm with declined := t.sm.declined } } = v ∧
      ∀ q, Sparse.get (fun _ => none) w.sm.declined q = if q = p then some (slowOf t p) else Sparse.get (fun _ => none) t.sm.declined q) ∧
    (go → coreBusy t core = true → ans t (Reply.bare 0x09)) ∧
    (go → coreBusy t core = false → spareFree t core = true →
      ans (migrateNow v core (if t.sm.wear.thr ≤ slowOf t p then 1 else 2)) (Reply.ok [])) ∧
    (go → coreBusy t core = false → spareFree t core = false →
      ans (wearNotice v core 0x24 (if t.sm.wear.thr ≤ slowOf t p then 1 else 2)) (Reply.bare 0x12))) ∧
  Runs 0x0503 .migrate (fun t c ans =>
    let u := c.at 0 2
    let core := coreOfUib u
    (uibIsCore u = false → ans t (Reply.bare 0x0D)) ∧ (uibIsCore u = true → coreCarried t core = false → ans t (Reply.bare 0x16)) ∧
    (uibIsCore u = true → coreCarried t core = true → coreBusy t core = true → ans t (Reply.bare 0x09)) ∧
    (uibIsCore u = true → coreCarried t core = true → coreBusy t core = false →
      (spareFree t core = true → ans (migrateNow t core 5) (Reply.ok [])) ∧ (spareFree t core = false → ans t (Reply.bare 0x12)))) ∧
  Runs 0x0504 .unretire (fun t c ans =>
    let x := c.at 0 1
    let k := c.at 1 1
    let rec_ := if 0x80 ≤ x then (3, x - 0x80) else (2, x + k * 32)
    let is := fun n => t.sm.records[n]? = some rec_ ∧ (15, n) ∉ t.sm.records
    let okX := x < 32 ∨ 0x80 ≤ x ∧ x < 0x8A
    let okK := k < if 0x80 ≤ x then 1 else 4
    (¬ okX → ans t (Reply.badArg 0)) ∧ (okX → ¬ okK → ans t (Reply.badArg 1)) ∧
    (okX → okK → (∀ n, ¬ is n) → ans t (Reply.bare 0x0D)) ∧
    (∀ n, okX → okK → is n → 128 ≤ t.sm.records.length → ans t (Reply.bare 0x12)) ∧
    (∀ n, okX → okK → is n → (∀ m, m < n → ¬ is m) → t.sm.records.length < 128 →
      ans { t with sm := { t.sm with records := t.sm.records ++ [(15, n)] } } (Reply.ok []))) ∧
  Runs 0x0601 .scrubSet (fun t c ans =>
    let okR := 1 ≤ c.at 1 1 ∧ c.at 1 1 ≤ 168
    (2 ≤ c.at 0 1 → ans t (Reply.badArg 0)) ∧ (c.at 0 1 < 2 → ¬ okR → ans t (Reply.badArg 1)) ∧
    (c.at 0 1 < 2 → okR → domOn t 51 = false → ans t (Reply.bare 0x14)) ∧
    (c.at 0 1 < 2 → okR → domOn t 51 = true →
      ans (t.setReg Adr.scrubCtl (BitVec.ofNat 32 (c.at 0 1 + c.at 1 1 * 2 ^ 8))) (Reply.ok []))) ∧
  Runs 0x0602 .sramRepair (fun t c ans =>
    let bank := c.at 0 1
    let ty := c.at 1 1
    let adr := c.at 2 2
    let okA := if ty = 0 then adr < (if bank < 32 then 128 else 256) else adr < 512 ∧ adr % 128 < 80
    let sound := bank < 144 ∧ ty < 2 ∧ okA
    let on := powered t (bankBase bank) = true ∧ domOn t 51 = true
    let copying := ∃ n, n < 32 ∧ repState t n = 1 ∧ t.field (Adr.repEntry n) 7 0 = bank ∧ t.field (Adr.repEntry n) 8 8 = ty ∧
      t.field (Adr.repEntry n) 17 9 = adr
    let taken := copying ∨ ∀ i, i < 8 → jobOf t i ≠ none
    (144 ≤ bank → ans t (Reply.badArg 0)) ∧ (bank < 144 → 2 ≤ ty → ans t (Reply.badArg 1)) ∧
    (bank < 144 → ty < 2 → ¬ okA → ans t (Reply.badArg 2)) ∧ (sound → ¬ on → ans t (Reply.bare 0x14)) ∧
    (sound → on → taken → ans t (Reply.bare 0x09)) ∧ (sound → on → ¬ taken → repFree t bank ty = none → ans t (Reply.bare 0x12)) ∧
    (∀ n k, sound → on → ¬ taken → repFree t bank ty = some (n, k) →
      StartsJob (t.setReg (Adr.repEntry n) (BitVec.ofNat 32 (bank + ty * 2 ^ 8 + adr * 2 ^ 9 + k * 2 ^ 18 + 2 ^ 22))) c (.repair n) ans))

/-- Commands 0x0701 to 0x0804 (R398, R403, R407, R414, R416, R417, R419, R430 to R432, R450, R453, R461, R462, R507, R508). The values that
HC_SETUP and HC_RING leave are stated where the compressor has no work left and does not drain.
The model's own choices in it: logs 75, 95. -/
def Obligations.CommandsCxl : Prop :=
  let le := leBytes
  let w32 := fun (n : Nat) => (BitVec.ofNat 32 n : Word)
  Runs 0x0701 .cxlConfig (fun t c ans =>
    let mode := c.at 0 1
    let winc := c.at 2 1
    let dirty := c.at 6 2
    let a := mode < 3
    let b := a ∧ c.at 1 1 < 3
    let d := b ∧ winc < 3 ∧ (winc = 0 ∨ mode = 1)
    let e := d ∧ c.at 3 1 < 2
    let f := e ∧ c.at 4 1 < 5
    let g := f ∧ 64 ≤ dirty ∧ dirty ≤ 10240
    (¬ a → ans t (Reply.badArg 0)) ∧ (a → ¬ b → ans t (Reply.badArg 1)) ∧ (b → ¬ d → ans t (Reply.badArg 2)) ∧
    (d → ¬ e → ans t (Reply.badArg 3)) ∧ (e → ¬ f → ans t (Reply.badArg 4)) ∧ (f → ¬ g → ans t (Reply.badArg 6)) ∧
    (g → domOn t 54 = false → ans t (Reply.bare 0x14)) ∧
    (g → domOn t 54 = true → ∃ u, ans u (Reply.ok []) ∧ OnlyRegs t { u with sm := t.sm } [Adr.cxlCfg, Adr.cxlDir] ∧
      u.sm = { t.sm with cxlNext := some (mode, c.at 1 1, winc, c.at 3 1) } ∧ u.field Adr.cxlCfg 10 8 = c.at 4 1 ∧
      u.field Adr.cxlCfg 7 0 = t.field Adr.cxlCfg 7 0 ∧ u.field Adr.cxlCfg 31 11 = t.field Adr.cxlCfg 31 11 ∧ u.field Adr.cxlDir 29 16 = dirty ∧
      u.field Adr.cxlDir 15 0 = t.field Adr.cxlDir 15 0 ∧ u.field Adr.cxlDir 31 30 = t.field Adr.cxlDir 31 30)) ∧
  Runs 0x0702 .cxlDecoder (fun t c ans =>
    let p := c.at 0 1
    let n := c.at 1 1
    let v := (t.setReg (Adr.hdmMap p n) (w32 (c.at 2 2 + c.at 4 2 * 2 ^ 16))).setReg (Adr.hdmCtl p n)
      (w32 (c.at 6 2 + c.at 8 1 * 2 ^ 12 + c.at 9 1 * 2 ^ 14))
    let known := if p = 0 then t.cxl.dev0.isSome = true else t.cxl.dev1.isSome = true
    let named := p < 2 ∧ n < 4 ∧ c.at 9 1 < 2
    let a := named ∧ portExists t p = true
    let b := a ∧ c.at 8 1 < 2
    let d := b ∧ c.at 2 2 ≤ 0xFFF
    let e := d ∧ c.at 4 2 ≤ 0x1FFF
    let f := e ∧ c.at 6 2 ≤ 0xFFF ∧ (known ∨ c.at 9 1 = 0)
    let g := f ∧ domOn t 54 = true
    let h := g ∧ busyWindow t p = false ∧ busyWindow t 2 = false
    let i := h ∧ decoderGranted t p n = false ∧ decoderGranted v p n = false
    let broken := fun r => ∃ q m, q < 2 ∧ m < 4 ∧ decoderRule v q m = some r
    (2 ≤ p → ans t (Reply.badArg 0)) ∧ (p < 2 → 4 ≤ n → ans t (Reply.badArg 1)) ∧ (p < 2 → n < 4 → 2 ≤ c.at 9 1 → ans t (Reply.badArg 9)) ∧
    (named → ¬ a → ans t (Reply.bare 0x0D)) ∧ (a → ¬ b → ans t (Reply.fail 0x0C 1 8)) ∧ (b → ¬ d → ans t (Reply.fail 0x0C 5 2)) ∧
    (d → ¬ e → ans t (Reply.fail 0x0C 5 4)) ∧ (e → ¬ f → ans t (Reply.fail 0x0C 3 6)) ∧ (f → ¬ g → ans t (Reply.bare 0x14)) ∧
    (g → ¬ h → ans t (Reply.bare 0x09)) ∧ (h → ¬ i → ans t (Reply.bare 0x0F)) ∧
    (∀ r, i → broken r → (∀ q, q < r → ¬ broken q) → ans t (Reply.fail 0x0C r 0xFFFF)) ∧
    (i → (∀ r, ¬ broken r) → let u := commitDecoders v false
      ans u (Reply.ok (le 1 (u.field (Adr.hdmCtl p n) 15 15))) ∧ u.reg (Adr.hdmMap p n) = v.reg (Adr.hdmMap p n) ∧
      u.field (Adr.hdmCtl p n) 14 0 = v.field (Adr.hdmCtl p n) 14 0 ∧ u.flag (Adr.hdmCtl p n) 15 = decoderMatched v p n)) ∧
  Runs 0x0703 .cxlShadow (fun t c ans =>
    let w := c.at 0 1
    let act := c.at 1 1
    let a := w < 3 ∧ act < 3
    let b := a ∧ windowGranted t w = false
    let d := b ∧ busyWindow t w = false ∧ (act = 1 → jobFree t = true)
    let e := d ∧ winOpen t w = true
    let set := fun n => t.setField (Adr.shdCfg w) 1 0 n
    (3 ≤ w → ans t (Reply.badArg 0)) ∧ (w < 3 → 3 ≤ act → ans t (Reply.badArg 1)) ∧ (a → ¬ b → ans t (Reply.bare 0x0F)) ∧
    (b → ¬ d → ans t (Reply.bare 0x09)) ∧ (d → ¬ e → ans t (Reply.bare 0x18)) ∧ (e → act = 0 → ans (set 0) (Reply.ok [])) ∧
    (e → act = 1 → StartsJob (set 3) c (.format w) ans) ∧ (e → act = 2 → ans (set 1) (Reply.ok []))) ∧
  Runs 0x0704 .cxlPort (fun t c ans =>
    let p := c.at 0 1
    let down := c.at 1 1 = 1
    let a := p < 2 ∧ c.at 1 1 < 2
    let b := a ∧ portExists t p = true
    let d := b ∧ domOn t 54 = true
    let e := d ∧ busyWindow t p = false ∧ busyWindow t 2 = false
    (2 ≤ p → ans t (Reply.badArg 0)) ∧ (p < 2 → 2 ≤ c.at 1 1 → ans t (Reply.badArg 1)) ∧ (a → ¬ b → ans t (Reply.bare 0x0D)) ∧
    (b → ¬ d → ans t (Reply.bare 0x14)) ∧ (d → ¬ e → ans t (Reply.bare 0x09)) ∧
    (e → (linkUp t p = true ↔ ¬ down) → ans t (Reply.bare 0x16)) ∧
    (e → ¬ down → linkUp t p = false → ∃ u, ans u (Reply.ok []) ∧ OnlyRegs t u [Adr.cxlLink p] ∧ u.field (Adr.cxlLink p) 15 11 = 0 ∧
      u.field (Adr.cxlLink p) 10 0 = t.field (Adr.cxlLink p) 10 0 ∧ u.field (Adr.cxlLink p) 31 16 = t.field (Adr.cxlLink p) 31 16) ∧
    (e → down → linkUp t p = true → ans (linkDown (cxlError t p 12 none 0) p) (Reply.ok []))) ∧
  Runs 0x0705 .cxlMirror (fun t c ans =>
    let a := c.at 0 1
    let x := c.at 1 1
    let lim := if a ≤ 1 then 2 else if a = 2 then 3 else 64
    let ok := a < 4 ∧ x < lim
    let on := ok ∧ domOn t 54 = true
    let lost := winC t = 2 ∧ t.sm.mirrorRec = none ∧ linkUp t x = true
    let good := { t with cxl := { t.cxl with pos := 0 }, sm := { t.sm with mirrorRec := some x } }
    (4 ≤ a → ans t (Reply.badArg 0)) ∧ (a < 4 → lim ≤ x → ans t (Reply.badArg 1)) ∧ (ok → domOn t 54 = false → ans t (Reply.bare 0x14)) ∧
    (on → a = 0 → ans (t.setField Adr.cxlMir 3 3 x) (Reply.ok [])) ∧
    (on → a = 1 → ¬ lost → ans t (Reply.bare 0x16)) ∧
    (on → a = 1 → lost → linkUp t (1 - x) = true →
      ans ((good.setField Adr.cxlMir 2 0 (4 + (1 - x))).setField Adr.cxlMir 27 8 0) (Reply.ok [])) ∧
    (on → a = 1 → lost → linkUp t (1 - x) = false → ans (good.setField Adr.cxlMir 2 0 (2 + x)) (Reply.ok [])) ∧
    (on → a = 2 → ans (t.setFlag (Adr.cxlWin x) 15 false) (Reply.ok [])) ∧
    (on → a = 3 → t.flag (Adr.cxlFail0 x) 0 = false → ans t (Reply.bare 0x0D)) ∧
    (on → a = 3 → t.flag (Adr.cxlFail0 x) 0 = true → ∃ u, ans u (Reply.ok []) ∧
      OnlyRegs t u [Adr.cxlFail0 x, Adr.cxlFail1 x, Adr.cxlFailcnt] ∧ u.reg (Adr.cxlFail0 x) = 0 ∧ u.reg (Adr.cxlFail1 x) = 0 ∧
      u.field Adr.cxlFailcnt 6 0 = t.field Adr.cxlFailcnt 6 0 - 1)) ∧
  Runs 0x0801 .hcSetup (fun t c ans =>
    let h := c.at 0 1
    let cx := c.at 2 6
    let n := c.at 8 2
    let bd := c.at 10 6
    let a := h < 2 ∧ c.at 1 1 < 2
    let b := a ∧ n ≤ 0x8000
    let d := b ∧ cx % 0x1000 = 0 ∧ placeOk t h cx (n * 64) = true
    let e := d ∧ bd % 0x8000 = 0 ∧ placeOk t h bd (n * 0x8000) = true ∧ overlaps cx (n * 64) bd (n * 0x8000) = false
    let f := e ∧ hcPowered t h = true ∧ placeReady t cx (n * 64) = true ∧ placeReady t bd (n * 0x8000) = true
    let g := f ∧ busyHc t h = false
    (2 ≤ h → ans t (Reply.badArg 0)) ∧ (h < 2 → 2 ≤ c.at 1 1 → ans t (Reply.badArg 1)) ∧ (a → ¬ b → ans t (Reply.badArg 8)) ∧
    (b → ¬ d → ans t (Reply.badArg 2)) ∧ (d → ¬ e → ans t (Reply.badArg 10)) ∧ (e → ¬ f → ans t (Reply.bare 0x18)) ∧
    (f → ¬ g → ans t (Reply.bare 0x09)) ∧
    (g → ∃ v, ans (smWrite v (Adr.hcCtl h) (c.at 1 1)) (Reply.ok []) ∧
      ((hcOf t h).todo = [] → (hcOf t h).drain = false →
        OnlyRegs t { v with sm := t.sm } [Adr.hcCtl h, Adr.hcCtxl h, Adr.hcCtxh h, Adr.hcBldl h, Adr.hcBldh h, Adr.hcAge h] ∧
        v.flag (Adr.hcCtl h) 0 = false ∧ v.field (Adr.hcCtxl h) 31 12 = cx / 2 ^ 12 % 2 ^ 20 ∧ v.field (Adr.hcCtxh h) 15 0 = cx / 2 ^ 32 ∧
        v.field (Adr.hcCtxh h) 31 16 = n ∧ v.field (Adr.hcBldl h) 31 15 = bd / 2 ^ 15 % 2 ^ 17 ∧ v.field (Adr.hcBldh h) 15 0 = bd / 2 ^ 32 ∧
        v.field (Adr.hcAge h) 15 0 = c.at 16 2))) ∧
  Runs 0x0802 .hcRing (fun t c ans =>
    let h := c.at 0 1
    let r := c.at 1 1
    let b := c.at 2 6
    let z := c.at 8 1
    let f := c.at 9 1
    let named := h < 2 ∧ r < 4
    let okZ := named ∧ 4 ≤ z ∧ z ≤ 26
    let okF := okZ ∧ f < 4
    let okB := okF ∧ b % 0x1000 = 0 ∧ oneWindow b ((2 ^ z + 1) * 0x1000) = true
    let on := okB ∧ hcPowered t h = true ∧ winOpen t (winOf b) = true
    let go := on ∧ busyWindow t (winOf b) = false ∧ ∀ d, playing t h = some d → at_ d 0 1 ≠ r
    (2 ≤ h → ans t (Reply.badArg 0)) ∧ (h < 2 → 4 ≤ r → ans t (Reply.badArg 1)) ∧ (named → ¬ okZ → ans t (Reply.badArg 8)) ∧
    (okZ → ¬ okF → ans t (Reply.badArg 9)) ∧ (okF → ¬ okB → ans t (Reply.badArg 2)) ∧ (okB → ¬ on → ans t (Reply.bare 0x18)) ∧
    (on → ¬ go → ans t (Reply.bare 0x09)) ∧
    (go → ∃ v, OnlyRegs t { v with sm := t.sm } [Adr.rngCfg h r, Adr.rngBasel h r] ∧ v.flag (Adr.rngCfg h r) 22 = false ∧
      v.field (Adr.rngCfg h r) 15 0 = b / 2 ^ 32 ∧ v.field (Adr.rngCfg h r) 20 16 = z ∧ v.flag (Adr.rngCfg h r) 21 = f.testBit 0 ∧
      v.field (Adr.rngBasel h r) 31 12 = b / 2 ^ 12 % 2 ^ 20 ∧
      (f.testBit 1 = false → ans v (Reply.ok (le 4 (v.reg (Adr.rngProd h r)).toNat))) ∧
      (f.testBit 1 = true → ∃ u, u = smWrite v (Adr.rngCfg h r) (b / 2 ^ 32 + z * 2 ^ 16 + f % 2 * 2 ^ 21 + 2 ^ 22) ∧
        ans u (Reply.ok (le 4 (u.reg (Adr.rngProd h r)).toNat))))) ∧
  Runs 0x0803 .hcChannel (fun t c ans =>
    let chan := c.at 0 2
    let h := chan / 0x8000
    let op := c.at 2 1
    let named := 1 ≤ op ∧ op ≤ 4
    let on := named ∧ hcPowered t h = true ∧ t.flag (Adr.hcCtl h) 0 = true
    let go := on ∧ t.flag (Adr.hcCmd h) 19 = false ∧ ∀ d, playing t h = some d → at_ d 2 2 ≠ chan
    (¬ named → ans t (Reply.badArg 2)) ∧ (named → ¬ on → ans t (Reply.bare 0x18)) ∧ (on → ¬ go → ans t (Reply.bare 0x09)) ∧
    (go → ∃ v u, OnlyRegs t v [Adr.hcCmdcfg h, Adr.hcCmdper h] ∧ v.reg (Adr.hcCmdcfg h) = w32 (c.at 4 4) ∧
      v.reg (Adr.hcCmdper h) = w32 (c.at 8 4) ∧ u = devWrite v .sm (Adr.hcCmd h) (w32 (chan + op * 2 ^ 16 + 2 ^ 20)) ∧
      (u.flag (Adr.hcCmd h) 20 = true → ans u (Reply.fail 0x0C (u.field (Adr.hcCmd h) 23 21) 0xFFFF)) ∧
      (u.flag (Adr.hcCmd h) 20 = false → ans u (Reply.ok [])))) ∧
  Runs 0x0804 .hcPlayback (fun t c ans =>
    let h := c.at 0 1
    let a := c.at 2 6
    let named := h < 2 ∧ a % 64 = 0
    let on := named ∧ hcPowered t h = true ∧ (inWindow a = true → winOpen t (winOf a) = true)
    let go := on ∧ busyHc t h = false ∧ t.flag (Adr.pbCtl h) 1 = false ∧ jobFree t = true
    let d := (List.range 64).map (fun i => byteAt t (a + i))
    let out := at_ d 28 6
    let n := 16 * at_ d 36 4
    (2 ≤ h → ans t (Reply.badArg 0)) ∧ (h < 2 → a % 64 ≠ 0 → ans t (Reply.badArg 2)) ∧ (named → ¬ on → ans t (Reply.bare 0x18)) ∧
    (on → ¬ go → ans t (Reply.bare 0x09)) ∧
    (∀ v e, go → readMem (recallLoads t none a 64) agentSm a 64 = (v, .error e) → ans v (Reply.bare 0x14)) ∧
    (go → Readable t a 64 → inWindow a = false →
      (descriptorOk d = false → ans t (Reply.badArg 2)) ∧
      (descriptorOk d = true → c.byImage = true → imageHolds t c.cid out n = false → ans t (Reply.bare 0x07)) ∧
      (descriptorOk d = true → c.byImage = false → (grantedTo t out n 0 = true ∨ meetsReserved t out n = true) → ans t (Reply.bare 0x0F)) ∧
      (descriptorOk d = true → (c.byImage = true → imageHolds t c.cid out n = true) →
        (c.byImage = false → grantedTo t out n 0 = false ∧ meetsReserved t out n = false) →
        ∃ v, OnlyRegs t v [Adr.pbDescl h, Adr.pbDesch h] ∧ v.field (Adr.pbDescl h) 31 6 = a / 2 ^ 6 % 2 ^ 26 ∧
          v.field (Adr.pbDesch h) 15 0 = a / 2 ^ 32 ∧ StartsJob (devWrite v .sm (Adr.pbCtl h) 1) c (.playback h) ans)))

/-- Commands 0x0901 to 0x0F02 (R11, R285, R469, R508 to R518, R524, R561, R588, R606 to R608).
The model's own choices in it: logs 95, 96, 106. -/
def Obligations.CommandsRegs : Prop :=
  let le := leBytes
  let w32 := fun (n : Nat) => (BitVec.ofNat 32 n : Word)
  Runs 0x0901 .cueRoute (fun t c ans =>
    let ch := c.at 2 2
    let src := w32 (c.at 4 4)
    let cs := w32 (c.at 8 4)
    let rt := fun k => w32 (c.at (12 + 4 * k) 4)
    let named := ch < 1024 ∧ c.at 32 1 < 2
    let go := named ∧ domOn t 51 = true ∧ routeConflict t c = none
    let badRt := fun k => bit (rt k) 16 = true ∧ legalRoute (bits (rt k) 12 0) (bits (rt k) 18 17) = false
    let badSrc := bit src 16 = true ∧ bits src 11 0 ≠ 0 ∧ evLatch (bits src 11 0) = none
    let stopped := fun o => ∃ v, ans v (Reply.badArg o) ∧ v.flag (Adr.chSrc ch) 16 = false ∧ v.flag Adr.cxStat 0 = true ∧ v.mem = t.mem ∧ v.roles = t.roles
    (1024 ≤ ch → ans t (Reply.bare 0x0D)) ∧ (ch < 1024 → 2 ≤ c.at 32 1 → ans t (Reply.badArg 32)) ∧
    (named → domOn t 51 = false → ans t (Reply.bare 0x14)) ∧
    (∀ k, named → domOn t 51 = true → routeConflict t c = some k → ans t (Reply.fail 0x0F k 0xFFFF)) ∧
    (go → badSheet cs = true → stopped 8) ∧
    (∀ k, go → badSheet cs = false → k < 4 → badRt k → (∀ j, j < k → ¬ badRt j) → stopped (12 + 4 * k)) ∧
    (go → badSheet cs = false → (∀ k, k < 4 → ¬ badRt k) → badSrc → stopped 4) ∧
    (go → badSheet cs = false → (∀ k, k < 4 → ¬ badRt k) → ¬ badSrc → ∃ u, ans u (Reply.ok []) ∧
      { u with regs := t.regs, sm := t.sm } = t ∧
      (∀ a, a ≠ Adr.chSrc ch → a ≠ Adr.chCs ch → (∀ k, k < 4 → a ≠ Adr.chRt ch k) → (∀ q, q ∈ routedQueues c → a ≠ Adr.cqConst q) →
        u.reg a = t.reg a) ∧
      u.field (Adr.chSrc ch) 11 0 = bits src 11 0 ∧ u.flag (Adr.chSrc ch) 16 = bit src 16 ∧ u.field (Adr.chCs ch) 9 0 = bits cs 9 0 ∧
      u.field (Adr.chCs ch) 16 12 = bits cs 16 12 ∧
      (∀ k, k < 4 → u.field (Adr.chRt ch k) 12 0 = bits (rt k) 12 0 ∧ u.field (Adr.chRt ch k) 18 16 = bits (rt k) 18 16) ∧
      ∀ q, q ∈ routedQueues c → u.field (Adr.cqConst q) 31 10 = if c.at 32 1 = 1 then bits (w32 (c.at 28 4)) 31 10 else t.field (Adr.cqConst q) 31 10)) ∧
  Runs 0x0902 .cueFire (fun t c ans =>
    let ch := c.at 0 2
    (1024 ≤ ch → ans t (Reply.bare 0x0D)) ∧ (ch < 1024 → domOn t 51 = false → ans t (Reply.bare 0x14)) ∧
    (ch < 1024 → domOn t 51 = true → (∀ k, k < 8 → (t.latch (1184 + k)).full = true) → ans t (Reply.bare 0x09)) ∧
    (∀ k, ch < 1024 → domOn t 51 = true → k < 8 → (t.latch (1184 + k)).full = false → (∀ j, j < k → (t.latch (1184 + j)).full = true) →
      ans (t.setLatch (1184 + k) ⟨true, 0, 0, metroLo t, ch, none, false, (c.pay.drop 2).take 6⟩) (Reply.ok []))) ∧
  (let sound := fun (t : State) (c : Cmd) => c.at 0 2 ≤ 0xFFE ∧ c.at 2 1 < 5 ∧ c.pay.length = 4 + 2 * c.at 3 1 ∧
    (∀ i, i < c.at 3 1 → itemOk t (c.at 2 1) (c.at (4 + 2 * i) 2) = true) ∧ (c.at 2 1 ≤ 2 → domOn t 59 = true)
  let refused := fun (t : State) (c : Cmd) (ans : State → Reply → Prop) =>
    (0xFFE < c.at 0 2 → ans t (Reply.badArg 0)) ∧ (c.at 0 2 ≤ 0xFFE → 5 ≤ c.at 2 1 → ans t (Reply.badArg 2)) ∧
    (c.at 0 2 ≤ 0xFFE → c.at 2 1 < 5 → c.pay.length ≠ 4 + 2 * c.at 3 1 → ans t (Reply.badArg 3)) ∧
    (∀ i, c.at 0 2 ≤ 0xFFE → c.at 2 1 < 5 → c.pay.length = 4 + 2 * c.at 3 1 → i < c.at 3 1 →
      itemOk t (c.at 2 1) (c.at (4 + 2 * i) 2) = false → (∀ j, j < i → itemOk t (c.at 2 1) (c.at (4 + 2 * j) 2) = true) →
      ans t (Reply.badArg (4 + 2 * i))) ∧
    (c.at 0 2 ≤ 0xFFE → c.at 2 1 ≤ 2 → c.pay.length = 4 + 2 * c.at 3 1 →
      (∀ i, i < c.at 3 1 → itemOk t (c.at 2 1) (c.at (4 + 2 * i) 2) = true) → domOn t 59 = false → ans t (Reply.bare 0x14))
  let items := fun (c : Cmd) => (List.range (c.at 3 1)).map (fun i => c.at (4 + 2 * i) 2)
  Runs 0x0A01 .pinClaim (fun t c ans => refused t c ans ∧
    (∀ pre x post o, sound t c → items c = pre ++ x :: post → (∀ y, y ∈ pre → claimConflict t (c.at 0 2) (c.at 2 1) y = none) →
      claimConflict t (c.at 0 2) (c.at 2 1) x = some o → ans t (Reply.fail 0x0F o 0xFFFF)) ∧
    (sound t c → (∀ y, y ∈ items c → claimConflict t (c.at 0 2) (c.at 2 1) y = none) → ∃ u, ans u (Reply.ok []) ∧
      u = (items c).foldl (claimItem (c.at 0 2) (c.at 2 1)) t ∧ ∀ y, y ∈ items c → c.at 2 1 = 0 → padCid u y = some (c.at 0 2))) ∧
  Runs 0x0A02 .pinRelease (fun t c ans => refused t c ans ∧
    let kind := c.at 2 1
    let held := ∀ y, y ∈ items c → holdsItem t (c.at 0 2) kind y = true
    let tied := fun y => kind = 0 ∧ padFunc t y ≠ 0
    (sound t c → ¬ held → ans t (Reply.bare 0x0D)) ∧
    (∀ k y, sound t c → held → (items c)[k]? = some y → tied y → (∀ j z, j < k → (items c)[j]? = some z → ¬ tied z) →
      ans t (Reply.fail 0x16 k 0xFFFF)) ∧
    (sound t c → held → (∀ y, y ∈ items c → ¬ tied y) → ∃ u, ans u (Reply.ok []) ∧ u.mem = t.mem ∧ u.roles = t.roles ∧
      ∀ y, y ∈ items c → (kind = 0 → padCid u y = none) ∧ (kind ≠ 0 → claimOf u kind (y % 256) = none)))) ∧
  Runs 0x0A03 .padRelease (fun t c ans =>
    let named := fun p => p < 192 ∧ (c.at (p / 8) 1).testBit (p % 8) = true
    let mine := ∀ p, named p → c.byImage = true → padCid t p = some c.cid
    (¬ mine → ans t (Reply.bare 0x07)) ∧
    (mine → ∃ u, ans u (Reply.ok []) ∧ { u with regs := t.regs, padLatch := t.padLatch } = t ∧
      (∀ p, p < 192 → u.reg (Adr.padCtl p) = if (c.at (p / 8) 1).testBit (p % 8) && t.flag (Adr.padCtl p) 6 then
        setBit (t.reg (Adr.padCtl p)) 6 false else t.reg (Adr.padCtl p)) ∧ ∀ a, (∀ p, p < 192 → a ≠ Adr.padCtl p) → u.reg a = t.reg a)) ∧
  Runs 0x0B01 .regRead (fun t c ans =>
    let a := c.at 0 6
    let n := c.at 6 1
    let p := fun i => (peekDev t (a + 4 * i)).2
    let ok := devWordAddr a = true ∧ 1 ≤ n ∧ n ≤ 52
    let still := ∀ i, i < n → pwmPosition t (a + 4 * i) = false
    (devWordAddr a = false → ans t (Reply.badArg 0)) ∧ (devWordAddr a = true → (n = 0 ∨ 52 < n) → ans t (Reply.badArg 6)) ∧
    (∀ i, ok → still → i < n → (p i).status = 0x14 → (∀ j, j < i → (p j).status ≠ 0x14) → ans t (Reply.fail 0x14 i 0xFFFF)) ∧
    (ok → still → (∀ i, i < n → (p i).status ≠ 0x14) → ∃ m, m < 2 ^ n ∧ (∀ i, i < n → m.testBit i = decide ((p i).status = 0x13)) ∧
      ans t ⟨if m = 0 then 0 else 0x13, le 8 m ++ (List.range n).flatMap (fun i => le 4 (p i).word.toNat), [], false⟩)) ∧
  (∀ (t : State) (a : Nat),
    let p := (peekDev t a).2
    (loadError t a = true → p.status = 0x14) ∧ (loadError t a = false → regionOf a = .block 247 → p = ⟨0x13, 0, 0, false, false⟩) ∧
    (loadError t a = false → (∀ q, regionOf a ≠ .port q) → clockOn t a = false → p = ⟨0x13, 0, 0, false, false⟩) ∧
    (loadError t a = false → (∀ q, regionOf a ≠ .port q) → regionOf a ≠ .block 247 → clockOn t a = true → pwmPosition t a = false →
      peekDev t a = (t, ⟨0, regValue t a, 0, false, false⟩)) ∧
    (∀ q, loadError t a = false → regionOf a = .port q → (peekDev t a).1 = t ∧ ((t.queue q).stages = [] → p = ⟨0, 0, 0, true, false⟩) ∧
      ∀ g l, (t.queue q).stages = g :: l → (g.slot = true ∧ g.filled = false → p = ⟨0, 0, 0, false, true⟩) ∧
        (g.slot = false ∨ g.filled = true → g.err = 0 → p = ⟨0, g.data, stageTags g (decide (q < 320) && g.poison), false, false⟩))) ∧
  Runs 0x0B02 .regWrite (fun t c ans =>
    let a := c.at 0 6
    let n := c.at 6 1
    let ok := devWordAddr a = true ∧ c.pay.length = 8 + 4 * n
    let denied := ∃ i, i < n ∧ writeDenied (a + 4 * i) = true
    (devWordAddr a = false → ans t (Reply.badArg 0)) ∧ (devWordAddr a = true → c.pay.length ≠ 8 + 4 * n → ans t (Reply.badArg 6)) ∧
    (ok → denied → ans t (Reply.bare 0x07)) ∧
    (∀ f : Nat → State, f 0 = t → (∀ i, i < n → f (i + 1) =
        touch (arriveWrite (f i) .sm (a + 4 * i) (w32 (c.at (8 + 4 * i) 4))) (a + 4 * i)) → ok → ¬ denied →
      let fails := fun i => isPort (a + 4 * i) = true ∨ storeError (f i) (a + 4 * i) = true
      (∀ i, i < n → fails i → (∀ j, j < i → ¬ fails j) → (f i).sm.cmdWait = none → ans (f i) (Reply.fail 0x14 i 0xFFFF)) ∧
      ((∀ i, i < n → ¬ fails i) → (f n).sm.cmdWait = none → ans (f n) (Reply.ok [])))) ∧
  Runs 0x0C01 .logRead (fun t c ans =>
    let n := c.at 4 1
    let from_ := w32 (c.at 0 4)
    let recs := t.log.recs
    let clear := (c.at 5 1).testBit 0
    let named := 1 ≤ n ∧ n ≤ 13
    let ok := named ∧ c.at 5 1 < 2 ∧ (clear = true → c.code = 1 ∨ c.code = 2)
    let oldest := t.log.next - w32 recs.length
    let head := le 4 t.log.next.toNat ++ le 4 oldest.toNat
    let d := (t.log.next - from_).toNat
    let none_ := d = 0 ∨ 2 ^ 31 ≤ d ∨ recs = []
    let first := recs.length - min d recs.length
    let l := (recs.drop first).take n
    let v := { t with freeNext := t.freeNext + 1 }
    (¬ named → ans t (Reply.badArg 4)) ∧ (named → 2 ≤ c.at 5 1 → ans t (Reply.badArg 5)) ∧
    (named → c.at 5 1 < 2 → clear = true → c.code ≠ 1 → c.code ≠ 2 → ans t (Reply.fail 0x07 0 5)) ∧
    (ok → none_ → ∃ x : Nat, ans v (Reply.ok (head ++ le 4 x ++ [0, 0, 0, 0]))) ∧
    (ok → ¬ none_ → ∃ phase : Nat → Bool,
      ans (if clear then { v with log := { t.log with recs := recs.drop (first + l.length) } } else v)
        (Reply.ok (head ++ le 4 (oldest + w32 first).toNat ++ le 1 l.length ++ [0, 0, 0] ++
          (List.range l.length).flatMap (fun i => match l[i]? with
            | some x => x.bytes (phase i)
            | none => []))))) ∧
  Runs 0x0D01 .timeSet (fun t c ans =>
    ans { t with sm := { t.sm with timeOff := BitVec.ofNat 64 (c.at 0 8) - t.metro.setWidth 64, timeUnset := false } } (Reply.ok (le 6 t.metro.toNat))) ∧
  Runs 0x0D02 .timeGet (fun t _ ans => ans t (Reply.ok (le 8 ((t.metro.toNat + t.sm.timeOff.toNat) % 2 ^ 64) ++ le 6 t.metro.toNat))) ∧
  Runs 0x0D03 .rtcAlarm (fun t c ans =>
    let x := c.at 0 8
    let now := (t.metro.toNat + t.sm.timeOff.toNat) % 2 ^ 64
    (x = 0 → ans { t with sm := { t.sm with alarm := none } } (Reply.ok [])) ∧ (x ≠ 0 → x < now → ans t (Reply.badArg 0)) ∧
    (x ≠ 0 → now ≤ x → ans { t with sm := { t.sm with alarm := some (BitVec.ofNat 64 x) } } (Reply.ok []))) ∧
  Runs 0x0E01 .fuseRead (fun t _ ans => ∃ p, ans t (Reply.ok p) ∧ p.length = 13 ∧
    (∀ k, k < 8 → p.getD k 0 = BitVec.ofNat 8 (keySlot t k).code) ∧ p.getD 8 0 = BitVec.ofNat 8 t.sm.ovlRollback ∧
    p.getD 9 0 = BitVec.ofNat 8 t.sm.records.length ∧ (∀ u, u < 16 → (at_ p 10 2).testBit u = (patchUnit t u).isSome) ∧
    p.getD 12 0 = if t.sm.debugDis then 1 else 0) ∧
  Runs 0x0E02 .keyProvision (fun t c ans =>
    let k := c.at 0 1
    let code := c.at 1 1
    let ok := 1 ≤ code ∧ code ≤ 5 ∧ (c.sess = none → code = 1)
    let mask : BitVec 256 := match c.sess with
      | some x => Config.hmac x.2.kcmd ([0x53, 0x4C, 0x37, 0x31, 0x36, 0x30, 0x20, 0x4B, 0x45, 0x59, 0x57, 0x52, 0x41, 0x50] ++ le 2 c.seq)
      | none => 0
    (8 ≤ k → ans t (Reply.badArg 0)) ∧ (k < 8 → ¬ ok → ans t (Reply.badArg 1)) ∧
    (k < 8 → ok → (keySlot t k).code ≠ 0 → ans t (Reply.bare 0x0F)) ∧
    (k < 8 → ok → (keySlot t k).code = 0 → ∃ u, ans u (Reply.ok []) ∧ { u with sm := { u.sm with keys := t.sm.keys } } = t ∧
      ∀ j, keySlot u j = if j = k then ⟨BitVec.ofNat 256 (c.at 4 32) ^^^ mask, code⟩ else keySlot t j)) ∧
  Runs 0x0E03 .keyRevoke (fun t c ans =>
    let k := c.at 0 1
    let other := ∃ j, j < 8 ∧ j ≠ k ∧ (keySlot t j).code = 1
    (8 ≤ k → ans t (Reply.badArg 0)) ∧ (k < 8 → (keySlot t k).code = 0 → ans t (Reply.bare 0x0D)) ∧
    (k < 8 → (keySlot t k).code ≠ 0 → ¬ other → ans t (Reply.bare 0x16)) ∧
    (k < 8 → (keySlot t k).code ≠ 0 → other → ∃ u l, ans u ⟨0, [], l, false⟩ ∧
      (∀ i, i ∈ l ↔ i < 4 ∧ ∃ y, sessionOf t i = some y ∧ y.slot = k) ∧
      { u with sm := { u.sm with keys := t.sm.keys, opens := t.sm.opens } } = t ∧
      (∀ j, keySlot u j = if j = k then { keySlot t k with code := 15 } else keySlot t j) ∧
      ∀ i, i < 4 → openOf u i = (openOf t i).bind (fun o => if o.slot = k then none else some o))) ∧
  Runs 0x0E04 .rollbackRaise (fun t c ans =>
    let n := c.at 0 1
    let ok := ∃ v, t.sm.overlay = some (v, n) ∧ t.sm.ovlRollback < n
    (ok → ans { t with sm := { t.sm with ovlRollback := n } } (Reply.ok [])) ∧ (¬ ok → ans t (Reply.badArg 0))) ∧
  Runs 0x0E05 .patchProgram (fun t c ans =>
    let u := c.at 0 1
    (16 ≤ u → ans t (Reply.badArg 0)) ∧ (u < 16 → patchUnit t u ≠ none → ans t (Reply.bare 0x0F)) ∧
    (u < 16 → patchUnit t u = none → ∃ v, ans v (Reply.ok []) ∧ { v with sm := { v.sm with patches := t.sm.patches } } = t ∧
      ∀ j, patchUnit v j = if j = u then some (w32 (c.at 4 4), w32 (c.at 8 4)) else patchUnit t j)) ∧
  Runs 0x0F01 .debugUnlock (fun t c ans =>
    let u := c.at 0 2
    let ok := c.set = 2 ∧ t.sm.debugDis = false ∧ uibPresent u = true ∧ c.at 2 1 < 2 ∧ c.at 3 1 < 2
    let sets := fun l => ∃ v, ans v (Reply.ok []) ∧ OnlyRegs t { v with sm := t.sm, roles := t.roles } [Adr.hwdStat] ∧
      v.sm = { t.sm with unlocked := l } ∧ DbtsFollow t v ∧ v.flag Adr.hwdStat 8 = l.any (fun x => x.2.2)
    (c.set ≠ 2 → ans t (Reply.bare 0x07)) ∧ (c.set = 2 → t.sm.debugDis = true → ans t (Reply.bare 0x17)) ∧
    (c.set = 2 → t.sm.debugDis = false → uibPresent u = false → ans t (Reply.bare 0x0D)) ∧
    (c.set = 2 → t.sm.debugDis = false → uibPresent u = true → 2 ≤ c.at 2 1 → ans t (Reply.badArg 2)) ∧
    (c.set = 2 → t.sm.debugDis = false → uibPresent u = true → c.at 2 1 < 2 → 2 ≤ c.at 3 1 → ans t (Reply.badArg 3)) ∧
    (ok → c.at 2 1 = 1 → sets (t.sm.unlocked.filter (fun x => !(uibChain x.1).contains u))) ∧
    (∀ i y, ok → c.at 2 1 = 0 → c.sess = some (i, y) → sets (t.sm.unlocked.filter (fun x => x.1 != u) ++ [(u, i, decide (c.at 3 1 = 1))])) ∧
    (ok → c.at 2 1 = 0 → c.sess = none → ans t (Reply.bare 0x07))) ∧
  Runs 0x0F02 .debugDisable (fun t c ans =>
    (c.at 0 4 ≠ 0x0D15AB1E → ans t (Reply.badArg 0)) ∧
    (c.at 0 4 = 0x0D15AB1E → ∃ u l, ans u ⟨0, [], l, false⟩ ∧ (∀ i, i ∈ l ↔ i < 4 ∧ ∃ y, sessionOf t i = some y ∧ y.code = 5) ∧
      OnlyRegs t { u with sm := t.sm, roles := t.roles } [Adr.hwdStat] ∧ u.sm.debugDis = true ∧ u.sm.unlocked = [] ∧ DbtsFollow t u ∧
      { u.sm with debugDis := t.sm.debugDis, unlocked := t.sm.unlocked, opens := t.sm.opens } = t.sm ∧ u.flag Adr.hwdStat 8 = false ∧
      ∀ i, i < 4 → openOf u i = (openOf t i).bind (fun o => if (keySlot t o.slot).code = 5 then none else some o)))

/-- HOUSE_ENTRY_BEGIN, POWER_ENTRY, NAP_ENTRY, HOUSE_EXIT, WALK_SCAN, SPI_WAKE, WAKE_I2C_MATCH, WAKE_PIN and RTC_ALARM_MATCH (R541, R544
to R564). Exits are stated with no write held for a stopped clock, that from KEEP with nothing recorded to rewrite.
The model's own choices in it: logs 76, 77, 82, 84. -/
def Obligations.House : Prop :=
  let setOf := fun (s : State) (d : Nat) => s.field (Adr.domainSet (d / 16)) (2 * (d % 16) + 1) (2 * (d % 16))
  let tod := fun (s : State) => (s.metro.toNat + s.sm.timeOff.toNat) % 2 ^ 64
  let clears := fun (u : State) => u.sm.sessions = [] ∧ u.sm.opens = [] ∧ u.sm.unlocked = []
  (∀ s : State,
    (∀ t banks, s.sm.entering ≠ .answered t banks) ∨ (∃ t banks, s.sm.entering = .answered t banks ∧ t < 2) →
      exec .houseEntryBegin s = .next s) ∧
  (∀ (s : State) (g : Nat) (banks : List Nat), s.sm.entering = .answered g banks → 2 ≤ g → g ≤ 5 →
    ∃ u, exec .houseEntryBegin s = .next u ∧ u.sm.entering = .waiting ∧ u.boot.perst = 3 ∧ u.field Adr.pmTarget 2 0 = g ∧
      u.flag Adr.pmMode 0 = true ∧ u.flag Adr.pmMode 1 = true ∧ u.flag Adr.pmMode 2 = decide (g = 2 ∨ g = 4) ∧
      (∀ d, d < 66 → setOf u d =
        if d < 40 ∨ d = 50 then (if g = 2 then 3 else if g = 3 then 1 else 2)
        else if d = 52 then (if g = 2 ∨ g = 3 then 1 else if g = 4 then 3 else 2)
        else if d = 65 then (if g = 5 then 2 else 0)
        else if g = 3 ∧ d ≠ 53 ∧ d ≠ 55 ∧ d ≠ 56 ∧ d ≠ 63 ∧ d ≠ 64 then 1 else 2) ∧
      (g = 2 → ∀ n, n < 192 → u.flag (Adr.pmBankret (n / 32)) (n % 32) = decide (n ∈ banks)) ∧
      (g = 4 → ∀ n, n < 192 → u.flag (Adr.pmBankret (n / 32)) (n % 32) = decide (n = 176)) ∧
      (g = 2 ∨ g = 5 → clears u ∧ ∀ r, (u.role r).dbt = Ticket.null) ∧
      (∀ b, g = 4 → s.sm.walkNext = some b → u.reg Adr.wtPeriod = BitVec.ofNat 32 (at_ b 0 4) ∧ u.reg Adr.wtCtl = BitVec.ofNat 32 (at_ b 4 4) ∧
        ∀ i, i < 16 → u.reg (Adr.wtWin i) = BitVec.ofNat 32 (at_ b (8 + 4 * i) 4))) ∧
  (∀ s : State,
    let t := s.field Adr.pmTarget 2 0
    let armed := s.flag Adr.pmMode 0 = true ∧ houseNow s ≤ 1 ∧ domOn s 52 = true ∧ s.sm.cmdWait = none ∧ 3 ≤ s.field Adr.bootStat 2 0
    (¬ armed → exec .powerEntry s = .next s) ∧
    (armed → ∃ u, exec .powerEntry s = .next u ∧ u.field Adr.pmStat 3 0 = t ∧ u.flag Adr.pmMode 0 = false ∧ u.sm.entering = .no ∧
      u.sm.wakeLatch = none ∧ (∀ d, d < 66 → domSetting u d = if setOf s d = 0 then domSetting s d else setOf s d) ∧
      (∀ d, d < 64 → clockInState t d = false → u.flag (Adr.xcStat d) 0 = false) ∧
      (t ≠ 0 → u.sm.wakeDue = (s.sm.wakeDue || s.sm.wakeLatch.isSome || (levelWake s).isSome)) ∧
      (t = 4 → u.reg Adr.wtScans = 0) ∧ (t = 5 → u.metro = 0 ∧ u.sm.timeOff = s.sm.timeOff + s.metro.setWidth 64) ∧
      (t ≠ 5 → u.metro = s.metro ∧ u.sm.timeOff = s.sm.timeOff))) ∧
  (∀ (s : State) (d a : Nat), d ≤ 50 → domainOf a = some d → onChip a = true → domSetting s d ≠ 2 →
    byteAt (requestDom s d 2) a = 0 ∧ ∀ b, domainOf b ≠ some d → byteAt (requestDom s d 2) b = byteAt s b) ∧
  (∀ s : State,
    ((∀ banks, s.sm.entering ≠ .answered 1 banks) → exec .napEntry s = .next s) ∧
    (∀ banks, s.sm.entering = .answered 1 banks → ∃ u, exec .napEntry s = .next u ∧ u.field Adr.pmStat 3 0 = 1 ∧ u.field Adr.pmMode 1 0 = 0 ∧
      u.sm.entering = .no ∧ u.sm.wakeLatch = none ∧ (∀ d, d < 64 → clockInState 1 d = false → u.flag (Adr.xcStat d) 0 = false) ∧
      u.sm.wakeDue = (s.sm.wakeDue || s.sm.wakeLatch.isSome || (levelWake s).isSome))) ∧
  (∀ s : State,
    let st := houseNow s
    let due := s.sm.wakeDue = true ∧ s.boot.porst = false ∧ s.boot.brown = 0
    let runs := fun (u : State) => u.field Adr.pmStat 3 0 = 0 ∧ u.sm.wakeDue = false ∧
      ∀ d, d < 64 → clockInState 0 d = true → (s.time.refclk = true ∨ fromRefclk d = false) → u.flag (Adr.xcStat d) 0 = true
    let asSet := fun (u : State) => ∀ d, d < 66 → powTab s d < 4 → domSetting u d = powTab s d ∧ setOf u d = powTab s d
    (¬ due ∨ st = 0 → exec .houseExit s = .next s) ∧
    (due → st = 1 → s.heldW = [] → ∃ u, exec .houseExit s = .next u ∧ runs u ∧ u.mem = s.mem ∧ u.roles = s.roles) ∧
    (due → st = 3 → s.heldW = [] → ∃ u, exec .houseExit s = .next u ∧ runs u ∧ asSet u ∧ u.mem = s.mem ∧ u.sm.keepRoles = [] ∧
      u.sm.unlocked = [] ∧ u.boot.hwdAt = s.metro ∧ u.sm.sessions = s.sm.sessions ∧
      (∀ r, r ∈ s.sm.keepRoles → (u.role r).frozen = false ∧ (u.role r).pc = (s.role r).pc) ∧
      ∀ r, r ∉ s.sm.keepRoles → (u.role r).frozen = (s.role r).frozen) ∧
    (due → st = 2 → s.heldW = [] → s.sm.keepRegs = [] → ∃ u, exec .houseExit s = .next u ∧ runs u ∧ asSet u ∧ u.sm.keepRoles = [] ∧
      u.boot.hwdAt = s.metro ∧ (s.sm.keepRoles = [] → u.mem = s.mem) ∧
      ∀ r, r ∈ s.sm.keepRoles → imageOf s r = none → (u.role r).started = true ∧ (u.role r).pc = 0) ∧
    (due → 4 ≤ st → ∃ u, exec .houseExit s = .next u ∧ u.roles = [] ∧ u.sm.images = [] ∧ u.field Adr.pmStat 3 0 = 0 ∧
      u.boot.since = some s.metro ∧ u.field Adr.bootStat 2 0 = (if s.time.refclk then 2 else 1) ∧ u.metro = s.metro ∧
      u.sm.sessions = (if st = 4 then s.sm.sessions else []) ∧ u.log = (if st = 4 then s.log else State.reset.log) ∧
      ∀ a, a < 2 ^ 48 → byteAt u a = 0)) ∧
  (∀ (codes : List (BitVec 12)) (s : State),
    let sel := (List.range 16).filter (fun i => s.flag Adr.wtCtl i)
    let scans := houseNow s = 4 ∧ s.sm.wakeDue = false ∧ codes.length = sel.length
    let pairs := sel.zip (codes.map (fun c => c.toNat))
    let out := fun (x : Nat × Nat) => x.2 < s.field (Adr.wtWin x.1) 11 0 ∨ s.field (Adr.wtWin x.1) 27 16 < x.2
    let n := s.reg Adr.wtScans + 1
    let count := s.field Adr.wtCtl 31 16
    let hit := count ≠ 0 ∧ n.toNat = count
    (¬ scans → exec (.walkScan codes) s = .next s) ∧
    (scans → ∃ v, v.reg Adr.wtScans = n ∧
      OnlyRegs s v (Adr.wtScans :: Adr.wtViol :: (List.range 16).map Adr.wtLast) ∧
      (∀ x, x ∈ pairs → v.field (Adr.wtLast x.1) 11 0 = x.2 ∧ (v.flag (Adr.wtLast x.1) 12 = true ↔ out x) ∧ v.flag (Adr.wtLast x.1) 13 = true) ∧
      (pairs ≠ [] → ∀ i, i < 16 → i ∉ sel → v.flag (Adr.wtLast i) 13 = false) ∧
      ((∀ x, x ∈ pairs → ¬ out x) → ¬ hit → exec (.walkScan codes) s = .next v) ∧
      ((∀ x, x ∈ pairs → ¬ out x) → hit → v.reg Adr.wtViol = 0 ∧ exec (.walkScan codes) s = .next (startWake v 5 0)) ∧
      (∀ pre x post, pairs = pre ++ x :: post → (∀ y, y ∈ pre → ¬ out y) → out x →
        (∀ y, y ∈ pairs → (v.flag Adr.wtViol y.1 = true ↔ out y)) ∧ (v.flag Adr.wtViol 16 = true ↔ hit) ∧
        exec (.walkScan codes) s = .next (startWake v 4 x.1)))) ∧
  (∀ (src detail : Nat) (s : State), src < 16 → detail < 256 →
    (houseNow s = 0 → startWake s src detail = s) ∧
    (houseNow s ≠ 0 → s.sm.wakeDue = true → startWake s src detail = s.incField Adr.wakeStat 7 4) ∧
    (houseNow s ≠ 0 → s.sm.wakeDue = false → ∃ u, startWake s src detail = u ∧ u.sm = { s.sm with wakeDue := true } ∧
      OnlyRegs s { u with sm := s.sm } [Adr.wakeRecord, Adr.wakeTimel 0, Adr.wakeTimel 1, Adr.wakeStat] ∧
      u.field Adr.wakeRecord 3 0 = src ∧ u.field Adr.wakeRecord 11 4 = detail ∧ u.field Adr.wakeRecord 14 12 = houseNow s ∧
      u.field Adr.wakeRecord 31 16 = min 0xFFFF (s.field Adr.wakeRecord 31 16 + 1) ∧ u.reg (Adr.wakeTimel 0) = BitVec.ofNat 32 (tod s) ∧
      u.reg (Adr.wakeTimel 1) = BitVec.ofNat 32 (tod s / 2 ^ 32) ∧ u.field Adr.wakeStat 7 4 = 0 ∧ u.flag Adr.wakeStat 0 = s.flag Adr.wakeStat 0)) ∧
  (∀ (read : Bool) (s : State),
    let entering := s.sm.entering ≠ .no ∧ houseNow s = 0
    let edge := fun (i : Instr) (s : State) src detail =>
      (¬ entering → exec i s = .next (startWake s src detail)) ∧
      (entering → s.sm.wakeLatch = none → exec i s = .next { s with sm := { s.sm with wakeLatch := some (src, detail) } }) ∧
      (entering → s.sm.wakeLatch ≠ none → exec i s = .next (s.incField Adr.wakeStat 7 4))
    edge .spiWake s 7 0 ∧
    (houseNow s = 0 → s.sm.entering = .no → exec (.wakeI2cMatch read) s = .next (s.incField Adr.wakeI2c 15 8)) ∧
    (houseNow s ≠ 0 ∨ s.sm.entering ≠ .no →
      (s.flag Adr.wakeI2c 7 = true → edge (.wakeI2cMatch read) s 1 (if read then 1 else 0)) ∧
      (s.flag Adr.wakeI2c 7 = false → exec (.wakeI2cMatch read) s = .next s)) ∧
    (s.sm.alarm = none → exec .rtcAlarmMatch s = .next s) ∧
    (∀ t, s.sm.alarm = some t → tod s < t.toNat → exec .rtcAlarmMatch s = .next s) ∧
    (∀ t, s.sm.alarm = some t → t.toNat ≤ tod s →
      exec .rtcAlarmMatch s = .next (startWake ({ s with sm := { s.sm with alarm := none } }.setFlag Adr.wakeStat 0 true) 3 0))) ∧
  (∀ (n : Fin 16) (level : Bool) (s : State),
    let w := s.reg (Adr.wakePin n)
    let pol := bits w 3 1
    let was := bit w 6
    let acts := (pol = 0 ∨ pol = 3) ∧ level = true ∧ was = false ∨ (pol = 1 ∨ pol = 4) ∧ level = false ∧ was = true ∨
      (pol = 2 ∨ 5 ≤ pol) ∧ level ≠ was
    let t := s.setFlag (Adr.wakePin n) 6 level
    (¬ acts → exec (.wakePin n level) s = .next t) ∧
    (acts → ∃ v, (1 < houseNow s → v = t) ∧
      (houseNow s ≤ 1 → ∃ l, l.length = 6 ∧ v = raiseEvent { t with freeNext := s.freeNext + 1 } (0x3C0 + n) 0 l none) ∧
      (bit w 0 = false → exec (.wakePin n level) s = .next v) ∧
      (bit w 0 = true → pol ≤ 2 → exec (.wakePin n level) s = .next (edgeWake v 2 n)) ∧
      (bit w 0 = true → 2 < pol → exec (.wakePin n level) s = .next (startWake v 2 n))))

/-- AON_POWER_ON, PORST_ASSERT, PORST_RELEASE, BROWNOUT, BROWNOUT_RECOVERY, HOUSE_WATCHDOG_EXPIRY, SRAM_BIST_DONE, WINDOW_READY_BOOT and
REFCLK_RETURN at step 1 (R519 to R537, R563, R651, R654). The watchdog's is stated with nothing to drain.
The model's own choices in it: logs 97, 98, 99, 100. -/
def Obligations.Boot : Prop :=
  let zeroed := fun (u : State) => ∀ a, a < 2 ^ 48 → byteAt u a = 0
  let emptied := fun (u : State) => u.roles = [] ∧ u.queues = [] ∧ u.staging = [] ∧ u.sm.sessions = [] ∧ u.sm.images = [] ∧ u.sm.jobs = []
  let fused := fun (s u : State) => u.sm.keys = s.sm.keys ∧ u.sm.patches = s.sm.patches ∧ u.sm.records = s.sm.records ∧
    u.sm.ownerFuse = s.sm.ownerFuse ∧ u.sm.ovlRollback = s.sm.ovlRollback ∧ u.sm.debugDis = s.sm.debugDis
  let others := fun (s u : State) (keep : Nat → Bool) => ∀ a, a ≠ Adr.rstCause → a ≠ Adr.cxlCfg → (∀ p, p < 192 → a ≠ Adr.padCtl p) →
    (∀ p n, p < 2 → n < 4 → a ≠ Adr.hdmCtl p n) → u.reg a = if keep a = true ∧ a ≠ Adr.fuseCtl then s.reg a else regReset a
  let latched := fun (s u : State) => (∀ p, p < 192 → u.flag (Adr.padCtl p) 6 = true ∧ u.flag (Adr.padCtl p) 5 = s.flag (Adr.padCtl p) 5 ∧
    (s.flag (Adr.padCtl p) 6 = false → Sparse.get (fun _ => PadShow.hiz) u.padLatch p = padShows s p) ∧
    (s.flag (Adr.padCtl p) 6 = true → Sparse.get (fun _ => PadShow.hiz) u.padLatch p = Sparse.get (fun _ => PadShow.hiz) s.padLatch p))
  let noted := fun (s u : State) (src : Nat) => u.field Adr.rstCause 2 0 = src ∧ u.flag Adr.rstCause (4 + src) = true ∧
    u.field Adr.rstCause 31 16 = min 0xFFFF (s.field Adr.rstCause 31 16 + 1)
  let booted := fun (s u : State) => u.boot.since = some s.metro ∧ u.boot.dirRead = false ∧ u.boot.todo = [] ∧ u.reg Adr.bootFail = 0 ∧
    u.field Adr.pmStat 3 0 = 0 ∧ u.metro = s.metro ∧ u.mem = s.mem ∧ u.roles = s.roles ∧
    (s.time.refclk = false → u.field Adr.bootStat 2 0 = 1 ∧ ∀ d, d < 64 → u.flag (Adr.xcStat d) 0 = !fromRefclk d) ∧
    (s.time.refclk = true → u.field Adr.bootStat 2 0 = 2 ∧ u.sm.ownerRead = s.sm.ownerFuse ∧
      (∀ d, d < 66 → d ≠ 48 → d ≠ 49 → domOn u d = true) ∧ (∀ k, k < 2 → domOn u (48 + k) = (carriedBy u (168 + k)).isSome) ∧
      ∀ p, p < 192 → u.flag (Adr.padCtl p) 6 = true ∧ (s.flag (Adr.padCtl p) 6 = false → Sparse.get (fun _ => PadShow.hiz) u.padLatch p =
        match bits (Sparse.get (fun _ => (0 : Word)) s.sm.ownerFuse (20 + p / 16)) (2 * (p % 16) + 1) (2 * (p % 16)) with
        | 1 => ⟨false, true, 0⟩
        | 2 => ⟨true, true, 0⟩
        | 3 => ⟨false, false, 2⟩
        | _ => PadShow.hiz))
  (∀ s : State, ∃ u, exec .aonPowerOn s = .next u ∧ zeroed u ∧ emptied u ∧ fused s u ∧ u.boot.porst = true ∧ u.boot.brown = s.boot.brown ∧
    u.metro = 0 ∧ u.log = State.reset.log ∧ u.sm.timeUnset = true ∧ u.sm.alarm = none ∧ u.pending = s.pending ∧ u.padLatch = [] ∧
    (∀ k, k < 8 → lockout u k = if (keySlot s k).code = 0 then ⟨0, 0, 0⟩ else ⟨0, 6, 60⟩) ∧
    ∀ a, u.reg a = if keptReg a = true ∧ a ≠ Adr.rstCause then s.reg a else regReset a) ∧
  (∀ s : State,
    (s.boot.porst = true → exec .porstAssert s = .next s) ∧
    (s.boot.porst = false → ∃ u, exec .porstAssert s = .next u ∧ zeroed u ∧ emptied u ∧ fused s u ∧ others s u survives ∧ latched s u ∧ noted s u 1 ∧
      u.boot.porst = true ∧ u.metro = 0 ∧ u.sm.timeOff = s.sm.timeOff + s.metro.setWidth 64 ∧ u.sm.vid = 30 ∧ u.sm.vidTarget = 30 ∧
      u.log = State.reset.log ∧ u.sm.lockouts = s.sm.lockouts ∧ u.sm.alarm = s.sm.alarm ∧ u.sm.mirrorRec = s.sm.mirrorRec ∧ u.pending = s.pending)) ∧
  (∀ (src : Fin 4) (s : State),
    let row := exec (.brownout src) s
    let acts := s.boot.brown = 0 ∧ (src.val = 1 ∨ houseNow s ≤ 1)
    (¬ acts → row = .next s) ∧
    (acts → s.boot.porst = true → ∃ u, row = .next u ∧ OnlyRegs s { u with boot := s.boot } [Adr.rstCause] ∧ u.flag Adr.rstCause 6 = true ∧
      u.field Adr.rstCause 10 8 = src.val + 1 ∧ u.boot = { s.boot with brown := src.val + 1, brownLow := decide (1 < houseNow s) }) ∧
    (acts → s.boot.porst = false → ∃ u, row = .next u ∧ zeroed u ∧ emptied u ∧ fused s u ∧ others s u survivesWarm ∧ latched s u ∧ noted s u 2 ∧
      u.field Adr.rstCause 10 8 = src.val + 1 ∧ u.boot.brown = src.val + 1 ∧ u.metro = s.metro ∧ u.log = s.log ∧ u.sm.vid = s.sm.vid ∧
      u.sm.timeOff = s.sm.timeOff)) ∧
  (∀ s : State,
    let cfg := fun (u : State) => { s with boot := { s.boot with porst := false } } = u ∧ s.sm.cxlNext = none ∨
      ∃ mode spd winc ide, s.sm.cxlNext = some (mode, spd, winc, ide) ∧
        u = { s with boot := { s.boot with porst := false } }.setField Adr.cxlCfg 6 0 (mode + spd * 4 + winc * 16 + ide * 64)
    (s.boot.porst = false → exec .porstRelease s = .next s) ∧
    (s.boot.porst = true → s.boot.brown ≠ 0 → ∃ u, exec .porstRelease s = .next u ∧ cfg u) ∧
    (s.boot.porst = true → s.boot.brown = 0 → ∃ v u, cfg v ∧ exec .porstRelease s = .next u ∧ booted v u ∧ u.boot.porst = false)) ∧
  (∀ s : State,
    let v := if s.boot.brownLow then startWake s 6 s.boot.brown else s
    (s.boot.brown = 0 → exec .brownoutRecovery s = .next s) ∧
    (s.boot.brown ≠ 0 → s.boot.porst = true → ∃ u, exec .brownoutRecovery s = .next u ∧ u.boot = { s.boot with brown := 0, brownLow := false } ∧
      { u with boot := s.boot, sm := s.sm } = { v with sm := s.sm }) ∧
    (s.boot.brown ≠ 0 → s.boot.porst = false → ∃ u, exec .brownoutRecovery s = .next u ∧ booted v u ∧ u.boot.brown = 0 ∧ u.sm.wakeDue = false)) ∧
  (∀ s : State,
    let calm := (∀ a, s.staged a = []) ∧ s.scenes = [] ∧ s.caches = [] ∧ s.cxl.reqs = []
    (hwdCounts s = false → exec .houseWatchdogExpiry s = .next s) ∧
    (hwdCounts s = true → calm → ∃ u, exec .houseWatchdogExpiry s = .next u ∧ emptied u ∧ fused s u ∧ noted s u 3 ∧ u.mem = s.mem ∧
      u.tags = s.tags ∧ u.metro = s.metro ∧ u.log = s.log ∧ u.boot.perst = s.boot.perst ∧ u.boot.since = some s.metro ∧
      u.field Adr.hwdStat 23 16 = min 0xFF (s.field Adr.hwdStat 23 16 + 1) ∧
      (∀ p, p < 2 → u.reg (Adr.cxlLink p) = s.reg (Adr.cxlLink p)) ∧ (∀ w, w < 3 → u.reg (Adr.cxlWin w) = s.reg (Adr.cxlWin w)) ∧
      u.flag Adr.smStat 2 = s.time.refclk ∧ u.field Adr.bootStat 2 0 = if s.time.refclk then 3 else 1)) ∧
  (∀ s : State,
    let now := s.field Adr.bootStat 2 0 = 2 ∧ s.boot.porst = false ∧ s.boot.brown = 0 ∧ houseNow s = 0
    (¬ now → exec .sramBistDone s = .next s) ∧
    (now → ∃ u, exec .sramBistDone s = .next u ∧ OnlyRegs s u [Adr.smStat, Adr.bootStat] ∧ u.reg Adr.smStat = setBit (s.reg Adr.smStat) 2 true ∧
      u.field Adr.bootStat 2 0 = 3 ∧ u.field Adr.bootStat 31 3 = s.field Adr.bootStat 31 3)) ∧
  (∀ s : State, s.time.refclk = false → s.boot.porst = false → s.boot.brown = 0 → s.field Adr.bootStat 2 0 = 1 →
    ∃ u, exec .refclkReturn s = .next u ∧ u.field Adr.bootStat 2 0 = 2 ∧ u.time = { s.time with refclk := true } ∧
      u.sm.ownerRead = s.sm.ownerFuse ∧ ∀ d, d < 64 → u.flag (Adr.xcStat d) 0 = true) ∧
  (∀ (w : Fin 3) (s : State),
    let row := exec (.windowReadyBoot w) s
    let up := s.flag Adr.smStat 2 = true ∧ winOpen s w = true ∧ houseNow s = 0
    let calm := s.sm.keepRegs = [] ∧ s.boot.resume = [] ∧ s.boot.todo = []
    let cfg : Word := Sparse.get (fun _ => 0) s.sm.ownerRead 16
    let reads := s.boot.dirRead = false ∧ bits cfg 1 0 ≠ 1 ∧ bits cfg 3 2 = w.val
    let adr := (w.val + 1) * 2 ^ 40 + bits (Sparse.get (fun _ => (0 : Word)) s.sm.ownerRead 17) 27 0 * 0x1000
    let t := if s.field Adr.bootStat 2 0 < 4 then s.setField Adr.bootStat 2 0 4 else s
    let t' := { t with boot := { t.boot with dirRead := true } }
    let badDir := fun (b : List Byte) => at_ b 0 4 ≠ 0x52494442 ∨ 16 < at_ b 4 1
    let skips := fun (v : State) => ∃ l, l.length = 7 ∧ row = .next ((notice ({ v with freeNext := v.freeNext + 1 }.setFlag Adr.bootStat 3 true)
      242 0x58 l).setField Adr.bootStat 2 0 6)
    (¬ up → row = .next s) ∧
    (up → calm → s.boot.dirRead = true → row = .next (t.setField Adr.bootStat 2 0 6)) ∧
    (up → calm → s.boot.dirRead = false → ¬ reads → row = .next t) ∧
    (∀ v e, up → calm → reads → readMem (recallLoads t' none adr 4096) agentSm adr 4096 = (v, .error e) → skips v) ∧
    (∀ v b, up → calm → reads → readMem (recallLoads t' none adr 4096) agentSm adr 4096 = (v, .ok b) → badDir b → skips v) ∧
    (∀ v b, up → calm → reads → readMem (recallLoads t' none adr 4096) agentSm adr 4096 = (v, .ok b) → ¬ badDir b → at_ b 4 1 = 0 →
      row = .next (v.setField Adr.bootStat 2 0 6))) ∧
  (∀ (s t : State) (i a f : Nat) (l : LoadEnd), loadImage s a (f.testBit 2) (f.testBit 3) = (t, l) →
    (l.status ≠ 0 → bootImage s (i, a, f) =
      notice (t.setFlag Adr.bootFail i true) 242 0x58 (leBytes 1 i ++ leBytes 2 l.status ++ leBytes 2 l.detail)) ∧
    (l.status = 0 → f.testBit 0 = false → bootImage s (i, a, f) = t) ∧
    (∀ img, l.status = 0 → f.testBit 0 = true → imageOfCid t l.cid = some img →
      bootImage s (i, a, f) = (startImage t img 0 (if f.testBit 2 then 1 else 0)).incField Adr.bootStat 15 8))

/-- TAP_RESET, EXTEST, SAMPLE_PRELOAD, IDCODE, YALNOV, BYPASS, LINK_READ, LINK_WRITE and TRACE_PACKET_SENT (R475, R503, R602 to R606,
R622 to R624, R630, R662). The model's own choices in it: logs 8, 104, 105. -/
def Obligations.TapAndLink : Prop :=
  (∀ s : State,
    let ir := fun (c : BitVec 5) => { s with tap := { s.tap with ir := c } }
    exec .tapReset s = .next (ir 2) ∧ exec .idcode s = .next (ir 2) ∧ exec .yalnov s = .next (ir 8) ∧ exec .bypass s = .next (ir 31) ∧
    tapShows (ir 2) = 0x271609CB ∧ tapShows (ir 31) = 0 ∧ tapShows (ir 0) = s.tap.capt.toNat ∧ tapShows (ir 1) = s.tap.capt.toNat ∧
    (domOn s 63 = true → tapShows (ir 8) = s.tap.status + s.tap.addr.toNat * 2 ^ 2 + s.tap.data.toNat * 2 ^ 18)) ∧
  (∀ (cells : BitVec 738) (s : State),
    let cap := fun (i : Instr) (c : BitVec 5) => ∃ v : BitVec 738, exec i s = .next { s with
        freeNext := s.freeNext + 3, tap := { s.tap with ir := c, cells := cells, capt := v } } ∧
      (∀ p, p < 192 → let j := 3 * (if p < 96 then p else p + 52)
        v.getLsbD j = s.flag (Adr.padCtl p) 5 ∧ v.getLsbD (j + 1) = (padShows s p).level ∧ v.getLsbD (j + 2) = (padShows s p).drive) ∧
      (∀ n, n < 16 → v.getLsbD (3 * (132 + n)) = s.flag (Adr.wakePin n) 6 ∧ v.getLsbD (3 * (132 + n) + 1) = false ∧ v.getLsbD (3 * (132 + n) + 2) = false) ∧
      (∀ n, n < 6 → v.getLsbD (3 * (120 + n) + 1) = s.sm.vid.testBit n) ∧
      v.getLsbD (3 * 128) = !s.cxl.pfail ∧ v.getLsbD (3 * 129) = !s.boot.porst ∧
      v.getLsbD (3 * 102 + 1) = false ∧ v.getLsbD (3 * 102 + 2) = hspiIrq s ∧
      v.getLsbD (3 * 127 + 1) = false ∧ (v.getLsbD (3 * 127 + 2) = true ↔ ∃ k, k < 136 ∧ coreDark s k = true) ∧
      (∀ p, p < 2 → v.getLsbD (3 * (244 + p) + 1) = !s.boot.perst.testBit p)
    cap (.extest cells) 0 ∧ cap (.samplePreload cells) 1 ∧
    ∀ p, p < 192 → let j := 3 * (if p < 96 then p else p + 52)
      extestPad { s with tap := { s.tap with ir := 0, cells := cells } } p =
        if s.boot.porst then some (cells.getLsbD (j + 1), cells.getLsbD (j + 2)) else none) ∧
  (∀ (addr : BitVec 16) (v : Word) (s : State),
    let on := s.tap.ir = 8 ∧ domOn s 63 = true
    let rd := exec (.linkRead addr) s
    let wr := exec (.linkWrite addr v) s
    let a := addr.toNat * 4
    let tgt := s.tap.addrl.toNat + s.tap.addrh.toNat % 2 ^ 16 * 2 ^ 32
    let own := on ∧ 0x1000 ≤ a
    let acts := own ∧ s.sm.debugDis = false ∧ (∃ i y, i < 4 ∧ sessionOf s i = some y ∧ y.code = 5 ∧ y.set = 2) ∧ s.sm.unlocked ≠ []
    let ended := fun (t : State) (st : Nat) (d : Word) (code : Nat) => { t with tap := { t.tap with
      status := st, addr := addr, data := if st = 0 then d else 0, errcode := if st = 2 then code else t.tap.errcode } }
    let next := fun (t : State) => if bit t.tap.addrh 16 then { t with tap := { t.tap with
      addrl := BitVec.ofNat 32 ((tgt + 4) % 2 ^ 48), addrh := BitVec.ofNat 32 ((tgt + 4) % 2 ^ 48 / 2 ^ 32 + 2 ^ 16) } } else t
    let data := acts ∧ a = 0x100C
    let reach := linkReaches s tgt = true
    (¬ on → rd = .next s ∧ wr = .next s) ∧
    (on → a < 0x1000 → portsAnswer s = true → rd = .next (ended s 0 (mbRead s 2 a) 0) ∧ wr = .next (ended (mbWrite s 2 a v) 0 0 0)) ∧
    (on → a < 0x1000 → portsAnswer s = false → rd = .next (ended s 2 0 0x14) ∧ wr = .next (ended s 2 0 0x14)) ∧
    (own → s.sm.debugDis = true → wr = .next (ended s 2 0 0x17) ∧ rd = .next (if a = 0x1000 then ended s 0 (dlStat s) 0 else ended s 2 0 0x17)) ∧
    (own → s.sm.debugDis = false → ¬ acts → rd = .next (ended s 2 0 0x07) ∧ wr = .next (ended s 2 0 0x07)) ∧
    (acts → a = 0x1000 → rd = .next (ended s 0 (dlStat s) 0) ∧ wr = .next (ended s 0 0 0)) ∧
    (acts → a = 0x1004 → rd = .next (ended s 0 s.tap.addrl 0) ∧
      wr = .next (ended { s with tap := { s.tap with addrl := v &&& 0xFFFFFFFC } } 0 0 0)) ∧
    (acts → a = 0x1008 → rd = .next (ended s 0 s.tap.addrh 0) ∧
      wr = .next (ended { s with tap := { s.tap with addrh := v &&& 0x1FFFF } } 0 0 0)) ∧
    (acts → 0x1010 ≤ a → rd = .next (ended s 0 0 0) ∧ wr = .next (ended s 0 0 0)) ∧
    (data → ¬ reach → rd = .next (ended s 2 0 0x07) ∧ wr = .next (ended s 2 0 0x07)) ∧
    (data → reach → isMemory tgt = true → inCxl tgt = false → Readable s tgt 4 → ∃ w : Word, rd = .next (next (ended s 0 w 0)) ∧
      (∀ i, i < 4 → BitVec.ofNat 8 (w.toNat / 256 ^ i) = byteAt s (tgt + i))) ∧
    (∀ q, data → reach → isMemory tgt = false → regionOf tgt = .port q → ∃ p, (peekDev s tgt).2 = p ∧
      rd = .next (next (ended (let t := (peekDev s tgt).1; { t with tap := { t.tap with qtags := p.tags, qempty := p.empty, qunfilled := p.unfilled } })
        (if p.status = 0 then 0 else 2) p.word p.status))) ∧
    (data → reach → isMemory tgt = false → (∀ q, regionOf tgt ≠ .port q) → ∃ p t, peekDev s tgt = (t, p) ∧
      rd = .next (next (ended t (if p.status = 0 then 0 else 2) p.word p.status))) ∧
    (data → reach → holdStalls s tgt = true → wr = .next (ended s 1 0 0)) ∧
    (data → reach → holdStalls s tgt = false → isPort tgt = true → wr = .next (next (ended s 2 0 0x0C))) ∧
    (data → reach → holdStalls s tgt = false → isPort tgt = false → storeError s tgt = true → wr = .next (next (ended s 2 0 0x14))) ∧
    (data → reach → holdStalls s tgt = false → isPort tgt = false → storeError s tgt = false → isMemory tgt = true →
      wr = .next (linkAdvance (ended (smStore s tgt (leBytes 4 v.toNat)) 0 0 0))) ∧
    (data → reach → holdStalls s tgt = false → isPort tgt = false → storeError s tgt = false → isMemory tgt = false →
      wr = .next (linkAdvance (ended (arriveWrite s .link tgt v) 0 0 0)))) ∧
  (∀ s : State,
    let t := s.trace
    let on := s.flag Adr.trCtl 0 = true ∧ domOn s 63 = true
    let count := fun (x : Trace) => if x.sent + 1 < 4096 then { x with sent := x.sent + 1 } else { x with sent := 0, syncOwed := true }
    let sends := fun (p : DWord) (x : Trace) => exec .tracePacketSent s = .next { s with trace := { x with last := p } }
    let owes := 0 < t.owed ∧ t.fifo.length < 256
    (¬ on → exec .tracePacketSent s = .next s) ∧
    (on → owes → sends (packet s 5 0 (min t.owed 0xFFFF)) (count { t with owed := 0 })) ∧
    (on → ¬ owes → t.syncOwed = true → sends (BitVec.ofNat 64 (6 + s.metro.toNat * 2 ^ 14)) { t with syncOwed := false, sent := 0 }) ∧
    (∀ p l, on → ¬ owes → t.syncOwed = false → t.fifo = p :: l → sends p (count { t with fifo := l })) ∧
    (on → ¬ owes → t.syncOwed = false → t.fifo = [] → sends 0 t))

/-- From a canonical state every step leaves a canonical one, with the first command gone from the queue (logs 1, 6).
The model's own choices in it: logs 1, 6. -/
def Obligations.StepKeepsCanonical : Prop :=
  ∀ s s' : State, s.Canonical → step s = .next s' → s'.Canonical ∧ s'.pending = s.pending.tail

/-- State.reset (R53, R478, R519, R536, R602, R651; the tick is log 1, values the manual does not give logs 6 and 7).
The model's own choices in it: logs 1, 6, 7, 97. -/
def Obligations.ResetState : Prop :=
  let z := State.reset
  z.Canonical ∧ z.pending = [] ∧ step z = .next { z with sm := { z.sm with timeOff := 1 } } ∧ (∀ a, z.reg a = regReset a) ∧
  z.reg Adr.rstCause = 0x10 ∧ z.reg Adr.bootStat = 0xFFFF0000 ∧ z.reg Adr.hwdStat = 0x14 ∧ z.reg Adr.smNote = 0xC000 ∧ z.reg Adr.smDarkpol = 1 ∧
  z.reg Adr.smIdle = 600 ∧ z.reg (Adr.wakePin 15) = 0x10 ∧ z.reg Adr.wtPeriod = 1000 ∧ z.reg (Adr.rngCfg 1 3) = 0x40000 ∧
  (∀ r, (z.role r).started = false ∧ (z.role r).pc = 0 ∧ (∀ n, (z.role r).greg n = 0) ∧ (z.role r).stack = []) ∧
  z.sm.sessions = [] ∧ z.sm.images = [] ∧ z.sm.vid = 30 ∧ z.metro = 0 ∧ z.boot.porst = true ∧ z.tap.ir = 2 ∧ houseNow z = 0 ∧
  (∀ d, d < 66 → (domOn z d = true ↔ d ≠ 48 ∧ d ≠ 49)) ∧ ∀ a, byteAt z a = 0
end

