-- ==== Sys2Proof/Laws/Sparse.lean ====
section
/-! SUPPORT. Laws of sparse maps: what a read finds after a write, and that writes and filters keep the canonical form. -/

namespace Sys2Proof.Machine.Sparse

variable {V : Type}

theorem get_erase_self (d : Nat → V) (m : Sparse V) (k : Nat) : get d (erase m k) k = d k := by
  induction m with
  | nil => rfl
  | cons e m ih =>
    obtain ⟨k', v⟩ := e
    by_cases h : k' = k <;> simp [erase, get, h, ih]

theorem get_erase_ne (d : Nat → V) (m : Sparse V) {k j : Nat} (h : j ≠ k) : get d (erase m k) j = get d m j := by
  induction m with
  | nil => rfl
  | cons e m ih =>
    obtain ⟨k', v⟩ := e
    by_cases hk : k' = k
    · subst hk; simp [erase, get, ih, h.symm]
    · by_cases hj : k' = j
      · subst hj; simp [erase, get, hk]
      · simp [erase, get, hk, hj, ih]

theorem get_insert_self (d : Nat → V) (m : Sparse V) (k : Nat) (v : V) :
    get d (insert (erase m k) k v) k = v := by
  induction m with
  | nil => simp [erase, insert, get]
  | cons e m ih =>
    obtain ⟨k', v'⟩ := e
    by_cases hk : k' = k
    · simp [erase, hk, ih]
    · by_cases hl : k < k' <;> simp [erase, insert, get, hk, hl, ih]

theorem get_insert_ne (d : Nat → V) (m : Sparse V) {k j : Nat} (v : V) (h : j ≠ k) : get d (insert m k v) j = get d m j := by
  induction m with
  | nil => simp [insert, get, h.symm]
  | cons e m ih =>
    obtain ⟨k', v'⟩ := e
    by_cases hl : k < k'
    · simp [insert, get, hl, h.symm]
    · by_cases hj : k' = j
      · subst hj; simp [insert, get, hl]
      · simp [insert, get, hl, hj, ih]

variable [DecidableEq V]

/-- A read of the key just written finds the value written. -/
@[simp] theorem get_put_self (d : Nat → V) (m : Sparse V) (k : Nat) (v : V) : get d (put d m k v) k = v := by
  by_cases h : v = d k
  · simp [put, h, get_erase_self]
  · simp [put, h, get_insert_self]

/-- A read of another key finds what it found before. -/
@[simp] theorem get_put_ne (d : Nat → V) (m : Sparse V) {k j : Nat} (v : V) (h : j ≠ k) : get d (put d m k v) j = get d m j := by
  by_cases hv : v = d k
  · simp [put, hv, get_erase_ne d m h]
  · simp [put, hv, get_insert_ne d _ v h, get_erase_ne d m h]

theorem erase_erase (m : Sparse V) (k : Nat) : erase (erase m k) k = erase m k := by
  induction m with
  | nil => rfl
  | cons a m ih =>
    obtain ⟨j, v⟩ := a
    by_cases h : j = k
    · simp only [erase, h, if_true, ih]
    · simp only [erase, h, if_false, ih]

theorem erase_insert (m : Sparse V) (k : Nat) (v : V) : erase (insert m k v) k = erase m k := by
  induction m with
  | nil => simp [insert, erase]
  | cons a m ih =>
    obtain ⟨j, w⟩ := a
    by_cases h : k < j
    · simp [insert, h, erase, show ¬ j = k by omega]
    · by_cases hj : j = k
      · subst hj
        simp [insert, erase, ih]
      · simp only [insert, h, if_false, erase, hj, ih]

/-- The last value put at a key is the one that stays. -/
@[simp] theorem put_put (d : Nat → V) (m : Sparse V) (k : Nat) (v w : V) : put d (put d m k v) k w = put d m k w := by
  have : erase (put d m k v) k = erase m k := by
    unfold put
    split
    · exact erase_erase m k
    · rw [erase_insert, erase_erase]
  simp only [put] at this ⊢
  rw [this]

theorem get_put (d : Nat → V) (m : Sparse V) (k j : Nat) (v : V) : get d (put d m k v) j = if j = k then v else get d m j := by
  by_cases h : j = k
  · simp [h]
  · simp [h]

theorem wfFrom_mono (d : Nat → V) (m : Sparse V) {a b : Nat} (hab : a ≤ b) (h : wfFrom d (some b) m = true) :
    wfFrom d (some a) m = true := by
  cases m with
  | nil => rfl
  | cons e m =>
    obtain ⟨k, v⟩ := e
    simp only [wfFrom, Bool.and_eq_true, decide_eq_true_eq] at h ⊢
    exact ⟨⟨Nat.lt_of_le_of_lt hab h.1.1, h.1.2⟩, h.2⟩

theorem wfFrom_none (d : Nat → V) (m : Sparse V) {lo : Option Nat} (h : wfFrom d lo m = true) : wfFrom d none m = true := by
  cases m with
  | nil => rfl
  | cons e m =>
    obtain ⟨k, v⟩ := e
    simp only [wfFrom, Bool.and_eq_true, Bool.true_and] at h ⊢
    exact ⟨h.1.2, h.2⟩

theorem wfFrom_lower (d : Nat → V) (m : Sparse V) {lo : Option Nat} {k : Nat} (hlo : ∀ b, lo = some b → b < k)
    (h : wfFrom d (some k) m = true) : wfFrom d lo m = true := by
  cases lo with
  | none => exact wfFrom_none d m h
  | some b => exact wfFrom_mono d m (Nat.le_of_lt (hlo b rfl)) h

theorem wfFrom_erase (d : Nat → V) (m : Sparse V) (k : Nat) :
    ∀ lo, wfFrom d lo m = true → wfFrom d lo (erase m k) = true := by
  induction m with
  | nil => intro lo _; rfl
  | cons e m ih =>
    obtain ⟨k', v⟩ := e
    intro lo h
    simp only [wfFrom, Bool.and_eq_true] at h
    by_cases hk : k' = k
    · simp only [erase, hk, if_true]
      refine ih lo (wfFrom_lower d m (k := k') ?_ h.2)
      intro b hb
      subst hb
      simpa using h.1.1
    · simp only [erase, hk, if_false, wfFrom, Bool.and_eq_true]
      exact ⟨h.1, ih (some k') h.2⟩

theorem wfFrom_insert (d : Nat → V) (m : Sparse V) (k : Nat) (v : V) (hv : v ≠ d k) :
    ∀ lo, (∀ b, lo = some b → b < k) → wfFrom d lo (erase m k) = true → wfFrom d lo (insert (erase m k) k v) = true := by
  induction m with
  | nil =>
    intro lo hlo _
    cases lo with
    | none => simp [erase, insert, wfFrom, hv]
    | some b => simp [erase, insert, wfFrom, hv, hlo b rfl]
  | cons e m ih =>
    obtain ⟨k', v'⟩ := e
    intro lo hlo h
    by_cases hk : k' = k
    · simp only [erase, hk, if_true] at h ⊢
      exact ih lo hlo h
    · simp only [erase, hk, if_false, wfFrom, Bool.and_eq_true] at h
      by_cases hl : k < k'
      · simp only [erase, hk, if_false, insert, hl, if_true, wfFrom, Bool.and_eq_true]
        refine ⟨⟨?_, by simpa using hv⟩, ⟨by simp [hl], h.1.2⟩, h.2⟩
        cases lo with
        | none => rfl
        | some b => simpa using hlo b rfl
      · simp only [erase, hk, if_false, insert, hl, wfFrom, Bool.and_eq_true]
        refine ⟨h.1, ih (some k') ?_ h.2⟩
        intro b hb
        cases hb
        omega

/-- A write keeps the canonical form. -/
theorem wf_put (d : Nat → V) (m : Sparse V) (k : Nat) (v : V) (h : wf d m = true) : wf d (put d m k v) = true := by
  unfold put wf at *
  by_cases hv : v = d k
  · simpa [hv] using wfFrom_erase d m k none h
  · simp only [hv, if_false]
    exact wfFrom_insert d m k v hv none (by simp) (wfFrom_erase d m k none h)

theorem wfFrom_filter (d : Nat → V) (p : Nat × V → Bool) (m : Sparse V) :
    ∀ lo, wfFrom d lo m = true → wfFrom d lo (m.filter p) = true := by
  induction m with
  | nil => intro lo _; rfl
  | cons e m ih =>
    obtain ⟨k, v⟩ := e
    intro lo h
    simp only [wfFrom, Bool.and_eq_true] at h
    by_cases hp : p (k, v) = true
    · simp only [List.filter_cons, hp, if_true, wfFrom, Bool.and_eq_true]
      exact ⟨h.1, ih (some k) h.2⟩
    · simp only [List.filter_cons, hp]
      refine ih lo (wfFrom_lower d m (k := k) ?_ h.2)
      intro b hb
      subst hb
      simpa using h.1.1

/-- A loss of entries keeps the canonical form. -/
theorem wf_filter (d : Nat → V) (p : Nat × V → Bool) (m : Sparse V) (h : wf d m = true) : wf d (m.filter p) = true :=
  wfFrom_filter d p m none h

end Sys2Proof.Machine.Sparse
end

