-- ==== Sys2Proof/Laws/State.lean ====
section
/-! SUPPORT. Laws of the state: one lemma for each field and update, and for each part read after an update. -/

namespace Sys2Proof.Machine.State

variable (s : State)

@[simp] theorem setRole_pending (r : Nat) (x : Role) : (s.setRole r x).pending = s.pending := rfl
@[simp] theorem setRole_freeNext (r : Nat) (x : Role) : (s.setRole r x).freeNext = s.freeNext := rfl
@[simp] theorem setRole_mem (r : Nat) (x : Role) : (s.setRole r x).mem = s.mem := rfl
@[simp] theorem setRole_tags (r : Nat) (x : Role) : (s.setRole r x).tags = s.tags := rfl
@[simp] theorem setRole_tagBad (r : Nat) (x : Role) : (s.setRole r x).tagBad = s.tagBad := rfl
@[simp] theorem setRole_cw (r : Nat) (x : Role) : (s.setRole r x).cw = s.cw := rfl
@[simp] theorem setRole_fixQ (r : Nat) (x : Role) : (s.setRole r x).fixQ = s.fixQ := rfl
@[simp] theorem setRole_regs (r : Nat) (x : Role) : (s.setRole r x).regs = s.regs := rfl
@[simp] theorem setRole_scenes (r : Nat) (x : Role) : (s.setRole r x).scenes = s.scenes := rfl
@[simp] theorem setRole_cores (r : Nat) (x : Role) : (s.setRole r x).cores = s.cores := rfl
@[simp] theorem setRole_staging (r : Nat) (x : Role) : (s.setRole r x).staging = s.staging := rfl
@[simp] theorem setRole_queues (r : Nat) (x : Role) : (s.setRole r x).queues = s.queues := rfl
@[simp] theorem setRole_latches (r : Nat) (x : Role) : (s.setRole r x).latches = s.latches := rfl
@[simp] theorem setRole_writers (r : Nat) (x : Role) : (s.setRole r x).writers = s.writers := rfl
@[simp] theorem setRole_ovf (r : Nat) (x : Role) : (s.setRole r x).ovf = s.ovf := rfl
@[simp] theorem setRole_caches (r : Nat) (x : Role) : (s.setRole r x).caches = s.caches := rfl
@[simp] theorem setRole_xev (r : Nat) (x : Role) : (s.setRole r x).xev = s.xev := rfl
@[simp] theorem setRole_cin (r : Nat) (x : Role) : (s.setRole r x).cin = s.cin := rfl
@[simp] theorem setRole_uibIn (r : Nat) (x : Role) : (s.setRole r x).uibIn = s.uibIn := rfl
@[simp] theorem setRole_log (r : Nat) (x : Role) : (s.setRole r x).log = s.log := rfl
@[simp] theorem setRole_trace (r : Nat) (x : Role) : (s.setRole r x).trace = s.trace := rfl
@[simp] theorem setRole_cxl (r : Nat) (x : Role) : (s.setRole r x).cxl = s.cxl := rfl
@[simp] theorem setRole_hcFail (r : Nat) (x : Role) : (s.setRole r x).hcFail = s.hcFail := rfl
@[simp] theorem setRole_hc (r : Nat) (x : Role) : (s.setRole r x).hc = s.hc := rfl
@[simp] theorem setRole_heldW (r : Nat) (x : Role) : (s.setRole r x).heldW = s.heldW := rfl
@[simp] theorem setRole_ser (r : Nat) (x : Role) : (s.setRole r x).ser = s.ser := rfl
@[simp] theorem setRole_pulse (r : Nat) (x : Role) : (s.setRole r x).pulse = s.pulse := rfl
@[simp] theorem setRole_adc (r : Nat) (x : Role) : (s.setRole r x).adc = s.adc := rfl
@[simp] theorem setRole_padLatch (r : Nat) (x : Role) : (s.setRole r x).padLatch = s.padLatch := rfl
@[simp] theorem setRole_vioOff (r : Nat) (x : Role) : (s.setRole r x).vioOff = s.vioOff := rfl
@[simp] theorem setRole_scrub (r : Nat) (x : Role) : (s.setRole r x).scrub = s.scrub := rfl
@[simp] theorem setRole_sm (r : Nat) (x : Role) : (s.setRole r x).sm = s.sm := rfl
@[simp] theorem setRole_boot (r : Nat) (x : Role) : (s.setRole r x).boot = s.boot := rfl
@[simp] theorem setRole_tap (r : Nat) (x : Role) : (s.setRole r x).tap = s.tap := rfl
@[simp] theorem setRole_metro (r : Nat) (x : Role) : (s.setRole r x).metro = s.metro := rfl
@[simp] theorem setRole_time (r : Nat) (x : Role) : (s.setRole r x).time = s.time := rfl
@[simp] theorem setRole_scene (r : Nat) (x : Role) (j : Nat) : (s.setRole r x).scene j = s.scene j := rfl
@[simp] theorem setRole_core (r : Nat) (x : Role) (j : Nat) : (s.setRole r x).core j = s.core j := rfl
@[simp] theorem setRole_queue (r : Nat) (x : Role) (j : Nat) : (s.setRole r x).queue j = s.queue j := rfl
@[simp] theorem setRole_latch (r : Nat) (x : Role) (j : Nat) : (s.setRole r x).latch j = s.latch j := rfl
@[simp] theorem setRole_staged (r : Nat) (x : Role) (j : Nat) : (s.setRole r x).staged j = s.staged j := rfl
@[simp] theorem setRole_writer (r : Nat) (x : Role) (j : Nat) : (s.setRole r x).writer j = s.writer j := rfl
@[simp] theorem setRole_ovfOf (r : Nat) (x : Role) (j : Nat) : (s.setRole r x).ovfOf j = s.ovfOf j := rfl
@[simp] theorem setRole_xevOf (r : Nat) (x : Role) (j : Nat) : (s.setRole r x).xevOf j = s.xevOf j := rfl
@[simp] theorem setRole_cinOf (r : Nat) (x : Role) (j : Nat) : (s.setRole r x).cinOf j = s.cinOf j := rfl
@[simp] theorem setRole_uibInOf (r : Nat) (x : Role) (j : Nat) : (s.setRole r x).uibInOf j = s.uibInOf j := rfl
@[simp] theorem setRole_reg (r : Nat) (x : Role) (j : Nat) : (s.setRole r x).reg j = s.reg j := rfl
@[simp] theorem setRole_field (r : Nat) (x : Role) (j h l : Nat) : (s.setRole r x).field j h l = s.field j h l := rfl
@[simp] theorem setRole_flag (r : Nat) (x : Role) (j m : Nat) : (s.setRole r x).flag j m = s.flag j m := rfl

@[simp] theorem modRole_pending (r : Nat) (f : Role → Role) : (s.modRole r f).pending = s.pending := rfl
@[simp] theorem modRole_freeNext (r : Nat) (f : Role → Role) : (s.modRole r f).freeNext = s.freeNext := rfl
@[simp] theorem modRole_mem (r : Nat) (f : Role → Role) : (s.modRole r f).mem = s.mem := rfl
@[simp] theorem modRole_tags (r : Nat) (f : Role → Role) : (s.modRole r f).tags = s.tags := rfl
@[simp] theorem modRole_tagBad (r : Nat) (f : Role → Role) : (s.modRole r f).tagBad = s.tagBad := rfl
@[simp] theorem modRole_cw (r : Nat) (f : Role → Role) : (s.modRole r f).cw = s.cw := rfl
@[simp] theorem modRole_fixQ (r : Nat) (f : Role → Role) : (s.modRole r f).fixQ = s.fixQ := rfl
@[simp] theorem modRole_regs (r : Nat) (f : Role → Role) : (s.modRole r f).regs = s.regs := rfl
@[simp] theorem modRole_scenes (r : Nat) (f : Role → Role) : (s.modRole r f).scenes = s.scenes := rfl
@[simp] theorem modRole_cores (r : Nat) (f : Role → Role) : (s.modRole r f).cores = s.cores := rfl
@[simp] theorem modRole_staging (r : Nat) (f : Role → Role) : (s.modRole r f).staging = s.staging := rfl
@[simp] theorem modRole_queues (r : Nat) (f : Role → Role) : (s.modRole r f).queues = s.queues := rfl
@[simp] theorem modRole_latches (r : Nat) (f : Role → Role) : (s.modRole r f).latches = s.latches := rfl
@[simp] theorem modRole_writers (r : Nat) (f : Role → Role) : (s.modRole r f).writers = s.writers := rfl
@[simp] theorem modRole_ovf (r : Nat) (f : Role → Role) : (s.modRole r f).ovf = s.ovf := rfl
@[simp] theorem modRole_caches (r : Nat) (f : Role → Role) : (s.modRole r f).caches = s.caches := rfl
@[simp] theorem modRole_xev (r : Nat) (f : Role → Role) : (s.modRole r f).xev = s.xev := rfl
@[simp] theorem modRole_cin (r : Nat) (f : Role → Role) : (s.modRole r f).cin = s.cin := rfl
@[simp] theorem modRole_uibIn (r : Nat) (f : Role → Role) : (s.modRole r f).uibIn = s.uibIn := rfl
@[simp] theorem modRole_log (r : Nat) (f : Role → Role) : (s.modRole r f).log = s.log := rfl
@[simp] theorem modRole_trace (r : Nat) (f : Role → Role) : (s.modRole r f).trace = s.trace := rfl
@[simp] theorem modRole_cxl (r : Nat) (f : Role → Role) : (s.modRole r f).cxl = s.cxl := rfl
@[simp] theorem modRole_hcFail (r : Nat) (f : Role → Role) : (s.modRole r f).hcFail = s.hcFail := rfl
@[simp] theorem modRole_hc (r : Nat) (f : Role → Role) : (s.modRole r f).hc = s.hc := rfl
@[simp] theorem modRole_heldW (r : Nat) (f : Role → Role) : (s.modRole r f).heldW = s.heldW := rfl
@[simp] theorem modRole_ser (r : Nat) (f : Role → Role) : (s.modRole r f).ser = s.ser := rfl
@[simp] theorem modRole_pulse (r : Nat) (f : Role → Role) : (s.modRole r f).pulse = s.pulse := rfl
@[simp] theorem modRole_adc (r : Nat) (f : Role → Role) : (s.modRole r f).adc = s.adc := rfl
@[simp] theorem modRole_padLatch (r : Nat) (f : Role → Role) : (s.modRole r f).padLatch = s.padLatch := rfl
@[simp] theorem modRole_vioOff (r : Nat) (f : Role → Role) : (s.modRole r f).vioOff = s.vioOff := rfl
@[simp] theorem modRole_scrub (r : Nat) (f : Role → Role) : (s.modRole r f).scrub = s.scrub := rfl
@[simp] theorem modRole_sm (r : Nat) (f : Role → Role) : (s.modRole r f).sm = s.sm := rfl
@[simp] theorem modRole_boot (r : Nat) (f : Role → Role) : (s.modRole r f).boot = s.boot := rfl
@[simp] theorem modRole_tap (r : Nat) (f : Role → Role) : (s.modRole r f).tap = s.tap := rfl
@[simp] theorem modRole_metro (r : Nat) (f : Role → Role) : (s.modRole r f).metro = s.metro := rfl
@[simp] theorem modRole_time (r : Nat) (f : Role → Role) : (s.modRole r f).time = s.time := rfl
@[simp] theorem modRole_scene (r : Nat) (f : Role → Role) (j : Nat) : (s.modRole r f).scene j = s.scene j := rfl
@[simp] theorem modRole_core (r : Nat) (f : Role → Role) (j : Nat) : (s.modRole r f).core j = s.core j := rfl
@[simp] theorem modRole_queue (r : Nat) (f : Role → Role) (j : Nat) : (s.modRole r f).queue j = s.queue j := rfl
@[simp] theorem modRole_latch (r : Nat) (f : Role → Role) (j : Nat) : (s.modRole r f).latch j = s.latch j := rfl
@[simp] theorem modRole_staged (r : Nat) (f : Role → Role) (j : Nat) : (s.modRole r f).staged j = s.staged j := rfl
@[simp] theorem modRole_writer (r : Nat) (f : Role → Role) (j : Nat) : (s.modRole r f).writer j = s.writer j := rfl
@[simp] theorem modRole_ovfOf (r : Nat) (f : Role → Role) (j : Nat) : (s.modRole r f).ovfOf j = s.ovfOf j := rfl
@[simp] theorem modRole_xevOf (r : Nat) (f : Role → Role) (j : Nat) : (s.modRole r f).xevOf j = s.xevOf j := rfl
@[simp] theorem modRole_cinOf (r : Nat) (f : Role → Role) (j : Nat) : (s.modRole r f).cinOf j = s.cinOf j := rfl
@[simp] theorem modRole_uibInOf (r : Nat) (f : Role → Role) (j : Nat) : (s.modRole r f).uibInOf j = s.uibInOf j := rfl
@[simp] theorem modRole_reg (r : Nat) (f : Role → Role) (j : Nat) : (s.modRole r f).reg j = s.reg j := rfl
@[simp] theorem modRole_field (r : Nat) (f : Role → Role) (j h l : Nat) : (s.modRole r f).field j h l = s.field j h l := rfl
@[simp] theorem modRole_flag (r : Nat) (f : Role → Role) (j m : Nat) : (s.modRole r f).flag j m = s.flag j m := rfl

@[simp] theorem setScene_pending (r : Nat) (x : Scene) : (s.setScene r x).pending = s.pending := rfl
@[simp] theorem setScene_freeNext (r : Nat) (x : Scene) : (s.setScene r x).freeNext = s.freeNext := rfl
@[simp] theorem setScene_mem (r : Nat) (x : Scene) : (s.setScene r x).mem = s.mem := rfl
@[simp] theorem setScene_tags (r : Nat) (x : Scene) : (s.setScene r x).tags = s.tags := rfl
@[simp] theorem setScene_tagBad (r : Nat) (x : Scene) : (s.setScene r x).tagBad = s.tagBad := rfl
@[simp] theorem setScene_cw (r : Nat) (x : Scene) : (s.setScene r x).cw = s.cw := rfl
@[simp] theorem setScene_fixQ (r : Nat) (x : Scene) : (s.setScene r x).fixQ = s.fixQ := rfl
@[simp] theorem setScene_regs (r : Nat) (x : Scene) : (s.setScene r x).regs = s.regs := rfl
@[simp] theorem setScene_roles (r : Nat) (x : Scene) : (s.setScene r x).roles = s.roles := rfl
@[simp] theorem setScene_cores (r : Nat) (x : Scene) : (s.setScene r x).cores = s.cores := rfl
@[simp] theorem setScene_staging (r : Nat) (x : Scene) : (s.setScene r x).staging = s.staging := rfl
@[simp] theorem setScene_queues (r : Nat) (x : Scene) : (s.setScene r x).queues = s.queues := rfl
@[simp] theorem setScene_latches (r : Nat) (x : Scene) : (s.setScene r x).latches = s.latches := rfl
@[simp] theorem setScene_writers (r : Nat) (x : Scene) : (s.setScene r x).writers = s.writers := rfl
@[simp] theorem setScene_ovf (r : Nat) (x : Scene) : (s.setScene r x).ovf = s.ovf := rfl
@[simp] theorem setScene_caches (r : Nat) (x : Scene) : (s.setScene r x).caches = s.caches := rfl
@[simp] theorem setScene_xev (r : Nat) (x : Scene) : (s.setScene r x).xev = s.xev := rfl
@[simp] theorem setScene_cin (r : Nat) (x : Scene) : (s.setScene r x).cin = s.cin := rfl
@[simp] theorem setScene_uibIn (r : Nat) (x : Scene) : (s.setScene r x).uibIn = s.uibIn := rfl
@[simp] theorem setScene_log (r : Nat) (x : Scene) : (s.setScene r x).log = s.log := rfl
@[simp] theorem setScene_trace (r : Nat) (x : Scene) : (s.setScene r x).trace = s.trace := rfl
@[simp] theorem setScene_cxl (r : Nat) (x : Scene) : (s.setScene r x).cxl = s.cxl := rfl
@[simp] theorem setScene_hcFail (r : Nat) (x : Scene) : (s.setScene r x).hcFail = s.hcFail := rfl
@[simp] theorem setScene_hc (r : Nat) (x : Scene) : (s.setScene r x).hc = s.hc := rfl
@[simp] theorem setScene_heldW (r : Nat) (x : Scene) : (s.setScene r x).heldW = s.heldW := rfl
@[simp] theorem setScene_ser (r : Nat) (x : Scene) : (s.setScene r x).ser = s.ser := rfl
@[simp] theorem setScene_pulse (r : Nat) (x : Scene) : (s.setScene r x).pulse = s.pulse := rfl
@[simp] theorem setScene_adc (r : Nat) (x : Scene) : (s.setScene r x).adc = s.adc := rfl
@[simp] theorem setScene_padLatch (r : Nat) (x : Scene) : (s.setScene r x).padLatch = s.padLatch := rfl
@[simp] theorem setScene_vioOff (r : Nat) (x : Scene) : (s.setScene r x).vioOff = s.vioOff := rfl
@[simp] theorem setScene_scrub (r : Nat) (x : Scene) : (s.setScene r x).scrub = s.scrub := rfl
@[simp] theorem setScene_sm (r : Nat) (x : Scene) : (s.setScene r x).sm = s.sm := rfl
@[simp] theorem setScene_boot (r : Nat) (x : Scene) : (s.setScene r x).boot = s.boot := rfl
@[simp] theorem setScene_tap (r : Nat) (x : Scene) : (s.setScene r x).tap = s.tap := rfl
@[simp] theorem setScene_metro (r : Nat) (x : Scene) : (s.setScene r x).metro = s.metro := rfl
@[simp] theorem setScene_time (r : Nat) (x : Scene) : (s.setScene r x).time = s.time := rfl
@[simp] theorem setScene_role (r : Nat) (x : Scene) (j : Nat) : (s.setScene r x).role j = s.role j := rfl
@[simp] theorem setScene_core (r : Nat) (x : Scene) (j : Nat) : (s.setScene r x).core j = s.core j := rfl
@[simp] theorem setScene_queue (r : Nat) (x : Scene) (j : Nat) : (s.setScene r x).queue j = s.queue j := rfl
@[simp] theorem setScene_latch (r : Nat) (x : Scene) (j : Nat) : (s.setScene r x).latch j = s.latch j := rfl
@[simp] theorem setScene_staged (r : Nat) (x : Scene) (j : Nat) : (s.setScene r x).staged j = s.staged j := rfl
@[simp] theorem setScene_writer (r : Nat) (x : Scene) (j : Nat) : (s.setScene r x).writer j = s.writer j := rfl
@[simp] theorem setScene_ovfOf (r : Nat) (x : Scene) (j : Nat) : (s.setScene r x).ovfOf j = s.ovfOf j := rfl
@[simp] theorem setScene_xevOf (r : Nat) (x : Scene) (j : Nat) : (s.setScene r x).xevOf j = s.xevOf j := rfl
@[simp] theorem setScene_cinOf (r : Nat) (x : Scene) (j : Nat) : (s.setScene r x).cinOf j = s.cinOf j := rfl
@[simp] theorem setScene_uibInOf (r : Nat) (x : Scene) (j : Nat) : (s.setScene r x).uibInOf j = s.uibInOf j := rfl
@[simp] theorem setScene_reg (r : Nat) (x : Scene) (j : Nat) : (s.setScene r x).reg j = s.reg j := rfl
@[simp] theorem setScene_field (r : Nat) (x : Scene) (j h l : Nat) : (s.setScene r x).field j h l = s.field j h l := rfl
@[simp] theorem setScene_flag (r : Nat) (x : Scene) (j m : Nat) : (s.setScene r x).flag j m = s.flag j m := rfl

@[simp] theorem setCore_pending (r : Nat) (x : Core) : (s.setCore r x).pending = s.pending := rfl
@[simp] theorem setCore_freeNext (r : Nat) (x : Core) : (s.setCore r x).freeNext = s.freeNext := rfl
@[simp] theorem setCore_mem (r : Nat) (x : Core) : (s.setCore r x).mem = s.mem := rfl
@[simp] theorem setCore_tags (r : Nat) (x : Core) : (s.setCore r x).tags = s.tags := rfl
@[simp] theorem setCore_tagBad (r : Nat) (x : Core) : (s.setCore r x).tagBad = s.tagBad := rfl
@[simp] theorem setCore_cw (r : Nat) (x : Core) : (s.setCore r x).cw = s.cw := rfl
@[simp] theorem setCore_fixQ (r : Nat) (x : Core) : (s.setCore r x).fixQ = s.fixQ := rfl
@[simp] theorem setCore_regs (r : Nat) (x : Core) : (s.setCore r x).regs = s.regs := rfl
@[simp] theorem setCore_roles (r : Nat) (x : Core) : (s.setCore r x).roles = s.roles := rfl
@[simp] theorem setCore_scenes (r : Nat) (x : Core) : (s.setCore r x).scenes = s.scenes := rfl
@[simp] theorem setCore_staging (r : Nat) (x : Core) : (s.setCore r x).staging = s.staging := rfl
@[simp] theorem setCore_queues (r : Nat) (x : Core) : (s.setCore r x).queues = s.queues := rfl
@[simp] theorem setCore_latches (r : Nat) (x : Core) : (s.setCore r x).latches = s.latches := rfl
@[simp] theorem setCore_writers (r : Nat) (x : Core) : (s.setCore r x).writers = s.writers := rfl
@[simp] theorem setCore_ovf (r : Nat) (x : Core) : (s.setCore r x).ovf = s.ovf := rfl
@[simp] theorem setCore_caches (r : Nat) (x : Core) : (s.setCore r x).caches = s.caches := rfl
@[simp] theorem setCore_xev (r : Nat) (x : Core) : (s.setCore r x).xev = s.xev := rfl
@[simp] theorem setCore_cin (r : Nat) (x : Core) : (s.setCore r x).cin = s.cin := rfl
@[simp] theorem setCore_uibIn (r : Nat) (x : Core) : (s.setCore r x).uibIn = s.uibIn := rfl
@[simp] theorem setCore_log (r : Nat) (x : Core) : (s.setCore r x).log = s.log := rfl
@[simp] theorem setCore_trace (r : Nat) (x : Core) : (s.setCore r x).trace = s.trace := rfl
@[simp] theorem setCore_cxl (r : Nat) (x : Core) : (s.setCore r x).cxl = s.cxl := rfl
@[simp] theorem setCore_hcFail (r : Nat) (x : Core) : (s.setCore r x).hcFail = s.hcFail := rfl
@[simp] theorem setCore_hc (r : Nat) (x : Core) : (s.setCore r x).hc = s.hc := rfl
@[simp] theorem setCore_heldW (r : Nat) (x : Core) : (s.setCore r x).heldW = s.heldW := rfl
@[simp] theorem setCore_ser (r : Nat) (x : Core) : (s.setCore r x).ser = s.ser := rfl
@[simp] theorem setCore_pulse (r : Nat) (x : Core) : (s.setCore r x).pulse = s.pulse := rfl
@[simp] theorem setCore_adc (r : Nat) (x : Core) : (s.setCore r x).adc = s.adc := rfl
@[simp] theorem setCore_padLatch (r : Nat) (x : Core) : (s.setCore r x).padLatch = s.padLatch := rfl
@[simp] theorem setCore_vioOff (r : Nat) (x : Core) : (s.setCore r x).vioOff = s.vioOff := rfl
@[simp] theorem setCore_scrub (r : Nat) (x : Core) : (s.setCore r x).scrub = s.scrub := rfl
@[simp] theorem setCore_sm (r : Nat) (x : Core) : (s.setCore r x).sm = s.sm := rfl
@[simp] theorem setCore_boot (r : Nat) (x : Core) : (s.setCore r x).boot = s.boot := rfl
@[simp] theorem setCore_tap (r : Nat) (x : Core) : (s.setCore r x).tap = s.tap := rfl
@[simp] theorem setCore_metro (r : Nat) (x : Core) : (s.setCore r x).metro = s.metro := rfl
@[simp] theorem setCore_time (r : Nat) (x : Core) : (s.setCore r x).time = s.time := rfl
@[simp] theorem setCore_role (r : Nat) (x : Core) (j : Nat) : (s.setCore r x).role j = s.role j := rfl
@[simp] theorem setCore_scene (r : Nat) (x : Core) (j : Nat) : (s.setCore r x).scene j = s.scene j := rfl
@[simp] theorem setCore_queue (r : Nat) (x : Core) (j : Nat) : (s.setCore r x).queue j = s.queue j := rfl
@[simp] theorem setCore_latch (r : Nat) (x : Core) (j : Nat) : (s.setCore r x).latch j = s.latch j := rfl
@[simp] theorem setCore_staged (r : Nat) (x : Core) (j : Nat) : (s.setCore r x).staged j = s.staged j := rfl
@[simp] theorem setCore_writer (r : Nat) (x : Core) (j : Nat) : (s.setCore r x).writer j = s.writer j := rfl
@[simp] theorem setCore_ovfOf (r : Nat) (x : Core) (j : Nat) : (s.setCore r x).ovfOf j = s.ovfOf j := rfl
@[simp] theorem setCore_xevOf (r : Nat) (x : Core) (j : Nat) : (s.setCore r x).xevOf j = s.xevOf j := rfl
@[simp] theorem setCore_cinOf (r : Nat) (x : Core) (j : Nat) : (s.setCore r x).cinOf j = s.cinOf j := rfl
@[simp] theorem setCore_uibInOf (r : Nat) (x : Core) (j : Nat) : (s.setCore r x).uibInOf j = s.uibInOf j := rfl
@[simp] theorem setCore_reg (r : Nat) (x : Core) (j : Nat) : (s.setCore r x).reg j = s.reg j := rfl
@[simp] theorem setCore_field (r : Nat) (x : Core) (j h l : Nat) : (s.setCore r x).field j h l = s.field j h l := rfl
@[simp] theorem setCore_flag (r : Nat) (x : Core) (j m : Nat) : (s.setCore r x).flag j m = s.flag j m := rfl

@[simp] theorem setQueue_pending (q : Nat) (x : Queue) : (s.setQueue q x).pending = s.pending := rfl
@[simp] theorem setQueue_freeNext (q : Nat) (x : Queue) : (s.setQueue q x).freeNext = s.freeNext := rfl
@[simp] theorem setQueue_mem (q : Nat) (x : Queue) : (s.setQueue q x).mem = s.mem := rfl
@[simp] theorem setQueue_tags (q : Nat) (x : Queue) : (s.setQueue q x).tags = s.tags := rfl
@[simp] theorem setQueue_tagBad (q : Nat) (x : Queue) : (s.setQueue q x).tagBad = s.tagBad := rfl
@[simp] theorem setQueue_cw (q : Nat) (x : Queue) : (s.setQueue q x).cw = s.cw := rfl
@[simp] theorem setQueue_fixQ (q : Nat) (x : Queue) : (s.setQueue q x).fixQ = s.fixQ := rfl
@[simp] theorem setQueue_regs (q : Nat) (x : Queue) : (s.setQueue q x).regs = s.regs := rfl
@[simp] theorem setQueue_roles (q : Nat) (x : Queue) : (s.setQueue q x).roles = s.roles := rfl
@[simp] theorem setQueue_scenes (q : Nat) (x : Queue) : (s.setQueue q x).scenes = s.scenes := rfl
@[simp] theorem setQueue_cores (q : Nat) (x : Queue) : (s.setQueue q x).cores = s.cores := rfl
@[simp] theorem setQueue_staging (q : Nat) (x : Queue) : (s.setQueue q x).staging = s.staging := rfl
@[simp] theorem setQueue_latches (q : Nat) (x : Queue) : (s.setQueue q x).latches = s.latches := rfl
@[simp] theorem setQueue_writers (q : Nat) (x : Queue) : (s.setQueue q x).writers = s.writers := rfl
@[simp] theorem setQueue_ovf (q : Nat) (x : Queue) : (s.setQueue q x).ovf = s.ovf := rfl
@[simp] theorem setQueue_caches (q : Nat) (x : Queue) : (s.setQueue q x).caches = s.caches := rfl
@[simp] theorem setQueue_xev (q : Nat) (x : Queue) : (s.setQueue q x).xev = s.xev := rfl
@[simp] theorem setQueue_cin (q : Nat) (x : Queue) : (s.setQueue q x).cin = s.cin := rfl
@[simp] theorem setQueue_uibIn (q : Nat) (x : Queue) : (s.setQueue q x).uibIn = s.uibIn := rfl
@[simp] theorem setQueue_log (q : Nat) (x : Queue) : (s.setQueue q x).log = s.log := rfl
@[simp] theorem setQueue_trace (q : Nat) (x : Queue) : (s.setQueue q x).trace = s.trace := rfl
@[simp] theorem setQueue_cxl (q : Nat) (x : Queue) : (s.setQueue q x).cxl = s.cxl := rfl
@[simp] theorem setQueue_hcFail (q : Nat) (x : Queue) : (s.setQueue q x).hcFail = s.hcFail := rfl
@[simp] theorem setQueue_hc (q : Nat) (x : Queue) : (s.setQueue q x).hc = s.hc := rfl
@[simp] theorem setQueue_heldW (q : Nat) (x : Queue) : (s.setQueue q x).heldW = s.heldW := rfl
@[simp] theorem setQueue_ser (q : Nat) (x : Queue) : (s.setQueue q x).ser = s.ser := rfl
@[simp] theorem setQueue_pulse (q : Nat) (x : Queue) : (s.setQueue q x).pulse = s.pulse := rfl
@[simp] theorem setQueue_adc (q : Nat) (x : Queue) : (s.setQueue q x).adc = s.adc := rfl
@[simp] theorem setQueue_padLatch (q : Nat) (x : Queue) : (s.setQueue q x).padLatch = s.padLatch := rfl
@[simp] theorem setQueue_vioOff (q : Nat) (x : Queue) : (s.setQueue q x).vioOff = s.vioOff := rfl
@[simp] theorem setQueue_scrub (q : Nat) (x : Queue) : (s.setQueue q x).scrub = s.scrub := rfl
@[simp] theorem setQueue_sm (q : Nat) (x : Queue) : (s.setQueue q x).sm = s.sm := rfl
@[simp] theorem setQueue_boot (q : Nat) (x : Queue) : (s.setQueue q x).boot = s.boot := rfl
@[simp] theorem setQueue_tap (q : Nat) (x : Queue) : (s.setQueue q x).tap = s.tap := rfl
@[simp] theorem setQueue_metro (q : Nat) (x : Queue) : (s.setQueue q x).metro = s.metro := rfl
@[simp] theorem setQueue_time (q : Nat) (x : Queue) : (s.setQueue q x).time = s.time := rfl
@[simp] theorem setQueue_role (q : Nat) (x : Queue) (j : Nat) : (s.setQueue q x).role j = s.role j := rfl
@[simp] theorem setQueue_scene (q : Nat) (x : Queue) (j : Nat) : (s.setQueue q x).scene j = s.scene j := rfl
@[simp] theorem setQueue_core (q : Nat) (x : Queue) (j : Nat) : (s.setQueue q x).core j = s.core j := rfl
@[simp] theorem setQueue_latch (q : Nat) (x : Queue) (j : Nat) : (s.setQueue q x).latch j = s.latch j := rfl
@[simp] theorem setQueue_staged (q : Nat) (x : Queue) (j : Nat) : (s.setQueue q x).staged j = s.staged j := rfl
@[simp] theorem setQueue_writer (q : Nat) (x : Queue) (j : Nat) : (s.setQueue q x).writer j = s.writer j := rfl
@[simp] theorem setQueue_ovfOf (q : Nat) (x : Queue) (j : Nat) : (s.setQueue q x).ovfOf j = s.ovfOf j := rfl
@[simp] theorem setQueue_xevOf (q : Nat) (x : Queue) (j : Nat) : (s.setQueue q x).xevOf j = s.xevOf j := rfl
@[simp] theorem setQueue_cinOf (q : Nat) (x : Queue) (j : Nat) : (s.setQueue q x).cinOf j = s.cinOf j := rfl
@[simp] theorem setQueue_uibInOf (q : Nat) (x : Queue) (j : Nat) : (s.setQueue q x).uibInOf j = s.uibInOf j := rfl
@[simp] theorem setQueue_reg (q : Nat) (x : Queue) (j : Nat) : (s.setQueue q x).reg j = s.reg j := rfl
@[simp] theorem setQueue_field (q : Nat) (x : Queue) (j h l : Nat) : (s.setQueue q x).field j h l = s.field j h l := rfl
@[simp] theorem setQueue_flag (q : Nat) (x : Queue) (j m : Nat) : (s.setQueue q x).flag j m = s.flag j m := rfl

@[simp] theorem setLatch_pending (i : Nat) (x : Latch) : (s.setLatch i x).pending = s.pending := rfl
@[simp] theorem setLatch_freeNext (i : Nat) (x : Latch) : (s.setLatch i x).freeNext = s.freeNext := rfl
@[simp] theorem setLatch_mem (i : Nat) (x : Latch) : (s.setLatch i x).mem = s.mem := rfl
@[simp] theorem setLatch_tags (i : Nat) (x : Latch) : (s.setLatch i x).tags = s.tags := rfl
@[simp] theorem setLatch_tagBad (i : Nat) (x : Latch) : (s.setLatch i x).tagBad = s.tagBad := rfl
@[simp] theorem setLatch_cw (i : Nat) (x : Latch) : (s.setLatch i x).cw = s.cw := rfl
@[simp] theorem setLatch_fixQ (i : Nat) (x : Latch) : (s.setLatch i x).fixQ = s.fixQ := rfl
@[simp] theorem setLatch_regs (i : Nat) (x : Latch) : (s.setLatch i x).regs = s.regs := rfl
@[simp] theorem setLatch_roles (i : Nat) (x : Latch) : (s.setLatch i x).roles = s.roles := rfl
@[simp] theorem setLatch_scenes (i : Nat) (x : Latch) : (s.setLatch i x).scenes = s.scenes := rfl
@[simp] theorem setLatch_cores (i : Nat) (x : Latch) : (s.setLatch i x).cores = s.cores := rfl
@[simp] theorem setLatch_staging (i : Nat) (x : Latch) : (s.setLatch i x).staging = s.staging := rfl
@[simp] theorem setLatch_queues (i : Nat) (x : Latch) : (s.setLatch i x).queues = s.queues := rfl
@[simp] theorem setLatch_writers (i : Nat) (x : Latch) : (s.setLatch i x).writers = s.writers := rfl
@[simp] theorem setLatch_ovf (i : Nat) (x : Latch) : (s.setLatch i x).ovf = s.ovf := rfl
@[simp] theorem setLatch_caches (i : Nat) (x : Latch) : (s.setLatch i x).caches = s.caches := rfl
@[simp] theorem setLatch_xev (i : Nat) (x : Latch) : (s.setLatch i x).xev = s.xev := rfl
@[simp] theorem setLatch_cin (i : Nat) (x : Latch) : (s.setLatch i x).cin = s.cin := rfl
@[simp] theorem setLatch_uibIn (i : Nat) (x : Latch) : (s.setLatch i x).uibIn = s.uibIn := rfl
@[simp] theorem setLatch_log (i : Nat) (x : Latch) : (s.setLatch i x).log = s.log := rfl
@[simp] theorem setLatch_trace (i : Nat) (x : Latch) : (s.setLatch i x).trace = s.trace := rfl
@[simp] theorem setLatch_cxl (i : Nat) (x : Latch) : (s.setLatch i x).cxl = s.cxl := rfl
@[simp] theorem setLatch_hcFail (i : Nat) (x : Latch) : (s.setLatch i x).hcFail = s.hcFail := rfl
@[simp] theorem setLatch_hc (i : Nat) (x : Latch) : (s.setLatch i x).hc = s.hc := rfl
@[simp] theorem setLatch_heldW (i : Nat) (x : Latch) : (s.setLatch i x).heldW = s.heldW := rfl
@[simp] theorem setLatch_ser (i : Nat) (x : Latch) : (s.setLatch i x).ser = s.ser := rfl
@[simp] theorem setLatch_pulse (i : Nat) (x : Latch) : (s.setLatch i x).pulse = s.pulse := rfl
@[simp] theorem setLatch_adc (i : Nat) (x : Latch) : (s.setLatch i x).adc = s.adc := rfl
@[simp] theorem setLatch_padLatch (i : Nat) (x : Latch) : (s.setLatch i x).padLatch = s.padLatch := rfl
@[simp] theorem setLatch_vioOff (i : Nat) (x : Latch) : (s.setLatch i x).vioOff = s.vioOff := rfl
@[simp] theorem setLatch_scrub (i : Nat) (x : Latch) : (s.setLatch i x).scrub = s.scrub := rfl
@[simp] theorem setLatch_sm (i : Nat) (x : Latch) : (s.setLatch i x).sm = s.sm := rfl
@[simp] theorem setLatch_boot (i : Nat) (x : Latch) : (s.setLatch i x).boot = s.boot := rfl
@[simp] theorem setLatch_tap (i : Nat) (x : Latch) : (s.setLatch i x).tap = s.tap := rfl
@[simp] theorem setLatch_metro (i : Nat) (x : Latch) : (s.setLatch i x).metro = s.metro := rfl
@[simp] theorem setLatch_time (i : Nat) (x : Latch) : (s.setLatch i x).time = s.time := rfl
@[simp] theorem setLatch_role (i : Nat) (x : Latch) (j : Nat) : (s.setLatch i x).role j = s.role j := rfl
@[simp] theorem setLatch_scene (i : Nat) (x : Latch) (j : Nat) : (s.setLatch i x).scene j = s.scene j := rfl
@[simp] theorem setLatch_core (i : Nat) (x : Latch) (j : Nat) : (s.setLatch i x).core j = s.core j := rfl
@[simp] theorem setLatch_queue (i : Nat) (x : Latch) (j : Nat) : (s.setLatch i x).queue j = s.queue j := rfl
@[simp] theorem setLatch_staged (i : Nat) (x : Latch) (j : Nat) : (s.setLatch i x).staged j = s.staged j := rfl
@[simp] theorem setLatch_writer (i : Nat) (x : Latch) (j : Nat) : (s.setLatch i x).writer j = s.writer j := rfl
@[simp] theorem setLatch_ovfOf (i : Nat) (x : Latch) (j : Nat) : (s.setLatch i x).ovfOf j = s.ovfOf j := rfl
@[simp] theorem setLatch_xevOf (i : Nat) (x : Latch) (j : Nat) : (s.setLatch i x).xevOf j = s.xevOf j := rfl
@[simp] theorem setLatch_cinOf (i : Nat) (x : Latch) (j : Nat) : (s.setLatch i x).cinOf j = s.cinOf j := rfl
@[simp] theorem setLatch_uibInOf (i : Nat) (x : Latch) (j : Nat) : (s.setLatch i x).uibInOf j = s.uibInOf j := rfl
@[simp] theorem setLatch_reg (i : Nat) (x : Latch) (j : Nat) : (s.setLatch i x).reg j = s.reg j := rfl
@[simp] theorem setLatch_field (i : Nat) (x : Latch) (j h l : Nat) : (s.setLatch i x).field j h l = s.field j h l := rfl
@[simp] theorem setLatch_flag (i : Nat) (x : Latch) (j m : Nat) : (s.setLatch i x).flag j m = s.flag j m := rfl

@[simp] theorem setStaged_pending (a : Nat) (x : List Staged) : (s.setStaged a x).pending = s.pending := rfl
@[simp] theorem setStaged_freeNext (a : Nat) (x : List Staged) : (s.setStaged a x).freeNext = s.freeNext := rfl
@[simp] theorem setStaged_mem (a : Nat) (x : List Staged) : (s.setStaged a x).mem = s.mem := rfl
@[simp] theorem setStaged_tags (a : Nat) (x : List Staged) : (s.setStaged a x).tags = s.tags := rfl
@[simp] theorem setStaged_tagBad (a : Nat) (x : List Staged) : (s.setStaged a x).tagBad = s.tagBad := rfl
@[simp] theorem setStaged_cw (a : Nat) (x : List Staged) : (s.setStaged a x).cw = s.cw := rfl
@[simp] theorem setStaged_fixQ (a : Nat) (x : List Staged) : (s.setStaged a x).fixQ = s.fixQ := rfl
@[simp] theorem setStaged_regs (a : Nat) (x : List Staged) : (s.setStaged a x).regs = s.regs := rfl
@[simp] theorem setStaged_roles (a : Nat) (x : List Staged) : (s.setStaged a x).roles = s.roles := rfl
@[simp] theorem setStaged_scenes (a : Nat) (x : List Staged) : (s.setStaged a x).scenes = s.scenes := rfl
@[simp] theorem setStaged_cores (a : Nat) (x : List Staged) : (s.setStaged a x).cores = s.cores := rfl
@[simp] theorem setStaged_queues (a : Nat) (x : List Staged) : (s.setStaged a x).queues = s.queues := rfl
@[simp] theorem setStaged_latches (a : Nat) (x : List Staged) : (s.setStaged a x).latches = s.latches := rfl
@[simp] theorem setStaged_writers (a : Nat) (x : List Staged) : (s.setStaged a x).writers = s.writers := rfl
@[simp] theorem setStaged_ovf (a : Nat) (x : List Staged) : (s.setStaged a x).ovf = s.ovf := rfl
@[simp] theorem setStaged_caches (a : Nat) (x : List Staged) : (s.setStaged a x).caches = s.caches := rfl
@[simp] theorem setStaged_xev (a : Nat) (x : List Staged) : (s.setStaged a x).xev = s.xev := rfl
@[simp] theorem setStaged_cin (a : Nat) (x : List Staged) : (s.setStaged a x).cin = s.cin := rfl
@[simp] theorem setStaged_uibIn (a : Nat) (x : List Staged) : (s.setStaged a x).uibIn = s.uibIn := rfl
@[simp] theorem setStaged_log (a : Nat) (x : List Staged) : (s.setStaged a x).log = s.log := rfl
@[simp] theorem setStaged_trace (a : Nat) (x : List Staged) : (s.setStaged a x).trace = s.trace := rfl
@[simp] theorem setStaged_cxl (a : Nat) (x : List Staged) : (s.setStaged a x).cxl = s.cxl := rfl
@[simp] theorem setStaged_hcFail (a : Nat) (x : List Staged) : (s.setStaged a x).hcFail = s.hcFail := rfl
@[simp] theorem setStaged_hc (a : Nat) (x : List Staged) : (s.setStaged a x).hc = s.hc := rfl
@[simp] theorem setStaged_heldW (a : Nat) (x : List Staged) : (s.setStaged a x).heldW = s.heldW := rfl
@[simp] theorem setStaged_ser (a : Nat) (x : List Staged) : (s.setStaged a x).ser = s.ser := rfl
@[simp] theorem setStaged_pulse (a : Nat) (x : List Staged) : (s.setStaged a x).pulse = s.pulse := rfl
@[simp] theorem setStaged_adc (a : Nat) (x : List Staged) : (s.setStaged a x).adc = s.adc := rfl
@[simp] theorem setStaged_padLatch (a : Nat) (x : List Staged) : (s.setStaged a x).padLatch = s.padLatch := rfl
@[simp] theorem setStaged_vioOff (a : Nat) (x : List Staged) : (s.setStaged a x).vioOff = s.vioOff := rfl
@[simp] theorem setStaged_scrub (a : Nat) (x : List Staged) : (s.setStaged a x).scrub = s.scrub := rfl
@[simp] theorem setStaged_sm (a : Nat) (x : List Staged) : (s.setStaged a x).sm = s.sm := rfl
@[simp] theorem setStaged_boot (a : Nat) (x : List Staged) : (s.setStaged a x).boot = s.boot := rfl
@[simp] theorem setStaged_tap (a : Nat) (x : List Staged) : (s.setStaged a x).tap = s.tap := rfl
@[simp] theorem setStaged_metro (a : Nat) (x : List Staged) : (s.setStaged a x).metro = s.metro := rfl
@[simp] theorem setStaged_time (a : Nat) (x : List Staged) : (s.setStaged a x).time = s.time := rfl
@[simp] theorem setStaged_role (a : Nat) (x : List Staged) (j : Nat) : (s.setStaged a x).role j = s.role j := rfl
@[simp] theorem setStaged_scene (a : Nat) (x : List Staged) (j : Nat) : (s.setStaged a x).scene j = s.scene j := rfl
@[simp] theorem setStaged_core (a : Nat) (x : List Staged) (j : Nat) : (s.setStaged a x).core j = s.core j := rfl
@[simp] theorem setStaged_queue (a : Nat) (x : List Staged) (j : Nat) : (s.setStaged a x).queue j = s.queue j := rfl
@[simp] theorem setStaged_latch (a : Nat) (x : List Staged) (j : Nat) : (s.setStaged a x).latch j = s.latch j := rfl
@[simp] theorem setStaged_writer (a : Nat) (x : List Staged) (j : Nat) : (s.setStaged a x).writer j = s.writer j := rfl
@[simp] theorem setStaged_ovfOf (a : Nat) (x : List Staged) (j : Nat) : (s.setStaged a x).ovfOf j = s.ovfOf j := rfl
@[simp] theorem setStaged_xevOf (a : Nat) (x : List Staged) (j : Nat) : (s.setStaged a x).xevOf j = s.xevOf j := rfl
@[simp] theorem setStaged_cinOf (a : Nat) (x : List Staged) (j : Nat) : (s.setStaged a x).cinOf j = s.cinOf j := rfl
@[simp] theorem setStaged_uibInOf (a : Nat) (x : List Staged) (j : Nat) : (s.setStaged a x).uibInOf j = s.uibInOf j := rfl
@[simp] theorem setStaged_reg (a : Nat) (x : List Staged) (j : Nat) : (s.setStaged a x).reg j = s.reg j := rfl
@[simp] theorem setStaged_field (a : Nat) (x : List Staged) (j h l : Nat) : (s.setStaged a x).field j h l = s.field j h l := rfl
@[simp] theorem setStaged_flag (a : Nat) (x : List Staged) (j m : Nat) : (s.setStaged a x).flag j m = s.flag j m := rfl

@[simp] theorem setWriter_pending (c : Nat) (x : List CsRec) : (s.setWriter c x).pending = s.pending := rfl
@[simp] theorem setWriter_freeNext (c : Nat) (x : List CsRec) : (s.setWriter c x).freeNext = s.freeNext := rfl
@[simp] theorem setWriter_mem (c : Nat) (x : List CsRec) : (s.setWriter c x).mem = s.mem := rfl
@[simp] theorem setWriter_tags (c : Nat) (x : List CsRec) : (s.setWriter c x).tags = s.tags := rfl
@[simp] theorem setWriter_tagBad (c : Nat) (x : List CsRec) : (s.setWriter c x).tagBad = s.tagBad := rfl
@[simp] theorem setWriter_cw (c : Nat) (x : List CsRec) : (s.setWriter c x).cw = s.cw := rfl
@[simp] theorem setWriter_fixQ (c : Nat) (x : List CsRec) : (s.setWriter c x).fixQ = s.fixQ := rfl
@[simp] theorem setWriter_regs (c : Nat) (x : List CsRec) : (s.setWriter c x).regs = s.regs := rfl
@[simp] theorem setWriter_roles (c : Nat) (x : List CsRec) : (s.setWriter c x).roles = s.roles := rfl
@[simp] theorem setWriter_scenes (c : Nat) (x : List CsRec) : (s.setWriter c x).scenes = s.scenes := rfl
@[simp] theorem setWriter_cores (c : Nat) (x : List CsRec) : (s.setWriter c x).cores = s.cores := rfl
@[simp] theorem setWriter_staging (c : Nat) (x : List CsRec) : (s.setWriter c x).staging = s.staging := rfl
@[simp] theorem setWriter_queues (c : Nat) (x : List CsRec) : (s.setWriter c x).queues = s.queues := rfl
@[simp] theorem setWriter_latches (c : Nat) (x : List CsRec) : (s.setWriter c x).latches = s.latches := rfl
@[simp] theorem setWriter_ovf (c : Nat) (x : List CsRec) : (s.setWriter c x).ovf = s.ovf := rfl
@[simp] theorem setWriter_caches (c : Nat) (x : List CsRec) : (s.setWriter c x).caches = s.caches := rfl
@[simp] theorem setWriter_xev (c : Nat) (x : List CsRec) : (s.setWriter c x).xev = s.xev := rfl
@[simp] theorem setWriter_cin (c : Nat) (x : List CsRec) : (s.setWriter c x).cin = s.cin := rfl
@[simp] theorem setWriter_uibIn (c : Nat) (x : List CsRec) : (s.setWriter c x).uibIn = s.uibIn := rfl
@[simp] theorem setWriter_log (c : Nat) (x : List CsRec) : (s.setWriter c x).log = s.log := rfl
@[simp] theorem setWriter_trace (c : Nat) (x : List CsRec) : (s.setWriter c x).trace = s.trace := rfl
@[simp] theorem setWriter_cxl (c : Nat) (x : List CsRec) : (s.setWriter c x).cxl = s.cxl := rfl
@[simp] theorem setWriter_hcFail (c : Nat) (x : List CsRec) : (s.setWriter c x).hcFail = s.hcFail := rfl
@[simp] theorem setWriter_hc (c : Nat) (x : List CsRec) : (s.setWriter c x).hc = s.hc := rfl
@[simp] theorem setWriter_heldW (c : Nat) (x : List CsRec) : (s.setWriter c x).heldW = s.heldW := rfl
@[simp] theorem setWriter_ser (c : Nat) (x : List CsRec) : (s.setWriter c x).ser = s.ser := rfl
@[simp] theorem setWriter_pulse (c : Nat) (x : List CsRec) : (s.setWriter c x).pulse = s.pulse := rfl
@[simp] theorem setWriter_adc (c : Nat) (x : List CsRec) : (s.setWriter c x).adc = s.adc := rfl
@[simp] theorem setWriter_padLatch (c : Nat) (x : List CsRec) : (s.setWriter c x).padLatch = s.padLatch := rfl
@[simp] theorem setWriter_vioOff (c : Nat) (x : List CsRec) : (s.setWriter c x).vioOff = s.vioOff := rfl
@[simp] theorem setWriter_scrub (c : Nat) (x : List CsRec) : (s.setWriter c x).scrub = s.scrub := rfl
@[simp] theorem setWriter_sm (c : Nat) (x : List CsRec) : (s.setWriter c x).sm = s.sm := rfl
@[simp] theorem setWriter_boot (c : Nat) (x : List CsRec) : (s.setWriter c x).boot = s.boot := rfl
@[simp] theorem setWriter_tap (c : Nat) (x : List CsRec) : (s.setWriter c x).tap = s.tap := rfl
@[simp] theorem setWriter_metro (c : Nat) (x : List CsRec) : (s.setWriter c x).metro = s.metro := rfl
@[simp] theorem setWriter_time (c : Nat) (x : List CsRec) : (s.setWriter c x).time = s.time := rfl
@[simp] theorem setWriter_role (c : Nat) (x : List CsRec) (j : Nat) : (s.setWriter c x).role j = s.role j := rfl
@[simp] theorem setWriter_scene (c : Nat) (x : List CsRec) (j : Nat) : (s.setWriter c x).scene j = s.scene j := rfl
@[simp] theorem setWriter_core (c : Nat) (x : List CsRec) (j : Nat) : (s.setWriter c x).core j = s.core j := rfl
@[simp] theorem setWriter_queue (c : Nat) (x : List CsRec) (j : Nat) : (s.setWriter c x).queue j = s.queue j := rfl
@[simp] theorem setWriter_latch (c : Nat) (x : List CsRec) (j : Nat) : (s.setWriter c x).latch j = s.latch j := rfl
@[simp] theorem setWriter_staged (c : Nat) (x : List CsRec) (j : Nat) : (s.setWriter c x).staged j = s.staged j := rfl
@[simp] theorem setWriter_ovfOf (c : Nat) (x : List CsRec) (j : Nat) : (s.setWriter c x).ovfOf j = s.ovfOf j := rfl
@[simp] theorem setWriter_xevOf (c : Nat) (x : List CsRec) (j : Nat) : (s.setWriter c x).xevOf j = s.xevOf j := rfl
@[simp] theorem setWriter_cinOf (c : Nat) (x : List CsRec) (j : Nat) : (s.setWriter c x).cinOf j = s.cinOf j := rfl
@[simp] theorem setWriter_uibInOf (c : Nat) (x : List CsRec) (j : Nat) : (s.setWriter c x).uibInOf j = s.uibInOf j := rfl
@[simp] theorem setWriter_reg (c : Nat) (x : List CsRec) (j : Nat) : (s.setWriter c x).reg j = s.reg j := rfl
@[simp] theorem setWriter_field (c : Nat) (x : List CsRec) (j h l : Nat) : (s.setWriter c x).field j h l = s.field j h l := rfl
@[simp] theorem setWriter_flag (c : Nat) (x : List CsRec) (j m : Nat) : (s.setWriter c x).flag j m = s.flag j m := rfl

@[simp] theorem setOvf_pending (k : Nat) (x : Ovf) : (s.setOvf k x).pending = s.pending := rfl
@[simp] theorem setOvf_freeNext (k : Nat) (x : Ovf) : (s.setOvf k x).freeNext = s.freeNext := rfl
@[simp] theorem setOvf_mem (k : Nat) (x : Ovf) : (s.setOvf k x).mem = s.mem := rfl
@[simp] theorem setOvf_tags (k : Nat) (x : Ovf) : (s.setOvf k x).tags = s.tags := rfl
@[simp] theorem setOvf_tagBad (k : Nat) (x : Ovf) : (s.setOvf k x).tagBad = s.tagBad := rfl
@[simp] theorem setOvf_cw (k : Nat) (x : Ovf) : (s.setOvf k x).cw = s.cw := rfl
@[simp] theorem setOvf_fixQ (k : Nat) (x : Ovf) : (s.setOvf k x).fixQ = s.fixQ := rfl
@[simp] theorem setOvf_regs (k : Nat) (x : Ovf) : (s.setOvf k x).regs = s.regs := rfl
@[simp] theorem setOvf_roles (k : Nat) (x : Ovf) : (s.setOvf k x).roles = s.roles := rfl
@[simp] theorem setOvf_scenes (k : Nat) (x : Ovf) : (s.setOvf k x).scenes = s.scenes := rfl
@[simp] theorem setOvf_cores (k : Nat) (x : Ovf) : (s.setOvf k x).cores = s.cores := rfl
@[simp] theorem setOvf_staging (k : Nat) (x : Ovf) : (s.setOvf k x).staging = s.staging := rfl
@[simp] theorem setOvf_queues (k : Nat) (x : Ovf) : (s.setOvf k x).queues = s.queues := rfl
@[simp] theorem setOvf_latches (k : Nat) (x : Ovf) : (s.setOvf k x).latches = s.latches := rfl
@[simp] theorem setOvf_writers (k : Nat) (x : Ovf) : (s.setOvf k x).writers = s.writers := rfl
@[simp] theorem setOvf_caches (k : Nat) (x : Ovf) : (s.setOvf k x).caches = s.caches := rfl
@[simp] theorem setOvf_xev (k : Nat) (x : Ovf) : (s.setOvf k x).xev = s.xev := rfl
@[simp] theorem setOvf_cin (k : Nat) (x : Ovf) : (s.setOvf k x).cin = s.cin := rfl
@[simp] theorem setOvf_uibIn (k : Nat) (x : Ovf) : (s.setOvf k x).uibIn = s.uibIn := rfl
@[simp] theorem setOvf_log (k : Nat) (x : Ovf) : (s.setOvf k x).log = s.log := rfl
@[simp] theorem setOvf_trace (k : Nat) (x : Ovf) : (s.setOvf k x).trace = s.trace := rfl
@[simp] theorem setOvf_cxl (k : Nat) (x : Ovf) : (s.setOvf k x).cxl = s.cxl := rfl
@[simp] theorem setOvf_hcFail (k : Nat) (x : Ovf) : (s.setOvf k x).hcFail = s.hcFail := rfl
@[simp] theorem setOvf_hc (k : Nat) (x : Ovf) : (s.setOvf k x).hc = s.hc := rfl
@[simp] theorem setOvf_heldW (k : Nat) (x : Ovf) : (s.setOvf k x).heldW = s.heldW := rfl
@[simp] theorem setOvf_ser (k : Nat) (x : Ovf) : (s.setOvf k x).ser = s.ser := rfl
@[simp] theorem setOvf_pulse (k : Nat) (x : Ovf) : (s.setOvf k x).pulse = s.pulse := rfl
@[simp] theorem setOvf_adc (k : Nat) (x : Ovf) : (s.setOvf k x).adc = s.adc := rfl
@[simp] theorem setOvf_padLatch (k : Nat) (x : Ovf) : (s.setOvf k x).padLatch = s.padLatch := rfl
@[simp] theorem setOvf_vioOff (k : Nat) (x : Ovf) : (s.setOvf k x).vioOff = s.vioOff := rfl
@[simp] theorem setOvf_scrub (k : Nat) (x : Ovf) : (s.setOvf k x).scrub = s.scrub := rfl
@[simp] theorem setOvf_sm (k : Nat) (x : Ovf) : (s.setOvf k x).sm = s.sm := rfl
@[simp] theorem setOvf_boot (k : Nat) (x : Ovf) : (s.setOvf k x).boot = s.boot := rfl
@[simp] theorem setOvf_tap (k : Nat) (x : Ovf) : (s.setOvf k x).tap = s.tap := rfl
@[simp] theorem setOvf_metro (k : Nat) (x : Ovf) : (s.setOvf k x).metro = s.metro := rfl
@[simp] theorem setOvf_time (k : Nat) (x : Ovf) : (s.setOvf k x).time = s.time := rfl
@[simp] theorem setOvf_role (k : Nat) (x : Ovf) (j : Nat) : (s.setOvf k x).role j = s.role j := rfl
@[simp] theorem setOvf_scene (k : Nat) (x : Ovf) (j : Nat) : (s.setOvf k x).scene j = s.scene j := rfl
@[simp] theorem setOvf_core (k : Nat) (x : Ovf) (j : Nat) : (s.setOvf k x).core j = s.core j := rfl
@[simp] theorem setOvf_queue (k : Nat) (x : Ovf) (j : Nat) : (s.setOvf k x).queue j = s.queue j := rfl
@[simp] theorem setOvf_latch (k : Nat) (x : Ovf) (j : Nat) : (s.setOvf k x).latch j = s.latch j := rfl
@[simp] theorem setOvf_staged (k : Nat) (x : Ovf) (j : Nat) : (s.setOvf k x).staged j = s.staged j := rfl
@[simp] theorem setOvf_writer (k : Nat) (x : Ovf) (j : Nat) : (s.setOvf k x).writer j = s.writer j := rfl
@[simp] theorem setOvf_xevOf (k : Nat) (x : Ovf) (j : Nat) : (s.setOvf k x).xevOf j = s.xevOf j := rfl
@[simp] theorem setOvf_cinOf (k : Nat) (x : Ovf) (j : Nat) : (s.setOvf k x).cinOf j = s.cinOf j := rfl
@[simp] theorem setOvf_uibInOf (k : Nat) (x : Ovf) (j : Nat) : (s.setOvf k x).uibInOf j = s.uibInOf j := rfl
@[simp] theorem setOvf_reg (k : Nat) (x : Ovf) (j : Nat) : (s.setOvf k x).reg j = s.reg j := rfl
@[simp] theorem setOvf_field (k : Nat) (x : Ovf) (j h l : Nat) : (s.setOvf k x).field j h l = s.field j h l := rfl
@[simp] theorem setOvf_flag (k : Nat) (x : Ovf) (j m : Nat) : (s.setOvf k x).flag j m = s.flag j m := rfl

@[simp] theorem setXev_pending (e : Nat) (x : Xev) : (s.setXev e x).pending = s.pending := rfl
@[simp] theorem setXev_freeNext (e : Nat) (x : Xev) : (s.setXev e x).freeNext = s.freeNext := rfl
@[simp] theorem setXev_mem (e : Nat) (x : Xev) : (s.setXev e x).mem = s.mem := rfl
@[simp] theorem setXev_tags (e : Nat) (x : Xev) : (s.setXev e x).tags = s.tags := rfl
@[simp] theorem setXev_tagBad (e : Nat) (x : Xev) : (s.setXev e x).tagBad = s.tagBad := rfl
@[simp] theorem setXev_cw (e : Nat) (x : Xev) : (s.setXev e x).cw = s.cw := rfl
@[simp] theorem setXev_fixQ (e : Nat) (x : Xev) : (s.setXev e x).fixQ = s.fixQ := rfl
@[simp] theorem setXev_regs (e : Nat) (x : Xev) : (s.setXev e x).regs = s.regs := rfl
@[simp] theorem setXev_roles (e : Nat) (x : Xev) : (s.setXev e x).roles = s.roles := rfl
@[simp] theorem setXev_scenes (e : Nat) (x : Xev) : (s.setXev e x).scenes = s.scenes := rfl
@[simp] theorem setXev_cores (e : Nat) (x : Xev) : (s.setXev e x).cores = s.cores := rfl
@[simp] theorem setXev_staging (e : Nat) (x : Xev) : (s.setXev e x).staging = s.staging := rfl
@[simp] theorem setXev_queues (e : Nat) (x : Xev) : (s.setXev e x).queues = s.queues := rfl
@[simp] theorem setXev_latches (e : Nat) (x : Xev) : (s.setXev e x).latches = s.latches := rfl
@[simp] theorem setXev_writers (e : Nat) (x : Xev) : (s.setXev e x).writers = s.writers := rfl
@[simp] theorem setXev_ovf (e : Nat) (x : Xev) : (s.setXev e x).ovf = s.ovf := rfl
@[simp] theorem setXev_caches (e : Nat) (x : Xev) : (s.setXev e x).caches = s.caches := rfl
@[simp] theorem setXev_cin (e : Nat) (x : Xev) : (s.setXev e x).cin = s.cin := rfl
@[simp] theorem setXev_uibIn (e : Nat) (x : Xev) : (s.setXev e x).uibIn = s.uibIn := rfl
@[simp] theorem setXev_log (e : Nat) (x : Xev) : (s.setXev e x).log = s.log := rfl
@[simp] theorem setXev_trace (e : Nat) (x : Xev) : (s.setXev e x).trace = s.trace := rfl
@[simp] theorem setXev_cxl (e : Nat) (x : Xev) : (s.setXev e x).cxl = s.cxl := rfl
@[simp] theorem setXev_hcFail (e : Nat) (x : Xev) : (s.setXev e x).hcFail = s.hcFail := rfl
@[simp] theorem setXev_hc (e : Nat) (x : Xev) : (s.setXev e x).hc = s.hc := rfl
@[simp] theorem setXev_heldW (e : Nat) (x : Xev) : (s.setXev e x).heldW = s.heldW := rfl
@[simp] theorem setXev_ser (e : Nat) (x : Xev) : (s.setXev e x).ser = s.ser := rfl
@[simp] theorem setXev_pulse (e : Nat) (x : Xev) : (s.setXev e x).pulse = s.pulse := rfl
@[simp] theorem setXev_adc (e : Nat) (x : Xev) : (s.setXev e x).adc = s.adc := rfl
@[simp] theorem setXev_padLatch (e : Nat) (x : Xev) : (s.setXev e x).padLatch = s.padLatch := rfl
@[simp] theorem setXev_vioOff (e : Nat) (x : Xev) : (s.setXev e x).vioOff = s.vioOff := rfl
@[simp] theorem setXev_scrub (e : Nat) (x : Xev) : (s.setXev e x).scrub = s.scrub := rfl
@[simp] theorem setXev_sm (e : Nat) (x : Xev) : (s.setXev e x).sm = s.sm := rfl
@[simp] theorem setXev_boot (e : Nat) (x : Xev) : (s.setXev e x).boot = s.boot := rfl
@[simp] theorem setXev_tap (e : Nat) (x : Xev) : (s.setXev e x).tap = s.tap := rfl
@[simp] theorem setXev_metro (e : Nat) (x : Xev) : (s.setXev e x).metro = s.metro := rfl
@[simp] theorem setXev_time (e : Nat) (x : Xev) : (s.setXev e x).time = s.time := rfl
@[simp] theorem setXev_role (e : Nat) (x : Xev) (j : Nat) : (s.setXev e x).role j = s.role j := rfl
@[simp] theorem setXev_scene (e : Nat) (x : Xev) (j : Nat) : (s.setXev e x).scene j = s.scene j := rfl
@[simp] theorem setXev_core (e : Nat) (x : Xev) (j : Nat) : (s.setXev e x).core j = s.core j := rfl
@[simp] theorem setXev_queue (e : Nat) (x : Xev) (j : Nat) : (s.setXev e x).queue j = s.queue j := rfl
@[simp] theorem setXev_latch (e : Nat) (x : Xev) (j : Nat) : (s.setXev e x).latch j = s.latch j := rfl
@[simp] theorem setXev_staged (e : Nat) (x : Xev) (j : Nat) : (s.setXev e x).staged j = s.staged j := rfl
@[simp] theorem setXev_writer (e : Nat) (x : Xev) (j : Nat) : (s.setXev e x).writer j = s.writer j := rfl
@[simp] theorem setXev_ovfOf (e : Nat) (x : Xev) (j : Nat) : (s.setXev e x).ovfOf j = s.ovfOf j := rfl
@[simp] theorem setXev_cinOf (e : Nat) (x : Xev) (j : Nat) : (s.setXev e x).cinOf j = s.cinOf j := rfl
@[simp] theorem setXev_uibInOf (e : Nat) (x : Xev) (j : Nat) : (s.setXev e x).uibInOf j = s.uibInOf j := rfl
@[simp] theorem setXev_reg (e : Nat) (x : Xev) (j : Nat) : (s.setXev e x).reg j = s.reg j := rfl
@[simp] theorem setXev_field (e : Nat) (x : Xev) (j h l : Nat) : (s.setXev e x).field j h l = s.field j h l := rfl
@[simp] theorem setXev_flag (e : Nat) (x : Xev) (j m : Nat) : (s.setXev e x).flag j m = s.flag j m := rfl

@[simp] theorem setCin_pending (k : Nat) (x : Option CinAct) : (s.setCin k x).pending = s.pending := rfl
@[simp] theorem setCin_freeNext (k : Nat) (x : Option CinAct) : (s.setCin k x).freeNext = s.freeNext := rfl
@[simp] theorem setCin_mem (k : Nat) (x : Option CinAct) : (s.setCin k x).mem = s.mem := rfl
@[simp] theorem setCin_tags (k : Nat) (x : Option CinAct) : (s.setCin k x).tags = s.tags := rfl
@[simp] theorem setCin_tagBad (k : Nat) (x : Option CinAct) : (s.setCin k x).tagBad = s.tagBad := rfl
@[simp] theorem setCin_cw (k : Nat) (x : Option CinAct) : (s.setCin k x).cw = s.cw := rfl
@[simp] theorem setCin_fixQ (k : Nat) (x : Option CinAct) : (s.setCin k x).fixQ = s.fixQ := rfl
@[simp] theorem setCin_regs (k : Nat) (x : Option CinAct) : (s.setCin k x).regs = s.regs := rfl
@[simp] theorem setCin_roles (k : Nat) (x : Option CinAct) : (s.setCin k x).roles = s.roles := rfl
@[simp] theorem setCin_scenes (k : Nat) (x : Option CinAct) : (s.setCin k x).scenes = s.scenes := rfl
@[simp] theorem setCin_cores (k : Nat) (x : Option CinAct) : (s.setCin k x).cores = s.cores := rfl
@[simp] theorem setCin_staging (k : Nat) (x : Option CinAct) : (s.setCin k x).staging = s.staging := rfl
@[simp] theorem setCin_queues (k : Nat) (x : Option CinAct) : (s.setCin k x).queues = s.queues := rfl
@[simp] theorem setCin_latches (k : Nat) (x : Option CinAct) : (s.setCin k x).latches = s.latches := rfl
@[simp] theorem setCin_writers (k : Nat) (x : Option CinAct) : (s.setCin k x).writers = s.writers := rfl
@[simp] theorem setCin_ovf (k : Nat) (x : Option CinAct) : (s.setCin k x).ovf = s.ovf := rfl
@[simp] theorem setCin_caches (k : Nat) (x : Option CinAct) : (s.setCin k x).caches = s.caches := rfl
@[simp] theorem setCin_xev (k : Nat) (x : Option CinAct) : (s.setCin k x).xev = s.xev := rfl
@[simp] theorem setCin_uibIn (k : Nat) (x : Option CinAct) : (s.setCin k x).uibIn = s.uibIn := rfl
@[simp] theorem setCin_log (k : Nat) (x : Option CinAct) : (s.setCin k x).log = s.log := rfl
@[simp] theorem setCin_trace (k : Nat) (x : Option CinAct) : (s.setCin k x).trace = s.trace := rfl
@[simp] theorem setCin_cxl (k : Nat) (x : Option CinAct) : (s.setCin k x).cxl = s.cxl := rfl
@[simp] theorem setCin_hcFail (k : Nat) (x : Option CinAct) : (s.setCin k x).hcFail = s.hcFail := rfl
@[simp] theorem setCin_hc (k : Nat) (x : Option CinAct) : (s.setCin k x).hc = s.hc := rfl
@[simp] theorem setCin_heldW (k : Nat) (x : Option CinAct) : (s.setCin k x).heldW = s.heldW := rfl
@[simp] theorem setCin_ser (k : Nat) (x : Option CinAct) : (s.setCin k x).ser = s.ser := rfl
@[simp] theorem setCin_pulse (k : Nat) (x : Option CinAct) : (s.setCin k x).pulse = s.pulse := rfl
@[simp] theorem setCin_adc (k : Nat) (x : Option CinAct) : (s.setCin k x).adc = s.adc := rfl
@[simp] theorem setCin_padLatch (k : Nat) (x : Option CinAct) : (s.setCin k x).padLatch = s.padLatch := rfl
@[simp] theorem setCin_vioOff (k : Nat) (x : Option CinAct) : (s.setCin k x).vioOff = s.vioOff := rfl
@[simp] theorem setCin_scrub (k : Nat) (x : Option CinAct) : (s.setCin k x).scrub = s.scrub := rfl
@[simp] theorem setCin_sm (k : Nat) (x : Option CinAct) : (s.setCin k x).sm = s.sm := rfl
@[simp] theorem setCin_boot (k : Nat) (x : Option CinAct) : (s.setCin k x).boot = s.boot := rfl
@[simp] theorem setCin_tap (k : Nat) (x : Option CinAct) : (s.setCin k x).tap = s.tap := rfl
@[simp] theorem setCin_metro (k : Nat) (x : Option CinAct) : (s.setCin k x).metro = s.metro := rfl
@[simp] theorem setCin_time (k : Nat) (x : Option CinAct) : (s.setCin k x).time = s.time := rfl
@[simp] theorem setCin_role (k : Nat) (x : Option CinAct) (j : Nat) : (s.setCin k x).role j = s.role j := rfl
@[simp] theorem setCin_scene (k : Nat) (x : Option CinAct) (j : Nat) : (s.setCin k x).scene j = s.scene j := rfl
@[simp] theorem setCin_core (k : Nat) (x : Option CinAct) (j : Nat) : (s.setCin k x).core j = s.core j := rfl
@[simp] theorem setCin_queue (k : Nat) (x : Option CinAct) (j : Nat) : (s.setCin k x).queue j = s.queue j := rfl
@[simp] theorem setCin_latch (k : Nat) (x : Option CinAct) (j : Nat) : (s.setCin k x).latch j = s.latch j := rfl
@[simp] theorem setCin_staged (k : Nat) (x : Option CinAct) (j : Nat) : (s.setCin k x).staged j = s.staged j := rfl
@[simp] theorem setCin_writer (k : Nat) (x : Option CinAct) (j : Nat) : (s.setCin k x).writer j = s.writer j := rfl
@[simp] theorem setCin_ovfOf (k : Nat) (x : Option CinAct) (j : Nat) : (s.setCin k x).ovfOf j = s.ovfOf j := rfl
@[simp] theorem setCin_xevOf (k : Nat) (x : Option CinAct) (j : Nat) : (s.setCin k x).xevOf j = s.xevOf j := rfl
@[simp] theorem setCin_uibInOf (k : Nat) (x : Option CinAct) (j : Nat) : (s.setCin k x).uibInOf j = s.uibInOf j := rfl
@[simp] theorem setCin_reg (k : Nat) (x : Option CinAct) (j : Nat) : (s.setCin k x).reg j = s.reg j := rfl
@[simp] theorem setCin_field (k : Nat) (x : Option CinAct) (j h l : Nat) : (s.setCin k x).field j h l = s.field j h l := rfl
@[simp] theorem setCin_flag (k : Nat) (x : Option CinAct) (j m : Nat) : (s.setCin k x).flag j m = s.flag j m := rfl

@[simp] theorem setUibIn_pending (u : Nat) (x : List (BitVec 4)) : (s.setUibIn u x).pending = s.pending := rfl
@[simp] theorem setUibIn_freeNext (u : Nat) (x : List (BitVec 4)) : (s.setUibIn u x).freeNext = s.freeNext := rfl
@[simp] theorem setUibIn_mem (u : Nat) (x : List (BitVec 4)) : (s.setUibIn u x).mem = s.mem := rfl
@[simp] theorem setUibIn_tags (u : Nat) (x : List (BitVec 4)) : (s.setUibIn u x).tags = s.tags := rfl
@[simp] theorem setUibIn_tagBad (u : Nat) (x : List (BitVec 4)) : (s.setUibIn u x).tagBad = s.tagBad := rfl
@[simp] theorem setUibIn_cw (u : Nat) (x : List (BitVec 4)) : (s.setUibIn u x).cw = s.cw := rfl
@[simp] theorem setUibIn_fixQ (u : Nat) (x : List (BitVec 4)) : (s.setUibIn u x).fixQ = s.fixQ := rfl
@[simp] theorem setUibIn_regs (u : Nat) (x : List (BitVec 4)) : (s.setUibIn u x).regs = s.regs := rfl
@[simp] theorem setUibIn_roles (u : Nat) (x : List (BitVec 4)) : (s.setUibIn u x).roles = s.roles := rfl
@[simp] theorem setUibIn_scenes (u : Nat) (x : List (BitVec 4)) : (s.setUibIn u x).scenes = s.scenes := rfl
@[simp] theorem setUibIn_cores (u : Nat) (x : List (BitVec 4)) : (s.setUibIn u x).cores = s.cores := rfl
@[simp] theorem setUibIn_staging (u : Nat) (x : List (BitVec 4)) : (s.setUibIn u x).staging = s.staging := rfl
@[simp] theorem setUibIn_queues (u : Nat) (x : List (BitVec 4)) : (s.setUibIn u x).queues = s.queues := rfl
@[simp] theorem setUibIn_latches (u : Nat) (x : List (BitVec 4)) : (s.setUibIn u x).latches = s.latches := rfl
@[simp] theorem setUibIn_writers (u : Nat) (x : List (BitVec 4)) : (s.setUibIn u x).writers = s.writers := rfl
@[simp] theorem setUibIn_ovf (u : Nat) (x : List (BitVec 4)) : (s.setUibIn u x).ovf = s.ovf := rfl
@[simp] theorem setUibIn_caches (u : Nat) (x : List (BitVec 4)) : (s.setUibIn u x).caches = s.caches := rfl
@[simp] theorem setUibIn_xev (u : Nat) (x : List (BitVec 4)) : (s.setUibIn u x).xev = s.xev := rfl
@[simp] theorem setUibIn_cin (u : Nat) (x : List (BitVec 4)) : (s.setUibIn u x).cin = s.cin := rfl
@[simp] theorem setUibIn_log (u : Nat) (x : List (BitVec 4)) : (s.setUibIn u x).log = s.log := rfl
@[simp] theorem setUibIn_trace (u : Nat) (x : List (BitVec 4)) : (s.setUibIn u x).trace = s.trace := rfl
@[simp] theorem setUibIn_cxl (u : Nat) (x : List (BitVec 4)) : (s.setUibIn u x).cxl = s.cxl := rfl
@[simp] theorem setUibIn_hcFail (u : Nat) (x : List (BitVec 4)) : (s.setUibIn u x).hcFail = s.hcFail := rfl
@[simp] theorem setUibIn_hc (u : Nat) (x : List (BitVec 4)) : (s.setUibIn u x).hc = s.hc := rfl
@[simp] theorem setUibIn_heldW (u : Nat) (x : List (BitVec 4)) : (s.setUibIn u x).heldW = s.heldW := rfl
@[simp] theorem setUibIn_ser (u : Nat) (x : List (BitVec 4)) : (s.setUibIn u x).ser = s.ser := rfl
@[simp] theorem setUibIn_pulse (u : Nat) (x : List (BitVec 4)) : (s.setUibIn u x).pulse = s.pulse := rfl
@[simp] theorem setUibIn_adc (u : Nat) (x : List (BitVec 4)) : (s.setUibIn u x).adc = s.adc := rfl
@[simp] theorem setUibIn_padLatch (u : Nat) (x : List (BitVec 4)) : (s.setUibIn u x).padLatch = s.padLatch := rfl
@[simp] theorem setUibIn_vioOff (u : Nat) (x : List (BitVec 4)) : (s.setUibIn u x).vioOff = s.vioOff := rfl
@[simp] theorem setUibIn_scrub (u : Nat) (x : List (BitVec 4)) : (s.setUibIn u x).scrub = s.scrub := rfl
@[simp] theorem setUibIn_sm (u : Nat) (x : List (BitVec 4)) : (s.setUibIn u x).sm = s.sm := rfl
@[simp] theorem setUibIn_boot (u : Nat) (x : List (BitVec 4)) : (s.setUibIn u x).boot = s.boot := rfl
@[simp] theorem setUibIn_tap (u : Nat) (x : List (BitVec 4)) : (s.setUibIn u x).tap = s.tap := rfl
@[simp] theorem setUibIn_metro (u : Nat) (x : List (BitVec 4)) : (s.setUibIn u x).metro = s.metro := rfl
@[simp] theorem setUibIn_time (u : Nat) (x : List (BitVec 4)) : (s.setUibIn u x).time = s.time := rfl
@[simp] theorem setUibIn_role (u : Nat) (x : List (BitVec 4)) (j : Nat) : (s.setUibIn u x).role j = s.role j := rfl
@[simp] theorem setUibIn_scene (u : Nat) (x : List (BitVec 4)) (j : Nat) : (s.setUibIn u x).scene j = s.scene j := rfl
@[simp] theorem setUibIn_core (u : Nat) (x : List (BitVec 4)) (j : Nat) : (s.setUibIn u x).core j = s.core j := rfl
@[simp] theorem setUibIn_queue (u : Nat) (x : List (BitVec 4)) (j : Nat) : (s.setUibIn u x).queue j = s.queue j := rfl
@[simp] theorem setUibIn_latch (u : Nat) (x : List (BitVec 4)) (j : Nat) : (s.setUibIn u x).latch j = s.latch j := rfl
@[simp] theorem setUibIn_staged (u : Nat) (x : List (BitVec 4)) (j : Nat) : (s.setUibIn u x).staged j = s.staged j := rfl
@[simp] theorem setUibIn_writer (u : Nat) (x : List (BitVec 4)) (j : Nat) : (s.setUibIn u x).writer j = s.writer j := rfl
@[simp] theorem setUibIn_ovfOf (u : Nat) (x : List (BitVec 4)) (j : Nat) : (s.setUibIn u x).ovfOf j = s.ovfOf j := rfl
@[simp] theorem setUibIn_xevOf (u : Nat) (x : List (BitVec 4)) (j : Nat) : (s.setUibIn u x).xevOf j = s.xevOf j := rfl
@[simp] theorem setUibIn_cinOf (u : Nat) (x : List (BitVec 4)) (j : Nat) : (s.setUibIn u x).cinOf j = s.cinOf j := rfl
@[simp] theorem setUibIn_reg (u : Nat) (x : List (BitVec 4)) (j : Nat) : (s.setUibIn u x).reg j = s.reg j := rfl
@[simp] theorem setUibIn_field (u : Nat) (x : List (BitVec 4)) (j h l : Nat) : (s.setUibIn u x).field j h l = s.field j h l := rfl
@[simp] theorem setUibIn_flag (u : Nat) (x : List (BitVec 4)) (j m : Nat) : (s.setUibIn u x).flag j m = s.flag j m := rfl

@[simp] theorem setReg_pending (a : Nat) (v : Word) : (s.setReg a v).pending = s.pending := rfl
@[simp] theorem setReg_freeNext (a : Nat) (v : Word) : (s.setReg a v).freeNext = s.freeNext := rfl
@[simp] theorem setReg_mem (a : Nat) (v : Word) : (s.setReg a v).mem = s.mem := rfl
@[simp] theorem setReg_tags (a : Nat) (v : Word) : (s.setReg a v).tags = s.tags := rfl
@[simp] theorem setReg_tagBad (a : Nat) (v : Word) : (s.setReg a v).tagBad = s.tagBad := rfl
@[simp] theorem setReg_cw (a : Nat) (v : Word) : (s.setReg a v).cw = s.cw := rfl
@[simp] theorem setReg_fixQ (a : Nat) (v : Word) : (s.setReg a v).fixQ = s.fixQ := rfl
@[simp] theorem setReg_roles (a : Nat) (v : Word) : (s.setReg a v).roles = s.roles := rfl
@[simp] theorem setReg_scenes (a : Nat) (v : Word) : (s.setReg a v).scenes = s.scenes := rfl
@[simp] theorem setReg_cores (a : Nat) (v : Word) : (s.setReg a v).cores = s.cores := rfl
@[simp] theorem setReg_staging (a : Nat) (v : Word) : (s.setReg a v).staging = s.staging := rfl
@[simp] theorem setReg_queues (a : Nat) (v : Word) : (s.setReg a v).queues = s.queues := rfl
@[simp] theorem setReg_latches (a : Nat) (v : Word) : (s.setReg a v).latches = s.latches := rfl
@[simp] theorem setReg_writers (a : Nat) (v : Word) : (s.setReg a v).writers = s.writers := rfl
@[simp] theorem setReg_ovf (a : Nat) (v : Word) : (s.setReg a v).ovf = s.ovf := rfl
@[simp] theorem setReg_caches (a : Nat) (v : Word) : (s.setReg a v).caches = s.caches := rfl
@[simp] theorem setReg_xev (a : Nat) (v : Word) : (s.setReg a v).xev = s.xev := rfl
@[simp] theorem setReg_cin (a : Nat) (v : Word) : (s.setReg a v).cin = s.cin := rfl
@[simp] theorem setReg_uibIn (a : Nat) (v : Word) : (s.setReg a v).uibIn = s.uibIn := rfl
@[simp] theorem setReg_log (a : Nat) (v : Word) : (s.setReg a v).log = s.log := rfl
@[simp] theorem setReg_trace (a : Nat) (v : Word) : (s.setReg a v).trace = s.trace := rfl
@[simp] theorem setReg_cxl (a : Nat) (v : Word) : (s.setReg a v).cxl = s.cxl := rfl
@[simp] theorem setReg_hcFail (a : Nat) (v : Word) : (s.setReg a v).hcFail = s.hcFail := rfl
@[simp] theorem setReg_hc (a : Nat) (v : Word) : (s.setReg a v).hc = s.hc := rfl
@[simp] theorem setReg_heldW (a : Nat) (v : Word) : (s.setReg a v).heldW = s.heldW := rfl
@[simp] theorem setReg_ser (a : Nat) (v : Word) : (s.setReg a v).ser = s.ser := rfl
@[simp] theorem setReg_pulse (a : Nat) (v : Word) : (s.setReg a v).pulse = s.pulse := rfl
@[simp] theorem setReg_adc (a : Nat) (v : Word) : (s.setReg a v).adc = s.adc := rfl
@[simp] theorem setReg_padLatch (a : Nat) (v : Word) : (s.setReg a v).padLatch = s.padLatch := rfl
@[simp] theorem setReg_vioOff (a : Nat) (v : Word) : (s.setReg a v).vioOff = s.vioOff := rfl
@[simp] theorem setReg_scrub (a : Nat) (v : Word) : (s.setReg a v).scrub = s.scrub := rfl
@[simp] theorem setReg_sm (a : Nat) (v : Word) : (s.setReg a v).sm = s.sm := rfl
@[simp] theorem setReg_boot (a : Nat) (v : Word) : (s.setReg a v).boot = s.boot := rfl
@[simp] theorem setReg_tap (a : Nat) (v : Word) : (s.setReg a v).tap = s.tap := rfl
@[simp] theorem setReg_metro (a : Nat) (v : Word) : (s.setReg a v).metro = s.metro := rfl
@[simp] theorem setReg_time (a : Nat) (v : Word) : (s.setReg a v).time = s.time := rfl
@[simp] theorem setReg_role (a : Nat) (v : Word) (j : Nat) : (s.setReg a v).role j = s.role j := rfl
@[simp] theorem setReg_scene (a : Nat) (v : Word) (j : Nat) : (s.setReg a v).scene j = s.scene j := rfl
@[simp] theorem setReg_core (a : Nat) (v : Word) (j : Nat) : (s.setReg a v).core j = s.core j := rfl
@[simp] theorem setReg_queue (a : Nat) (v : Word) (j : Nat) : (s.setReg a v).queue j = s.queue j := rfl
@[simp] theorem setReg_latch (a : Nat) (v : Word) (j : Nat) : (s.setReg a v).latch j = s.latch j := rfl
@[simp] theorem setReg_staged (a : Nat) (v : Word) (j : Nat) : (s.setReg a v).staged j = s.staged j := rfl
@[simp] theorem setReg_writer (a : Nat) (v : Word) (j : Nat) : (s.setReg a v).writer j = s.writer j := rfl
@[simp] theorem setReg_ovfOf (a : Nat) (v : Word) (j : Nat) : (s.setReg a v).ovfOf j = s.ovfOf j := rfl
@[simp] theorem setReg_xevOf (a : Nat) (v : Word) (j : Nat) : (s.setReg a v).xevOf j = s.xevOf j := rfl
@[simp] theorem setReg_cinOf (a : Nat) (v : Word) (j : Nat) : (s.setReg a v).cinOf j = s.cinOf j := rfl
@[simp] theorem setReg_uibInOf (a : Nat) (v : Word) (j : Nat) : (s.setReg a v).uibInOf j = s.uibInOf j := rfl

@[simp] theorem setField_pending (a hi lo v : Nat) : (s.setField a hi lo v).pending = s.pending := rfl
@[simp] theorem setField_freeNext (a hi lo v : Nat) : (s.setField a hi lo v).freeNext = s.freeNext := rfl
@[simp] theorem setField_mem (a hi lo v : Nat) : (s.setField a hi lo v).mem = s.mem := rfl
@[simp] theorem setField_tags (a hi lo v : Nat) : (s.setField a hi lo v).tags = s.tags := rfl
@[simp] theorem setField_tagBad (a hi lo v : Nat) : (s.setField a hi lo v).tagBad = s.tagBad := rfl
@[simp] theorem setField_cw (a hi lo v : Nat) : (s.setField a hi lo v).cw = s.cw := rfl
@[simp] theorem setField_fixQ (a hi lo v : Nat) : (s.setField a hi lo v).fixQ = s.fixQ := rfl
@[simp] theorem setField_roles (a hi lo v : Nat) : (s.setField a hi lo v).roles = s.roles := rfl
@[simp] theorem setField_scenes (a hi lo v : Nat) : (s.setField a hi lo v).scenes = s.scenes := rfl
@[simp] theorem setField_cores (a hi lo v : Nat) : (s.setField a hi lo v).cores = s.cores := rfl
@[simp] theorem setField_staging (a hi lo v : Nat) : (s.setField a hi lo v).staging = s.staging := rfl
@[simp] theorem setField_queues (a hi lo v : Nat) : (s.setField a hi lo v).queues = s.queues := rfl
@[simp] theorem setField_latches (a hi lo v : Nat) : (s.setField a hi lo v).latches = s.latches := rfl
@[simp] theorem setField_writers (a hi lo v : Nat) : (s.setField a hi lo v).writers = s.writers := rfl
@[simp] theorem setField_ovf (a hi lo v : Nat) : (s.setField a hi lo v).ovf = s.ovf := rfl
@[simp] theorem setField_caches (a hi lo v : Nat) : (s.setField a hi lo v).caches = s.caches := rfl
@[simp] theorem setField_xev (a hi lo v : Nat) : (s.setField a hi lo v).xev = s.xev := rfl
@[simp] theorem setField_cin (a hi lo v : Nat) : (s.setField a hi lo v).cin = s.cin := rfl
@[simp] theorem setField_uibIn (a hi lo v : Nat) : (s.setField a hi lo v).uibIn = s.uibIn := rfl
@[simp] theorem setField_log (a hi lo v : Nat) : (s.setField a hi lo v).log = s.log := rfl
@[simp] theorem setField_trace (a hi lo v : Nat) : (s.setField a hi lo v).trace = s.trace := rfl
@[simp] theorem setField_cxl (a hi lo v : Nat) : (s.setField a hi lo v).cxl = s.cxl := rfl
@[simp] theorem setField_hcFail (a hi lo v : Nat) : (s.setField a hi lo v).hcFail = s.hcFail := rfl
@[simp] theorem setField_hc (a hi lo v : Nat) : (s.setField a hi lo v).hc = s.hc := rfl
@[simp] theorem setField_heldW (a hi lo v : Nat) : (s.setField a hi lo v).heldW = s.heldW := rfl
@[simp] theorem setField_ser (a hi lo v : Nat) : (s.setField a hi lo v).ser = s.ser := rfl
@[simp] theorem setField_pulse (a hi lo v : Nat) : (s.setField a hi lo v).pulse = s.pulse := rfl
@[simp] theorem setField_adc (a hi lo v : Nat) : (s.setField a hi lo v).adc = s.adc := rfl
@[simp] theorem setField_padLatch (a hi lo v : Nat) : (s.setField a hi lo v).padLatch = s.padLatch := rfl
@[simp] theorem setField_vioOff (a hi lo v : Nat) : (s.setField a hi lo v).vioOff = s.vioOff := rfl
@[simp] theorem setField_scrub (a hi lo v : Nat) : (s.setField a hi lo v).scrub = s.scrub := rfl
@[simp] theorem setField_sm (a hi lo v : Nat) : (s.setField a hi lo v).sm = s.sm := rfl
@[simp] theorem setField_boot (a hi lo v : Nat) : (s.setField a hi lo v).boot = s.boot := rfl
@[simp] theorem setField_tap (a hi lo v : Nat) : (s.setField a hi lo v).tap = s.tap := rfl
@[simp] theorem setField_metro (a hi lo v : Nat) : (s.setField a hi lo v).metro = s.metro := rfl
@[simp] theorem setField_time (a hi lo v : Nat) : (s.setField a hi lo v).time = s.time := rfl
@[simp] theorem setField_role (a hi lo v : Nat) (j : Nat) : (s.setField a hi lo v).role j = s.role j := rfl
@[simp] theorem setField_scene (a hi lo v : Nat) (j : Nat) : (s.setField a hi lo v).scene j = s.scene j := rfl
@[simp] theorem setField_core (a hi lo v : Nat) (j : Nat) : (s.setField a hi lo v).core j = s.core j := rfl
@[simp] theorem setField_queue (a hi lo v : Nat) (j : Nat) : (s.setField a hi lo v).queue j = s.queue j := rfl
@[simp] theorem setField_latch (a hi lo v : Nat) (j : Nat) : (s.setField a hi lo v).latch j = s.latch j := rfl
@[simp] theorem setField_staged (a hi lo v : Nat) (j : Nat) : (s.setField a hi lo v).staged j = s.staged j := rfl
@[simp] theorem setField_writer (a hi lo v : Nat) (j : Nat) : (s.setField a hi lo v).writer j = s.writer j := rfl
@[simp] theorem setField_ovfOf (a hi lo v : Nat) (j : Nat) : (s.setField a hi lo v).ovfOf j = s.ovfOf j := rfl
@[simp] theorem setField_xevOf (a hi lo v : Nat) (j : Nat) : (s.setField a hi lo v).xevOf j = s.xevOf j := rfl
@[simp] theorem setField_cinOf (a hi lo v : Nat) (j : Nat) : (s.setField a hi lo v).cinOf j = s.cinOf j := rfl
@[simp] theorem setField_uibInOf (a hi lo v : Nat) (j : Nat) : (s.setField a hi lo v).uibInOf j = s.uibInOf j := rfl

@[simp] theorem setFlag_pending (a n : Nat) (b : Bool) : (s.setFlag a n b).pending = s.pending := rfl
@[simp] theorem setFlag_freeNext (a n : Nat) (b : Bool) : (s.setFlag a n b).freeNext = s.freeNext := rfl
@[simp] theorem setFlag_mem (a n : Nat) (b : Bool) : (s.setFlag a n b).mem = s.mem := rfl
@[simp] theorem setFlag_tags (a n : Nat) (b : Bool) : (s.setFlag a n b).tags = s.tags := rfl
@[simp] theorem setFlag_tagBad (a n : Nat) (b : Bool) : (s.setFlag a n b).tagBad = s.tagBad := rfl
@[simp] theorem setFlag_cw (a n : Nat) (b : Bool) : (s.setFlag a n b).cw = s.cw := rfl
@[simp] theorem setFlag_fixQ (a n : Nat) (b : Bool) : (s.setFlag a n b).fixQ = s.fixQ := rfl
@[simp] theorem setFlag_roles (a n : Nat) (b : Bool) : (s.setFlag a n b).roles = s.roles := rfl
@[simp] theorem setFlag_scenes (a n : Nat) (b : Bool) : (s.setFlag a n b).scenes = s.scenes := rfl
@[simp] theorem setFlag_cores (a n : Nat) (b : Bool) : (s.setFlag a n b).cores = s.cores := rfl
@[simp] theorem setFlag_staging (a n : Nat) (b : Bool) : (s.setFlag a n b).staging = s.staging := rfl
@[simp] theorem setFlag_queues (a n : Nat) (b : Bool) : (s.setFlag a n b).queues = s.queues := rfl
@[simp] theorem setFlag_latches (a n : Nat) (b : Bool) : (s.setFlag a n b).latches = s.latches := rfl
@[simp] theorem setFlag_writers (a n : Nat) (b : Bool) : (s.setFlag a n b).writers = s.writers := rfl
@[simp] theorem setFlag_ovf (a n : Nat) (b : Bool) : (s.setFlag a n b).ovf = s.ovf := rfl
@[simp] theorem setFlag_caches (a n : Nat) (b : Bool) : (s.setFlag a n b).caches = s.caches := rfl
@[simp] theorem setFlag_xev (a n : Nat) (b : Bool) : (s.setFlag a n b).xev = s.xev := rfl
@[simp] theorem setFlag_cin (a n : Nat) (b : Bool) : (s.setFlag a n b).cin = s.cin := rfl
@[simp] theorem setFlag_uibIn (a n : Nat) (b : Bool) : (s.setFlag a n b).uibIn = s.uibIn := rfl
@[simp] theorem setFlag_log (a n : Nat) (b : Bool) : (s.setFlag a n b).log = s.log := rfl
@[simp] theorem setFlag_trace (a n : Nat) (b : Bool) : (s.setFlag a n b).trace = s.trace := rfl
@[simp] theorem setFlag_cxl (a n : Nat) (b : Bool) : (s.setFlag a n b).cxl = s.cxl := rfl
@[simp] theorem setFlag_hcFail (a n : Nat) (b : Bool) : (s.setFlag a n b).hcFail = s.hcFail := rfl
@[simp] theorem setFlag_hc (a n : Nat) (b : Bool) : (s.setFlag a n b).hc = s.hc := rfl
@[simp] theorem setFlag_heldW (a n : Nat) (b : Bool) : (s.setFlag a n b).heldW = s.heldW := rfl
@[simp] theorem setFlag_ser (a n : Nat) (b : Bool) : (s.setFlag a n b).ser = s.ser := rfl
@[simp] theorem setFlag_pulse (a n : Nat) (b : Bool) : (s.setFlag a n b).pulse = s.pulse := rfl
@[simp] theorem setFlag_adc (a n : Nat) (b : Bool) : (s.setFlag a n b).adc = s.adc := rfl
@[simp] theorem setFlag_padLatch (a n : Nat) (b : Bool) : (s.setFlag a n b).padLatch = s.padLatch := rfl
@[simp] theorem setFlag_vioOff (a n : Nat) (b : Bool) : (s.setFlag a n b).vioOff = s.vioOff := rfl
@[simp] theorem setFlag_scrub (a n : Nat) (b : Bool) : (s.setFlag a n b).scrub = s.scrub := rfl
@[simp] theorem setFlag_sm (a n : Nat) (b : Bool) : (s.setFlag a n b).sm = s.sm := rfl
@[simp] theorem setFlag_boot (a n : Nat) (b : Bool) : (s.setFlag a n b).boot = s.boot := rfl
@[simp] theorem setFlag_tap (a n : Nat) (b : Bool) : (s.setFlag a n b).tap = s.tap := rfl
@[simp] theorem setFlag_metro (a n : Nat) (b : Bool) : (s.setFlag a n b).metro = s.metro := rfl
@[simp] theorem setFlag_time (a n : Nat) (b : Bool) : (s.setFlag a n b).time = s.time := rfl
@[simp] theorem setFlag_role (a n : Nat) (b : Bool) (j : Nat) : (s.setFlag a n b).role j = s.role j := rfl
@[simp] theorem setFlag_scene (a n : Nat) (b : Bool) (j : Nat) : (s.setFlag a n b).scene j = s.scene j := rfl
@[simp] theorem setFlag_core (a n : Nat) (b : Bool) (j : Nat) : (s.setFlag a n b).core j = s.core j := rfl
@[simp] theorem setFlag_queue (a n : Nat) (b : Bool) (j : Nat) : (s.setFlag a n b).queue j = s.queue j := rfl
@[simp] theorem setFlag_latch (a n : Nat) (b : Bool) (j : Nat) : (s.setFlag a n b).latch j = s.latch j := rfl
@[simp] theorem setFlag_staged (a n : Nat) (b : Bool) (j : Nat) : (s.setFlag a n b).staged j = s.staged j := rfl
@[simp] theorem setFlag_writer (a n : Nat) (b : Bool) (j : Nat) : (s.setFlag a n b).writer j = s.writer j := rfl
@[simp] theorem setFlag_ovfOf (a n : Nat) (b : Bool) (j : Nat) : (s.setFlag a n b).ovfOf j = s.ovfOf j := rfl
@[simp] theorem setFlag_xevOf (a n : Nat) (b : Bool) (j : Nat) : (s.setFlag a n b).xevOf j = s.xevOf j := rfl
@[simp] theorem setFlag_cinOf (a n : Nat) (b : Bool) (j : Nat) : (s.setFlag a n b).cinOf j = s.cinOf j := rfl
@[simp] theorem setFlag_uibInOf (a n : Nat) (b : Bool) (j : Nat) : (s.setFlag a n b).uibInOf j = s.uibInOf j := rfl

@[simp] theorem incField_pending (a hi lo : Nat) : (s.incField a hi lo).pending = s.pending := rfl
@[simp] theorem incField_freeNext (a hi lo : Nat) : (s.incField a hi lo).freeNext = s.freeNext := rfl
@[simp] theorem incField_mem (a hi lo : Nat) : (s.incField a hi lo).mem = s.mem := rfl
@[simp] theorem incField_tags (a hi lo : Nat) : (s.incField a hi lo).tags = s.tags := rfl
@[simp] theorem incField_tagBad (a hi lo : Nat) : (s.incField a hi lo).tagBad = s.tagBad := rfl
@[simp] theorem incField_cw (a hi lo : Nat) : (s.incField a hi lo).cw = s.cw := rfl
@[simp] theorem incField_fixQ (a hi lo : Nat) : (s.incField a hi lo).fixQ = s.fixQ := rfl
@[simp] theorem incField_roles (a hi lo : Nat) : (s.incField a hi lo).roles = s.roles := rfl
@[simp] theorem incField_scenes (a hi lo : Nat) : (s.incField a hi lo).scenes = s.scenes := rfl
@[simp] theorem incField_cores (a hi lo : Nat) : (s.incField a hi lo).cores = s.cores := rfl
@[simp] theorem incField_staging (a hi lo : Nat) : (s.incField a hi lo).staging = s.staging := rfl
@[simp] theorem incField_queues (a hi lo : Nat) : (s.incField a hi lo).queues = s.queues := rfl
@[simp] theorem incField_latches (a hi lo : Nat) : (s.incField a hi lo).latches = s.latches := rfl
@[simp] theorem incField_writers (a hi lo : Nat) : (s.incField a hi lo).writers = s.writers := rfl
@[simp] theorem incField_ovf (a hi lo : Nat) : (s.incField a hi lo).ovf = s.ovf := rfl
@[simp] theorem incField_caches (a hi lo : Nat) : (s.incField a hi lo).caches = s.caches := rfl
@[simp] theorem incField_xev (a hi lo : Nat) : (s.incField a hi lo).xev = s.xev := rfl
@[simp] theorem incField_cin (a hi lo : Nat) : (s.incField a hi lo).cin = s.cin := rfl
@[simp] theorem incField_uibIn (a hi lo : Nat) : (s.incField a hi lo).uibIn = s.uibIn := rfl
@[simp] theorem incField_log (a hi lo : Nat) : (s.incField a hi lo).log = s.log := rfl
@[simp] theorem incField_trace (a hi lo : Nat) : (s.incField a hi lo).trace = s.trace := rfl
@[simp] theorem incField_cxl (a hi lo : Nat) : (s.incField a hi lo).cxl = s.cxl := rfl
@[simp] theorem incField_hcFail (a hi lo : Nat) : (s.incField a hi lo).hcFail = s.hcFail := rfl
@[simp] theorem incField_hc (a hi lo : Nat) : (s.incField a hi lo).hc = s.hc := rfl
@[simp] theorem incField_heldW (a hi lo : Nat) : (s.incField a hi lo).heldW = s.heldW := rfl
@[simp] theorem incField_ser (a hi lo : Nat) : (s.incField a hi lo).ser = s.ser := rfl
@[simp] theorem incField_pulse (a hi lo : Nat) : (s.incField a hi lo).pulse = s.pulse := rfl
@[simp] theorem incField_adc (a hi lo : Nat) : (s.incField a hi lo).adc = s.adc := rfl
@[simp] theorem incField_padLatch (a hi lo : Nat) : (s.incField a hi lo).padLatch = s.padLatch := rfl
@[simp] theorem incField_vioOff (a hi lo : Nat) : (s.incField a hi lo).vioOff = s.vioOff := rfl
@[simp] theorem incField_scrub (a hi lo : Nat) : (s.incField a hi lo).scrub = s.scrub := rfl
@[simp] theorem incField_sm (a hi lo : Nat) : (s.incField a hi lo).sm = s.sm := rfl
@[simp] theorem incField_boot (a hi lo : Nat) : (s.incField a hi lo).boot = s.boot := rfl
@[simp] theorem incField_tap (a hi lo : Nat) : (s.incField a hi lo).tap = s.tap := rfl
@[simp] theorem incField_metro (a hi lo : Nat) : (s.incField a hi lo).metro = s.metro := rfl
@[simp] theorem incField_time (a hi lo : Nat) : (s.incField a hi lo).time = s.time := rfl
@[simp] theorem incField_role (a hi lo : Nat) (j : Nat) : (s.incField a hi lo).role j = s.role j := rfl
@[simp] theorem incField_scene (a hi lo : Nat) (j : Nat) : (s.incField a hi lo).scene j = s.scene j := rfl
@[simp] theorem incField_core (a hi lo : Nat) (j : Nat) : (s.incField a hi lo).core j = s.core j := rfl
@[simp] theorem incField_queue (a hi lo : Nat) (j : Nat) : (s.incField a hi lo).queue j = s.queue j := rfl
@[simp] theorem incField_latch (a hi lo : Nat) (j : Nat) : (s.incField a hi lo).latch j = s.latch j := rfl
@[simp] theorem incField_staged (a hi lo : Nat) (j : Nat) : (s.incField a hi lo).staged j = s.staged j := rfl
@[simp] theorem incField_writer (a hi lo : Nat) (j : Nat) : (s.incField a hi lo).writer j = s.writer j := rfl
@[simp] theorem incField_ovfOf (a hi lo : Nat) (j : Nat) : (s.incField a hi lo).ovfOf j = s.ovfOf j := rfl
@[simp] theorem incField_xevOf (a hi lo : Nat) (j : Nat) : (s.incField a hi lo).xevOf j = s.xevOf j := rfl
@[simp] theorem incField_cinOf (a hi lo : Nat) (j : Nat) : (s.incField a hi lo).cinOf j = s.cinOf j := rfl
@[simp] theorem incField_uibInOf (a hi lo : Nat) (j : Nat) : (s.incField a hi lo).uibInOf j = s.uibInOf j := rfl

/-! ### A part read after its own update -/

@[simp] theorem setRole_role_self (k : Nat) (x : Role) : (s.setRole k x).role k = x := Sparse.get_put_self _ _ _ _
@[simp] theorem setRole_role_ne (k j : Nat) (x : Role) (h : j ≠ k) : (s.setRole k x).role j = s.role j := Sparse.get_put_ne _ _ _ h
@[simp] theorem setScene_scene_self (k : Nat) (x : Scene) : (s.setScene k x).scene k = x := Sparse.get_put_self _ _ _ _
@[simp] theorem setScene_scene_ne (k j : Nat) (x : Scene) (h : j ≠ k) : (s.setScene k x).scene j = s.scene j := Sparse.get_put_ne _ _ _ h
@[simp] theorem setCore_core_self (k : Nat) (x : Core) : (s.setCore k x).core k = x := Sparse.get_put_self _ _ _ _
@[simp] theorem setCore_core_ne (k j : Nat) (x : Core) (h : j ≠ k) : (s.setCore k x).core j = s.core j := Sparse.get_put_ne _ _ _ h
@[simp] theorem setQueue_queue_self (k : Nat) (x : Queue) : (s.setQueue k x).queue k = x := Sparse.get_put_self _ _ _ _
@[simp] theorem setQueue_queue_ne (k j : Nat) (x : Queue) (h : j ≠ k) : (s.setQueue k x).queue j = s.queue j := Sparse.get_put_ne _ _ _ h
@[simp] theorem setLatch_latch_self (k : Nat) (x : Latch) : (s.setLatch k x).latch k = x := Sparse.get_put_self _ _ _ _
@[simp] theorem setLatch_latch_ne (k j : Nat) (x : Latch) (h : j ≠ k) : (s.setLatch k x).latch j = s.latch j := Sparse.get_put_ne _ _ _ h
@[simp] theorem setStaged_staged_self (k : Nat) (x : List Staged) : (s.setStaged k x).staged k = x := Sparse.get_put_self _ _ _ _
@[simp] theorem setStaged_staged_ne (k j : Nat) (x : List Staged) (h : j ≠ k) : (s.setStaged k x).staged j = s.staged j := Sparse.get_put_ne _ _ _ h
@[simp] theorem setWriter_writer_self (k : Nat) (x : List CsRec) : (s.setWriter k x).writer k = x := Sparse.get_put_self _ _ _ _
@[simp] theorem setWriter_writer_ne (k j : Nat) (x : List CsRec) (h : j ≠ k) : (s.setWriter k x).writer j = s.writer j := Sparse.get_put_ne _ _ _ h
@[simp] theorem setOvf_ovfOf_self (k : Nat) (x : Ovf) : (s.setOvf k x).ovfOf k = x := Sparse.get_put_self _ _ _ _
@[simp] theorem setOvf_ovfOf_ne (k j : Nat) (x : Ovf) (h : j ≠ k) : (s.setOvf k x).ovfOf j = s.ovfOf j := Sparse.get_put_ne _ _ _ h
@[simp] theorem setXev_xevOf_self (k : Nat) (x : Xev) : (s.setXev k x).xevOf k = x := Sparse.get_put_self _ _ _ _
@[simp] theorem setXev_xevOf_ne (k j : Nat) (x : Xev) (h : j ≠ k) : (s.setXev k x).xevOf j = s.xevOf j := Sparse.get_put_ne _ _ _ h
@[simp] theorem setCin_cinOf_self (k : Nat) (x : Option CinAct) : (s.setCin k x).cinOf k = x := Sparse.get_put_self _ _ _ _
@[simp] theorem setCin_cinOf_ne (k j : Nat) (x : Option CinAct) (h : j ≠ k) : (s.setCin k x).cinOf j = s.cinOf j := Sparse.get_put_ne _ _ _ h
@[simp] theorem setUibIn_uibInOf_self (k : Nat) (x : List (BitVec 4)) : (s.setUibIn k x).uibInOf k = x := Sparse.get_put_self _ _ _ _
@[simp] theorem setUibIn_uibInOf_ne (k j : Nat) (x : List (BitVec 4)) (h : j ≠ k) : (s.setUibIn k x).uibInOf j = s.uibInOf j := Sparse.get_put_ne _ _ _ h
@[simp] theorem setReg_reg_self (k : Nat) (x : Word) : (s.setReg k x).reg k = x := Sparse.get_put_self _ _ _ _
@[simp] theorem setReg_reg_ne (k j : Nat) (x : Word) (h : j ≠ k) : (s.setReg k x).reg j = s.reg j := Sparse.get_put_ne _ _ _ h
@[simp] theorem modRole_role_self (r : Nat) (f : Role → Role) : (s.modRole r f).role r = f (s.role r) := Sparse.get_put_self _ _ _ _
@[simp] theorem modRole_role_ne (r j : Nat) (f : Role → Role) (h : j ≠ r) : (s.modRole r f).role j = s.role j :=
  Sparse.get_put_ne _ _ _ h
@[simp] theorem setField_reg_self (a hi lo v : Nat) : (s.setField a hi lo v).reg a = setBits (s.reg a) hi lo v :=
  Sparse.get_put_self _ _ _ _
@[simp] theorem setField_reg_ne (a j hi lo v : Nat) (h : j ≠ a) : (s.setField a hi lo v).reg j = s.reg j := Sparse.get_put_ne _ _ _ h
@[simp] theorem setFlag_reg_self (a n : Nat) (b : Bool) : (s.setFlag a n b).reg a = setBit (s.reg a) n b := Sparse.get_put_self _ _ _ _
@[simp] theorem setFlag_reg_ne (a j n : Nat) (b : Bool) (h : j ≠ a) : (s.setFlag a n b).reg j = s.reg j := Sparse.get_put_ne _ _ _ h
@[simp] theorem incField_reg_ne (a j hi lo : Nat) (h : j ≠ a) : (s.incField a hi lo).reg j = s.reg j := Sparse.get_put_ne _ _ _ h

end Sys2Proof.Machine.State
end

