-- ==== Sys2Proof/Laws/Issue.lean ====
section
/-! SUPPORT. Laws of issue and retirement: a row that takes its word runs the instruction's body, and what a retirement leaves. -/

namespace Sys2Proof.Machine

theorem ok_of_toOption {e : Except Byte Op} {o : Op} (h : e.toOption = some o) : e = .ok o := by
  cases e with
  | error _ => cases h
  | ok _ => cases h; rfl

/-- A row whose word the role takes runs the instruction's body from the state that the issue leaves. -/
theorem issue_takes {s t : State} {r : Nat} {op : Op} {w : Word} {body : Body} (h : s.takes r op w = some t) :
    issue s r op w body = body t r w := by
  unfold State.takes at h
  unfold issue
  split at h
  · cases h
  · rename_i hr
    simp only [Bool.not_eq_true] at hr
    simp only [hr, Bool.false_eq_true, if_false]
    cases hb : (s.role r).busy with
    | blocked v =>
      simp only [hb] at h ⊢
      split at h
      · rename_i hc
        simp only [Bool.and_eq_true, decide_eq_true_eq] at hc
        cases h
        simp [hc.1, ok_of_toOption hc.2]
      · cases h
    | _ =>
      all_goals
        simp only [hb] at h ⊢
        cases hn : nextWord s r with
        | none => simp [hn] at h
        | some p =>
          obtain ⟨q, g⟩ := p
          cases g with
          | fault a b c => simp [hn] at h
          | word v =>
            simp only [hn] at h ⊢
            split at h
            · rename_i hc
              simp only [Bool.and_eq_true, decide_eq_true_eq] at hc
              obtain ⟨⟨hv, hd⟩, hm⟩ := hc
              have hd := ok_of_toOption hd
              simp only [hv, hd, hm, ne_eq, not_true_eq_false, if_false, decide_true, Bool.and_self, if_true]
              unfold run
              split at h
              · cases h
              · rename_i hh
                split at h
                · rename_i hcond
                  cases h
                  simp only [hh, hcond, if_true]
                  rfl
                · cases h
            · cases h

@[simp] theorem countRetired_role (s : State) (r q : Nat) : (countRetired s r).role q = s.role q := by
  unfold countRetired; split <;> rfl

/-- A retirement counts in the scene's count and nowhere else. -/
theorem countRetired_rest (s : State) (r : Nat) : countRetired s r = { s with scenes := (countRetired s r).scenes } := by
  unfold countRetired; split <;> rfl

/-- A retirement outside a prompt and a repeat, to the next word. -/
theorem finish_plain (t : State) (r : Nat) (x : Role) (hp : x.prompt = false) (hr : x.rep = none) :
    finish (t.setRole r x) r none =
      (countRetired (t.setRole r x) r).setRole r { (clearConsec x x.pc) with busy := .idle, pc := x.pc + 4 } := by
  simp [finish, hp, hr, State.modRole]

theorem clearConsec_hit (x : Role) (h : x.abnId = some ⟨x.pc, (x.tick 0).base⟩) :
    clearConsec x x.pc = { x with abcnt := setBits x.abcnt 3 0 0, abnId := none, starved := false } := by
  simp [clearConsec, h]

theorem clearConsec_miss (x : Role) (h : x.abnId ≠ some ⟨x.pc, (x.tick 0).base⟩) : clearConsec x x.pc = x := by
  simp [clearConsec, h]

/-- What the retirement of an instruction row leaves, from the role that the instruction made. -/
theorem retired_finish (t : State) (r : Nat) (x : Role) (hp : x.prompt = false) (hr : x.rep = none) :
    Retired t (finish (t.setRole r x) r none) r x := by
  rw [finish_plain t r x hp hr]
  constructor
  · rw [State.setRole_role_self]
    unfold clearConsec
    split <;> rfl
  · intro h
    rw [State.setRole_role_self, clearConsec_hit x h]
    exact ⟨rfl, rfl, rfl⟩
  · intro h
    rw [State.setRole_role_self, clearConsec_miss x h]
    exact ⟨rfl, rfl, rfl⟩
  · intro q hq
    rw [State.setRole_role_ne _ _ _ _ hq, countRetired_role, State.setRole_role_ne _ _ _ _ hq]
  · rw [State.setRole_scene]
    unfold countRetired
    by_cases h : x.sc = true ∧ isLead r = false
    · simp [h.1, h.2]
    · rw [if_neg h, if_neg (by simpa using h)]
      rfl
  · intro q hq
    rw [State.setRole_scene]
    unfold countRetired
    split
    · rw [State.setScene_scene_ne _ _ _ _ hq]; rfl
    · rfl
  · rw [countRetired_rest]; rfl

end Sys2Proof.Machine
end

