-- ==== Sys2Proof/Laws/Quiet.lean ====
section
/-! SUPPORT. What fetches, spot units and reports leave alone: every role but for its hold request, reservation and late error, the
scenes, the cores and the queues. One lemma for each operation on the way. -/

namespace Sys2Proof.Machine

/-- The roles of s are those of p but for what `Role.quiet` leaves out; its scenes, cores and queues are those of p. -/
abbrev Quiet (p s : State) : Prop := (∀ q, (Sparse.get (fun _ => Role.reset) s.roles q).quiet = (p.role q).quiet) ∧ s.scenes = p.scenes ∧ s.cores = p.cores ∧ s.queues = p.queues
variable {p : State} {s t : State}
theorem State.setLatch_quiet {i : Nat} {x : Latch} (h : Quiet p s) : Quiet p (s.setLatch i x) := h
theorem State.setStaged_quiet {a : Nat} {x : List Staged} (h : Quiet p s) : Quiet p (s.setStaged a x) := h
theorem State.setWriter_quiet {c : Nat} {x : List CsRec} (h : Quiet p s) : Quiet p (s.setWriter c x) := h
theorem State.setOvf_quiet {k : Nat} {x : Ovf} (h : Quiet p s) : Quiet p (s.setOvf k x) := h
theorem State.setXev_quiet {e : Nat} {x : Xev} (h : Quiet p s) : Quiet p (s.setXev e x) := h
theorem State.setCin_quiet {k : Nat} {x : Option CinAct} (h : Quiet p s) : Quiet p (s.setCin k x) := h
theorem State.setUibIn_quiet {u : Nat} {x : List (BitVec 4)} (h : Quiet p s) : Quiet p (s.setUibIn u x) := h
theorem State.setReg_quiet {a : Nat} {v : Word} (h : Quiet p s) : Quiet p (s.setReg a v) := h
theorem State.setField_quiet {a hi lo v : Nat} (h : Quiet p s) : Quiet p (s.setField a hi lo v) := h
theorem State.setFlag_quiet {a n : Nat} {b : Bool} (h : Quiet p s) : Quiet p (s.setFlag a n b) := h
theorem State.incField_quiet {a hi lo : Nat} (h : Quiet p s) : Quiet p (s.incField a hi lo) := h
theorem State.fresh_quiet  (h : Quiet p s) : Quiet p (s.fresh.1) := h
theorem setByteAt_quiet {k : Nat} {b : Byte} (h : Quiet p s) : Quiet p (setByteAt s k b) := h
theorem setTagAt_quiet {g : Nat} {b : Bool} (h : Quiet p s) : Quiet p (setTagAt s g b) := h
theorem setCwAt_quiet {k : Nat} {c : Cw} (h : Quiet p s) : Quiet p (setCwAt s k c) := h
theorem setHc_quiet {k : Nat} {x : Hc} (h : Quiet p s) : Quiet p (setHc s k x) := h
theorem setSer_quiet {k : Nat} {x : SerCh} (h : Quiet p s) : Quiet p (setSer s k x) := h
theorem setPulse_quiet {k : Nat} {x : PulseU} (h : Quiet p s) : Quiet p (setPulse s k x) := h
theorem setAdc_quiet {k : Nat} {x : AdcSt} (h : Quiet p s) : Quiet p (setAdc s k x) := h
theorem Quiet.ofMk {x_pending} {x_freeNext} {x_mem} {x_tags} {x_tagBad} {x_cw} {x_fixQ} {x_regs} {x_roles} {x_scenes} {x_cores} {x_staging} {x_queues} {x_latches} {x_writers} {x_ovf} {x_caches} {x_xev} {x_cin} {x_uibIn} {x_log} {x_trace} {x_cxl} {x_hcFail} {x_hc} {x_heldW} {x_ser} {x_pulse} {x_adc} {x_padLatch} {x_vioOff} {x_scrub} {x_sm} {x_boot} {x_tap} {x_metro} {x_time} (h : (∀ q, (Sparse.get (fun _ => Role.reset) x_roles q).quiet = (p.role q).quiet) ∧ x_scenes = p.scenes ∧ x_cores = p.cores ∧ x_queues = p.queues) : Quiet p (State.mk x_pending x_freeNext x_mem x_tags x_tagBad x_cw x_fixQ x_regs x_roles x_scenes x_cores x_staging x_queues x_latches x_writers x_ovf x_caches x_xev x_cin x_uibIn x_log x_trace x_cxl x_hcFail x_hc x_heldW x_ser x_pulse x_adc x_padLatch x_vioOff x_scrub x_sm x_boot x_tap x_metro x_time) := h
theorem Quiet.ofMkId (h : Quiet p s) : (∀ q, (Sparse.get (fun _ => Role.reset) s.roles q).quiet = (p.role q).quiet) ∧ s.scenes = p.scenes ∧ s.cores = p.cores ∧ s.queues = p.queues := h
/-- The same of the state in an optional result, in an optional pair, and in a result that may be an error. -/
abbrev QuietO (p : State) (o : Option State) : Prop := ∀ t, o = some t → Quiet p t
abbrev QuietOP {α : Type} (p : State) (o : Option (State × α)) : Prop := ∀ t x, o = some (t, x) → Quiet p t
abbrev QuietE {ε : Type} (p : State) (o : Except ε State) : Prop := ∀ t, o = .ok t → Quiet p t

theorem QuietO.none : QuietO p Option.none := fun _ e => nomatch e
theorem QuietO.some (h : Quiet p s) : QuietO p (Option.some s) := fun _ e => Option.some.inj e ▸ h
theorem QuietOP.none {α : Type} : QuietOP p (Option.none : Option (State × α)) := fun _ _ e => nomatch e
theorem QuietOP.some {α : Type} {x : State × α} (h : Quiet p x.1) : QuietOP p (Option.some x) := fun t y e => by
  cases Option.some.inj e; exact h
theorem QuietE.error {ε : Type} {e : ε} : QuietE p (Except.error e) := fun _ e => nomatch e
theorem QuietE.ok {ε : Type} (h : Quiet p s) : QuietE (ε := ε) p (Except.ok s) := fun _ e => Except.ok.inj e ▸ h

theorem QuietO.get {o : Option State} (h : QuietO p o) (e : o = Option.some t) : Quiet p t := h t e
theorem QuietOP.get {α : Type} {o : Option (State × α)} {x : α} (h : QuietOP p o) (e : o = Option.some (t, x)) : Quiet p t := h t x e
theorem QuietE.get {ε : Type} {o : Except ε State} (h : QuietE p o) (e : o = Except.ok t) : Quiet p t := h t e
theorem Quiet.ite {c : Prop} [Decidable c] (hs : Quiet p s) (ht : Quiet p t) : Quiet p (if c then s else t) := by
  split
  · exact hs
  · exact ht
theorem Quiet.iteFst {α : Type} {c : Prop} [Decidable c] {x y : State × α} (hs : Quiet p x.1) (ht : Quiet p y.1) :
    Quiet p (if c then x else y).1 := by
  split
  · exact hs
  · exact ht
theorem QuietO.ite {c : Prop} [Decidable c] {x y : Option State} (hs : QuietO p x) (ht : QuietO p y) :
    QuietO p (if c then x else y) := by
  split
  · exact hs
  · exact ht
theorem QuietOP.ite {α : Type} {c : Prop} [Decidable c] {x y : Option (State × α)} (hs : QuietOP p x) (ht : QuietOP p y) :
    QuietOP p (if c then x else y) := by
  split
  · exact hs
  · exact ht
theorem QuietE.ite {ε : Type} {c : Prop} [Decidable c] {x y : Except ε State} (hs : QuietE p x) (ht : QuietE p y) :
    QuietE p (if c then x else y) := by
  split
  · exact hs
  · exact ht
theorem QuietO.map {α : Type} {o : Option α} {f : α → State} (h : ∀ x, Quiet p (f x)) : QuietO p (o.map f) := by
  cases o with
  | none => exact QuietO.none
  | some x => exact QuietO.some (h x)
theorem QuietO.bind {o : Option State} {f : State → Option State} (hf : ∀ s, Quiet p s → QuietO p (f s)) (h : QuietO p o) :
    QuietO p (o.bind f) := by
  cases o with
  | none => exact QuietO.none
  | some s => exact hf s (h s rfl)
theorem QuietO.foldlBind {β : Type} {f : State → β → Option State} {l : List β} {o : Option State}
    (hf : ∀ s x, Quiet p s → QuietO p (f s x)) (h : QuietO p o) :
    QuietO p (l.foldl (fun o x => o.bind (fun s => f s x)) o) := by
  induction l generalizing o with
  | nil => exact h
  | cons x l ih => exact ih (QuietO.bind (fun s hs => hf s x hs) h)

theorem Quiet.ofPair {α : Type} {x : State × α} {t : State} {v : α} (e : x = (t, v)) (h : Quiet p x.1) : Quiet p t := by
  subst e; exact h
theorem Quiet.ofEq {α : Type} {x y : State × α} (e : x = y) (h : Quiet p x.1) : Quiet p y.1 := e ▸ h
theorem Quiet.ofFst {α : Type} {v : α} (h : Quiet p s) : Quiet p (s, v).1 := h
theorem Quiet.ofGetD {o : Option State} (h : Quiet p s) (ho : ∀ t, o = some t → Quiet p t) : Quiet p (o.getD s) := by
  cases o with
  | none => exact h
  | some t => exact ho t rfl
theorem Quiet.foldl {β : Type} {f : State → β → State} {l : List β} (hf : ∀ s x, Quiet p s → Quiet p (f s x)) (h : Quiet p s) :
    Quiet p (l.foldl f s) := by
  induction l generalizing s with
  | nil => exact h
  | cons x l ih => exact ih (hf s x h)
theorem Quiet.foldlFst {α β : Type} {f : State × α → β → State × α} {l : List β} {a : State × α}
    (hf : ∀ a x, Quiet p a.1 → Quiet p (f a x).1) (h : Quiet p a.1) : Quiet p (l.foldl f a).1 := by
  induction l generalizing a with
  | nil => exact h
  | cons x l ih => exact ih (hf a x h)



theorem State.setRole_quiet {r : Nat} {x : Role} (h : Quiet p s) (hx : x.quiet = (s.role r).quiet := by rfl) : Quiet p (s.setRole r x) := by
  refine ⟨fun q => ?_, h.2⟩
  show (Sparse.get (fun _ => Role.reset) (Sparse.put (fun _ => Role.reset) s.roles r x) q).quiet = _
  rw [Sparse.get_put]
  split
  · rename_i e; subst e; rw [hx]; exact h.1 q
  · exact h.1 q
theorem State.modRole_quiet {r : Nat} {f : Role → Role} (h : Quiet p s) (hx : ∀ x, (f x).quiet = x.quiet := by intro x; rfl) : Quiet p (s.modRole r f) :=
  State.setRole_quiet h (hx _)
theorem clearResv_quiet {p : State} {s : State} {a1 : Option Nat} {a2 : Nat} (h : Quiet p s) : Quiet p (clearResv s a1 a2) := by
  unfold clearResv
  refine Quiet.foldl ?_ h
  intro s x h
  refine Quiet.ite h (State.modRole_quiet h)

theorem putLine_quiet {p : State} {s : State} {a1 : CLine} (h : Quiet p s) : Quiet p (putLine s a1) := by
  unfold putLine
  assumption

theorem readLine_quiet {p : State} {s : State} {a1 : CLine} {a2 : Nat} {a3 : Nat} (h : Quiet p s) : Quiet p (readLine s a1 a2 a3).1 := by
  unfold readLine
  extract_lets v0
  clear_value v0
  split
  · refine Quiet.ofFst ?_
    refine putLine_quiet ?_
    assumption
  · refine Quiet.ofFst ?_
    refine putLine_quiet ?_
    assumption

theorem fetchCached_quiet {p : State} {s : State} {a1 : Nat} {a2 : Nat} (h : Quiet p s) : QuietOP p (fetchCached s a1 a2) := by
  unfold fetchCached
  extract_lets v0 v1
  clear_value v1
  clear_value v0
  refine QuietOP.ite ?_ ?_
  · refine QuietOP.some ?_
    assumption
  · split
    · refine QuietOP.some ?_
      refine readLine_quiet ?_
      assumption
    · split
      · refine QuietOP.some ?_
        refine Quiet.ofFst ?_
        refine Quiet.ofPair (by assumption) ?_
        refine readLine_quiet ?_
        assumption
      · split
        · refine QuietOP.some ?_
          refine Quiet.ofFst ?_
          refine Quiet.ofPair (by assumption) ?_
          refine readLine_quiet ?_
          refine Quiet.ofPair (by assumption) ?_
          refine readLine_quiet ?_
          assumption
        · refine QuietOP.some ?_
          refine Quiet.ofFst ?_
          refine Quiet.ofPair (by assumption) ?_
          refine readLine_quiet ?_
          refine Quiet.ofPair (by assumption) ?_
          refine readLine_quiet ?_
          assumption
    · refine QuietOP.none

theorem recordFault_quiet {p : State} {a0 : Nat} {a1 : Nat} {a2 : Nat} {a3 : Nat} {a4 : Option Nat} {s : State} {a6 : Nat} (h : Quiet p s) : Quiet p (recordFault a0 a1 a2 a3 a4 s a6) := by
  unfold recordFault
  extract_lets v0 v1
  have hv0 : Quiet p v0 := by
    unfold v0
    refine State.incField_quiet ?_
    assumption
  clear_value v1
  clear_value v0
  refine Quiet.ite ?_ ?_
  · assumption
  · refine State.setReg_quiet ?_
    refine State.setReg_quiet ?_
    refine State.setReg_quiet ?_
    assumption

theorem raiseFault_quiet {p : State} {s : State} {a1 : Nat} {a2 : Nat} {a3 : Nat} {a4 : Nat} {a5 : Option Nat} (h : Quiet p s) : Quiet p (raiseFault s a1 a2 a3 a4 a5) := by
  unfold raiseFault
  refine Quiet.foldl ?_ ?_
  · intro a0
    intro a2
    intro h5
    refine recordFault_quiet ?_
    assumption
  · refine State.setFlag_quiet ?_
    assumption

theorem addScore_quiet {p : State} {s : State} {a1 : Nat} {a2 : Nat} (h : Quiet p s) : Quiet p (addScore s a1 a2) := by
  unfold addScore
  refine State.setField_quiet ?_
  assumption

theorem cxlError_quiet {p : State} {s : State} {a1 : Nat} {a2 : Nat} {a3 : Option Nat} {a4 : Nat} (h : Quiet p s) : Quiet p (cxlError s a1 a2 a3 a4) := by
  unfold cxlError
  extract_lets v0 v1
  have hv0 : Quiet p v0 := by
    unfold v0
    refine State.setFlag_quiet ?_
    assumption
  have hv1 : Quiet p v1 := by
    unfold v1
    refine raiseFault_quiet ?_
    assumption
  clear_value v1
  clear_value v0
  refine Quiet.ite ?_ ?_
  · assumption
  · refine Quiet.ite ?_ ?_
    · assumption
    · split
      extract_lets v2 v3 v4 v5
      have hv2 : Quiet p v2 := by
        unfold v2
        refine State.setReg_quiet ?_
        refine Quiet.ofPair (by assumption) ?_
        refine State.fresh_quiet ?_
        assumption
      have hv3 : Quiet p v3 := by
        unfold v3
        refine State.setReg_quiet ?_
        assumption
      have hv4 : Quiet p v4 := by
        unfold v4
        refine State.setReg_quiet ?_
        assumption
      have hv5 : Quiet p v5 := by
        unfold v5
        refine State.setReg_quiet ?_
        assumption
      clear_value v5
      clear_value v4
      clear_value v3
      clear_value v2
      refine State.setReg_quiet ?_
      assumption

theorem poisonReceived_quiet {p : State} {s : State} {a1 : Nat} {a2 : Nat} {a3 : Nat} (h : Quiet p s) : Quiet p (poisonReceived s a1 a2 a3) := by
  unfold poisonReceived
  refine addScore_quiet ?_
  refine cxlError_quiet ?_
  assumption

theorem loseRecord_quiet {p : State} {s : State} {a1 : Nat} {a2 : Nat} {a3 : BitVec 16} {a4 : Sys2Proof.Word} {a5 : Bool} (h : Quiet p s) : Quiet p (loseRecord s a1 a2 a3 a4 a5) := by
  unfold loseRecord
  extract_lets v0 v1 v2
  have hv0 : Quiet p v0 := by
    unfold v0
    refine State.incField_quiet ?_
    assumption
  clear_value v2
  clear_value v1
  clear_value v0
  refine Quiet.ite ?_ ?_
  · assumption
  · refine State.setFlag_quiet ?_
    refine State.setOvf_quiet ?_
    assumption

theorem postRecord_quiet {p : State} {s : State} {a1 : CsRec} (h : Quiet p s) : Quiet p (postRecord s a1) := by
  unfold postRecord
  extract_lets v0 v1 v2
  have hv2 : Quiet p v2 := by
    unfold v2
    refine State.setWriter_quiet ?_
    assumption
  clear_value v2
  clear_value v1
  clear_value v0
  refine Quiet.ite ?_ ?_
  · refine State.setField_quiet ?_
    assumption
  · refine loseRecord_quiet ?_
    refine State.incField_quiet ?_
    assumption

theorem logRecord_quiet {p : State} {s : State} {a1 : CsRec} (h : Quiet p s) : Quiet p (logRecord s a1) := by
  unfold logRecord
  assumption

theorem notice_quiet {p : State} {s : State} {a1 : Nat} {a2 : Nat} {a3 : List Sys2Proof.Byte} (h : Quiet p s) : Quiet p (notice s a1 a2 a3) := by
  unfold notice
  extract_lets v0 v1
  clear_value v1
  clear_value v0
  refine Quiet.ite ?_ ?_
  · refine postRecord_quiet ?_
    refine logRecord_quiet ?_
    assumption
  · refine logRecord_quiet ?_
    assumption

theorem windowNotice_quiet {p : State} {s : State} (h : Quiet p s) : Quiet p (windowNotice s) := by
  unfold windowNotice
  split
  refine notice_quiet ?_
  refine Quiet.ofPair (by assumption) ?_
  refine State.fresh_quiet ?_
  assumption

theorem setNatAt_quiet {p : State} {s : State} {a1 : Nat} {a2 : Nat} {a3 : Nat} {a4 : Nat} (h : Quiet p s) : Quiet p (setNatAt s a1 a2 a3 a4) := by
  unfold setNatAt
  refine Quiet.foldl ?_ ?_
  · intro a0
    intro a2
    intro h5
    refine Quiet.ite ?_ ?_
    · refine setByteAt_quiet ?_
      assumption
    · assumption
  · assumption

theorem shdLast_quiet {p : State} {s : State} {a1 : Nat} {a2 : Nat} {a3 : Bool} {a4 : Bool} (h : Quiet p s) : Quiet p (shdLast s a1 a2 a3 a4) := by
  unfold shdLast
  refine State.setReg_quiet ?_
  refine State.setReg_quiet ?_
  assumption

theorem readShadowed_quiet {p : State} {s : State} {a1 : Nat} {a2 : Nat} (h : Quiet p s) : Quiet p (readShadowed s a1 a2).1 := by
  unfold readShadowed
  extract_lets v0 v1 v2
  have hv2 : Quiet p v2 := by
    unfold v2
    refine shdLast_quiet ?_
    refine State.incField_quiet ?_
    assumption
  clear_value v2
  clear_value v1
  clear_value v0
  split
  · split
    · extract_lets v3 v4 v5 v6
      have hv6 : Quiet p v6 := by
        unfold v6
        refine Quiet.foldl ?_ ?_
        · intro a7
          intro a9
          intro h12
          split
          · refine setNatAt_quiet ?_
            assumption
          · assumption
        · assumption
      clear_value v6
      clear_value v5
      clear_value v4
      clear_value v3
      split
      · extract_lets v13
        have hv13 : Quiet p v13 := by
          unfold v13
          refine shdLast_quiet ?_
          refine State.incField_quiet ?_
          assumption
        clear_value v13
        refine Quiet.iteFst ?_ ?_
        · assumption
        · refine Quiet.iteFst ?_ ?_
          · assumption
          · refine Quiet.ofFst ?_
            refine raiseFault_quiet ?_
            assumption
      · refine Quiet.ofFst ?_
        refine windowNotice_quiet ?_
        assumption
    · assumption
  · assumption

theorem readWindow_quiet {p : State} {s : State} {a1 : Nat} {a2 : Nat} (h : Quiet p s) : Quiet p (readWindow s a1 a2).1 := by
  unfold readWindow
  extract_lets v0 v1 v2 v3
  clear_value v3
  clear_value v2
  clear_value v1
  clear_value v0
  refine Quiet.iteFst ?_ ?_
  · refine Quiet.ofFst ?_
    refine raiseFault_quiet ?_
    assumption
  · split
    · assumption
    · split
      · assumption
      · extract_lets v4 v5 v6
        have hv6 : Quiet p v6 := by
          unfold v6
          refine poisonReceived_quiet ?_
          assumption
        clear_value v6
        clear_value v5
        clear_value v4
        refine Quiet.iteFst ?_ ?_
        · split
          · extract_lets v7
            clear_value v7
            refine Quiet.iteFst ?_ ?_
            · refine Quiet.ofFst ?_
              refine windowNotice_quiet ?_
              refine raiseFault_quiet ?_
              refine Quiet.ite ?_ ?_
              · refine poisonReceived_quiet ?_
                assumption
              · assumption
            · refine Quiet.ofFst ?_
              refine setCwAt_quiet ?_
              refine setNatAt_quiet ?_
              assumption
          · refine Quiet.ofFst ?_
            refine windowNotice_quiet ?_
            refine raiseFault_quiet ?_
            assumption
        · refine Quiet.iteFst ?_ ?_
          · split
            · refine Quiet.ofFst ?_
              refine Quiet.ofPair (by assumption) ?_
              refine readShadowed_quiet ?_
              assumption
            · refine Quiet.ofFst ?_
              refine raiseFault_quiet ?_
              refine Quiet.ofPair (by assumption) ?_
              refine readShadowed_quiet ?_
              assumption
          · assumption

theorem countMec_quiet {p : State} {s : State} {a1 : Nat} {a2 : Nat} {a3 : Bool} {a4 : Bool} (h : Quiet p s) : Quiet p (countMec s a1 a2 a3 a4) := by
  unfold countMec
  extract_lets v0 v1
  have hv0 : Quiet p v0 := by
    unfold v0
    refine Quiet.ite ?_ ?_
    · refine State.incField_quiet ?_
      assumption
    · refine State.incField_quiet ?_
      assumption
  clear_value v1
  clear_value v0
  refine State.setReg_quiet ?_
  assumption

theorem corrected_quiet {p : State} {s : State} {a1 : Nat} {a2 : Bool} (h : Quiet p s) : Quiet p (corrected s a1 a2) := by
  unfold corrected
  refine raiseFault_quiet ?_
  refine countMec_quiet ?_
  assumption

theorem uncorrectable_quiet {p : State} {s : State} {a1 : Nat} {a2 : Nat} (h : Quiet p s) : Quiet p (uncorrectable s a1 a2) := by
  unfold uncorrectable
  extract_lets v0 v1 v2
  have hv0 : Quiet p v0 := by
    unfold v0
    refine setCwAt_quiet ?_
    assumption
  have hv1 : Quiet p v1 := by
    unfold v1
    refine countMec_quiet ?_
    assumption
  have hv2 : Quiet p v2 := by
    unfold v2
    refine raiseFault_quiet ?_
    assumption
  clear_value v2
  clear_value v1
  clear_value v0
  refine notice_quiet ?_
  assumption

theorem readSram_quiet {p : State} {s : State} {a1 : Nat} (h : Quiet p s) : Quiet p (readSram s a1).1 := by
  unfold readSram
  extract_lets v0
  clear_value v0
  refine Quiet.iteFst ?_ ?_
  · assumption
  · refine Quiet.iteFst ?_ ?_
    · assumption
    · refine Quiet.iteFst ?_ ?_
      · refine Quiet.ofFst ?_
        refine corrected_quiet ?_
        assumption
      · refine Quiet.iteFst ?_ ?_
        · refine Quiet.ofFst ?_
          refine uncorrectable_quiet ?_
          assumption
        · split
          refine Quiet.iteFst ?_ ?_
          · refine Quiet.ofFst ?_
            refine uncorrectable_quiet ?_
            refine Quiet.ofPair (by assumption) ?_
            refine State.fresh_quiet ?_
            assumption
          · refine Quiet.ofFst ?_
            refine corrected_quiet ?_
            refine Quiet.ofPair (by assumption) ?_
            refine State.fresh_quiet ?_
            assumption

theorem readDw_quiet {p : State} {s : State} {a1 : Nat} {a2 : Nat} (h : Quiet p s) : Quiet p (readDw s a1 a2).1 := by
  unfold readDw
  split
  refine Quiet.iteFst ?_ ?_
  · assumption
  · refine Quiet.iteFst ?_ ?_
    · assumption
    · split
      · split
        · refine Quiet.ofFst ?_
          refine Quiet.ofPair (by assumption) ?_
          refine readWindow_quiet ?_
          assumption
        · refine Quiet.ofFst ?_
          refine Quiet.ofPair (by assumption) ?_
          refine readWindow_quiet ?_
          assumption
      · split
        · refine Quiet.ofFst ?_
          refine Quiet.ofPair (by assumption) ?_
          refine readSram_quiet ?_
          assumption
        · refine Quiet.ofFst ?_
          refine Quiet.ofPair (by assumption) ?_
          refine readSram_quiet ?_
          assumption

theorem readDws_quiet {p : State} {s : State} {a1 : Nat} {a2 : Nat} {a3 : Nat} (h : Quiet p s) : Quiet p (readDws s a1 a2 a3).1 := by
  induction a3 generalizing s a2 with
  | zero => exact h
  | succ n ih =>
    have h1 := readDw_quiet (a1 := a1) (a2 := a2) h
    unfold readDws
    generalize readDw s a1 a2 = y at h1 ⊢
    obtain ⟨y, e | v⟩ := y
    · exact h1
    · have h2 := ih (s := y) (a2 := a2 + 1) h1
      simp only
      generalize readDws y a1 (a2 + 1) n = z at h2 ⊢
      obtain ⟨z, e | l⟩ := z <;> exact h2

theorem readMem_quiet {p : State} {s : State} {a1 : Nat} {a2 : Nat} {a3 : Nat} (h : Quiet p s) : Quiet p (readMem s a1 a2 a3).1 := by
  unfold readMem
  split
  · refine Quiet.ofFst ?_
    refine Quiet.ofPair (by assumption) ?_
    refine readDws_quiet ?_
    assumption
  · refine Quiet.ofFst ?_
    refine Quiet.ofPair (by assumption) ?_
    refine readDws_quiet ?_
    assumption

theorem dropResv_quiet {p : State} {s : State} {a1 : Nat} {a2 : Nat} (h : Quiet p s) : Quiet p (dropResv s a1 a2) := by
  unfold dropResv
  refine Quiet.foldl ?_ ?_
  · intro a0
    intro a2
    intro h5
    split
    · refine Quiet.ite ?_ ?_
      · refine State.modRole_quiet ?_
        assumption
      · assumption
    · assumption
  · assumption

theorem showFree_quiet {p : State} {s : State} {a1 : Nat} (h : Quiet p s) : Quiet p (showFree s a1) := by
  unfold showFree
  refine State.setField_quiet ?_
  assumption

theorem releaseStaged_quiet {p : State} {s : State} {a1 : Nat} (h : Quiet p s) : Quiet p (releaseStaged s a1) := by
  unfold releaseStaged
  refine showFree_quiet ?_
  refine State.setStaged_quiet ?_
  assumption

theorem poisonLine_quiet {p : State} {s : State} {a1 : Nat} (h : Quiet p s) : Quiet p (poisonLine s a1) := by
  unfold poisonLine
  refine Quiet.foldl ?_ ?_
  · intro a0
    intro a2
    intro h5
    split
    · assumption
    · refine Quiet.foldl ?_ ?_
      · intro a6
        intro a8
        intro h11
        refine setCwAt_quiet ?_
        assumption
      · assumption
  · assumption

theorem cxlNotice_quiet {p : State} {s : State} {a1 : Nat} {a2 : Nat} {a3 : Nat} (h : Quiet p s) : Quiet p (cxlNotice s a1 a2 a3) := by
  unfold cxlNotice
  refine notice_quiet ?_
  assumption

theorem enterFailed_quiet {p : State} {s : State} {a1 : Nat} (h : Quiet p s) : Quiet p (enterFailed s a1) := by
  unfold enterFailed
  extract_lets v0
  split
  · unfold v0
    refine State.setReg_quiet ?_
    refine State.setReg_quiet ?_
    assumption
  · split
    · extract_lets v1
      have hv1 : Quiet p v1 := by
        unfold v1
        unfold v0
        refine State.setReg_quiet ?_
        refine State.setReg_quiet ?_
        assumption
      clear_value v1
      refine State.incField_quiet ?_
      refine State.setField_quiet ?_
      assumption
    · refine cxlNotice_quiet ?_
      refine State.setFlag_quiet ?_
      assumption

theorem raiseRoleFault_quiet {p : State} {s : State} {a1 : Nat} {a2 : Nat} {a3 : Nat} {a4 : Option Nat} (h : Quiet p s) : Quiet p (raiseRoleFault s a1 a2 a3 a4) := by
  unfold raiseRoleFault
  refine raiseFault_quiet ?_
  assumption

theorem lateError_quiet {p : State} {s : State} {a1 : Nat} {a2 : Sys2Proof.Byte} {a3 : Nat} {a4 : Option Sys2Proof.Word} {a5 : Option Sys2Proof.Word} (h : Quiet p s) : Quiet p (lateError s a1 a2 a3 a4 a5) := by
  unfold lateError
  have h1 := raiseRoleFault_quiet (a1 := a1) (a2 := 2) (a3 := a2.toNat) (a4 := some a3) h
  refine Quiet.ite h1 ?_
  try dsimp only
  split
  · exact State.setRole_quiet h1
  · exact State.setRole_quiet h1

theorem hcWriteFail_quiet {p : State} {s : State} {a1 : Nat} {a2 : Nat} {a3 : Nat} (h : Quiet p s) : Quiet p (hcWriteFail s a1 a2 a3) := by
  unfold hcWriteFail
  assumption

theorem failWrite_quiet {p : State} {s : State} {a1 : CxlWho} {a2 : Nat} (h : Quiet p s) : Quiet p (failWrite s a1 a2) := by
  unfold failWrite
  extract_lets v0 v1
  have hv0 : Quiet p v0 := by
    unfold v0
    refine releaseStaged_quiet ?_
    refine poisonLine_quiet ?_
    refine enterFailed_quiet ?_
    assumption
  have hv1 : Quiet p v1 := by
    unfold v1
    split
    · refine lateError_quiet ?_
      assumption
    · refine lateError_quiet ?_
      assumption
    · refine State.incField_quiet ?_
      refine lateError_quiet ?_
      assumption
    · refine hcWriteFail_quiet ?_
      assumption
    · assumption
    · assumption
  clear_value v1
  clear_value v0
  refine cxlNotice_quiet ?_
  assumption

theorem supersede_quiet {p : State} {s : State} {a1 : Nat} {a2 : Nat} (h : Quiet p s) : Quiet p (supersede s a1 a2) := by
  unfold supersede
  extract_lets v0 v1
  clear_value v1
  clear_value v0
  refine Quiet.ite ?_ ?_
  · refine State.setStaged_quiet ?_
    assumption
  · assumption

theorem writeShadow_quiet {p : State} {s : State} {a1 : Nat} {a2 : Nat} {a3 : Nat} {a4 : Bool} {a5 : State} (h : Quiet p s) : Quiet p (writeShadow s a1 a2 a3 a4 a5) := by
  unfold writeShadow
  extract_lets v0 v1
  clear_value v1
  clear_value v0
  refine Quiet.foldl ?_ ?_
  · intro a2
    intro a4
    intro h7
    split
    · assumption
    · split
      · split
        · extract_lets v8 v9
          clear_value v9
          clear_value v8
          refine setNatAt_quiet ?_
          assumption
        · assumption
      · assumption
  · assumption

theorem freeFail_quiet {p : State} {s : State} {a1 : Nat} (h : Quiet p s) : Quiet p (freeFail s a1) := by
  unfold freeFail
  refine State.setField_quiet ?_
  refine State.setReg_quiet ?_
  refine State.setReg_quiet ?_
  assumption

theorem writeWindow_quiet {p : State} {s : State} {a1 : Nat} {a2 : Nat} {a3 : Nat} {a4 : Nat} {a5 : Bool} (h : Quiet p s) : Quiet p (writeWindow s a1 a2 a3 a4 a5) := by
  unfold writeWindow
  extract_lets v0 v1 v2 v3 v4
  have hv1 : Quiet p v1 := by
    unfold v1
    assumption
  have hv2 : Quiet p v2 := by
    unfold v2
    refine Quiet.foldl ?_ ?_
    · intro a5
      intro a7
      intro h10
      split
      · extract_lets v11 v12
        have hv11 : Quiet p v11 := by
          unfold v11
          refine setNatAt_quiet ?_
          assumption
        have hv12 : Quiet p v12 := by
          unfold v12
          refine Quiet.ite ?_ ?_
          · refine setCwAt_quiet ?_
            assumption
          · assumption
        clear_value v12
        clear_value v11
        refine Quiet.ite ?_ ?_
        · refine setCwAt_quiet ?_
          assumption
        · assumption
      · assumption
    · assumption
  have hv3 : Quiet p v3 := by
    unfold v3
    refine Quiet.ite ?_ ?_
    · refine writeShadow_quiet ?_
      assumption
    · assumption
  clear_value v4
  clear_value v3
  clear_value v2
  clear_value v1
  clear_value v0
  split
  · assumption
  · extract_lets v13 v14
    have hv13 : Quiet p v13 := by
      unfold v13
      refine Quiet.ite ?_ ?_
      · refine State.setFlag_quiet ?_
        assumption
      · assumption
    have hv14 : Quiet p v14 := by
      unfold v14
      refine Quiet.ite ?_ ?_
      · refine State.setFlag_quiet ?_
        assumption
      · assumption
    clear_value v14
    clear_value v13
    refine Quiet.ite ?_ ?_
    · refine freeFail_quiet ?_
      assumption
    · assumption

theorem writeSram_quiet {p : State} {s : State} {a1 : Nat} {a2 : Nat} {a3 : Nat} {a4 : Bool} (h : Quiet p s) : Quiet p (writeSram s a1 a2 a3 a4) := by
  unfold writeSram
  extract_lets v0 v1 v2 v3
  have hv1 : Quiet p v1 := by
    unfold v1
    assumption
  have hv2 : Quiet p v2 := by
    unfold v2
    refine Quiet.ite ?_ ?_
    · refine setCwAt_quiet ?_
      assumption
    · refine Quiet.ite ?_ ?_
      · assumption
      · refine Quiet.ite ?_ ?_
        · refine setCwAt_quiet ?_
          refine corrected_quiet ?_
          assumption
        · refine Quiet.ite ?_ ?_
          · refine uncorrectable_quiet ?_
            assumption
          · split
            refine Quiet.ite ?_ ?_
            · refine uncorrectable_quiet ?_
              refine Quiet.ofPair (by assumption) ?_
              refine State.fresh_quiet ?_
              assumption
            · refine setNatAt_quiet ?_
              refine setCwAt_quiet ?_
              refine corrected_quiet ?_
              refine Quiet.ofPair (by assumption) ?_
              refine State.fresh_quiet ?_
              assumption
  have hv3 : Quiet p v3 := by
    unfold v3
    refine setNatAt_quiet ?_
    assumption
  clear_value v3
  clear_value v2
  clear_value v1
  clear_value v0
  split
  · refine setTagAt_quiet ?_
    assumption
  · assumption

theorem writeGranule_quiet {p : State} {s : State} {a1 : Option Nat} {a2 : Nat} {a3 : Nat} {a4 : Nat} {a5 : Bool} (h : Quiet p s) : Quiet p (writeGranule s a1 a2 a3 a4 a5) := by
  unfold writeGranule
  extract_lets v0 v1 v2 v3 v4
  have hv2 : Quiet p v2 := by
    unfold v2
    refine Quiet.ite ?_ ?_
    · assumption
    · refine clearResv_quiet ?_
      refine supersede_quiet ?_
      assumption
  have hv3 : Quiet p v3 := by
    unfold v3
    refine Quiet.ite ?_ ?_
    · assumption
    · refine clearResv_quiet ?_
      refine supersede_quiet ?_
      assumption
  have hv4 : Quiet p v4 := by
    unfold v4
    refine Quiet.ite ?_ ?_
    · assumption
    · refine writeSram_quiet ?_
      assumption
  clear_value v4
  clear_value v3
  clear_value v2
  clear_value v1
  clear_value v0
  split
  · refine writeWindow_quiet ?_
    assumption
  · refine Quiet.ite ?_ ?_
    · assumption
    · refine writeSram_quiet ?_
      assumption

theorem setReq_quiet {p : State} {s : State} {a1 : Nat} {a2 : Nat} {a3 : Option CxlReq} (h : Quiet p s) : Quiet p (setReq s a1 a2 a3) := by
  unfold setReq
  assumption

theorem writeReq_quiet {p : State} {s : State} {a1 : CxlWho} {a2 : Nat} (h : Quiet p s) : QuietO p (writeReq s a1 a2) := by
  unfold writeReq
  split
  · refine QuietO.map ?_
    intro a0
    refine setReq_quiet ?_
    assumption
  · split
    · refine QuietO.some ?_
      refine setReq_quiet ?_
      refine setReq_quiet ?_
      assumption
    · refine QuietO.none
  · refine QuietO.some ?_
    assumption

theorem writeBack_quiet {p : State} {s : State} {a1 : CLine} (h : Quiet p s) : Quiet p (writeBack s a1) := by
  unfold writeBack
  extract_lets v0 v1
  have hv1 : Quiet p v1 := by
    unfold v1
    refine Quiet.foldl ?_ ?_
    · intro a2
      intro a4
      intro h7
      extract_lets v8 v9
      clear_value v9
      refine Quiet.ite ?_ ?_
      · assumption
      · refine writeGranule_quiet ?_
        assumption
    · assumption
  clear_value v1
  clear_value v0
  refine Quiet.ite ?_ ?_
  · refine failWrite_quiet ?_
    assumption
  · refine Quiet.ofGetD ?_ ?_
    · assumption
    · intro a10
      intro a12
      refine writeReq_quiet ?_ _ (by assumption)
      assumption

theorem cleanLine_quiet {p : State} {s : State} {a1 : CLine} (h : Quiet p s) : Quiet p (cleanLine s a1) := by
  unfold cleanLine
  extract_lets v0
  have hv0 : Quiet p v0 := by
    unfold v0
    refine writeBack_quiet ?_
    assumption
  clear_value v0
  refine Quiet.ite ?_ ?_
  · assumption
  · assumption

theorem recallLoad_quiet {p : State} {s : State} {a1 : Option Nat} {a2 : Nat} (h : Quiet p s) : Quiet p (recallLoad s a1 a2) := by
  unfold recallLoad
  refine Quiet.foldl ?_ ?_
  · intro a0
    intro a2
    intro h5
    refine dropResv_quiet ?_
    refine cleanLine_quiet ?_
    assumption
  · assumption

theorem recallLoads_quiet {p : State} {s : State} {a1 : Option Nat} {a2 : Nat} {a3 : Nat} (h : Quiet p s) : Quiet p (recallLoads s a1 a2 a3) := by
  unfold recallLoads
  refine Quiet.foldl ?_ ?_
  · intro a0
    intro a2
    intro h5
    refine recallLoad_quiet ?_
    assumption
  · assumption

theorem readPart_quiet {p : State} {s : State} {a1 : Nat} {a2 : Nat} {a3 : Nat} (h : Quiet p s) : Quiet p (readPart s a1 a2 a3).1 := by
  unfold readPart
  extract_lets v0
  have hv0 : Quiet p v0 := by
    unfold v0
    refine recallLoads_quiet ?_
    assumption
  clear_value v0
  refine Quiet.iteFst ?_ ?_
  · refine readMem_quiet ?_
    assumption
  · refine Quiet.iteFst ?_ ?_
    · split
      · refine readLine_quiet ?_
        assumption
      · refine readMem_quiet ?_
        assumption
    · refine readMem_quiet ?_
      assumption

theorem readBytes_quiet {p : State} {s : State} {a1 : Nat} {a2 : Nat} {a3 : Nat} (h : Quiet p s) : Quiet p (readBytes s a1 a2 a3).1 := by
  unfold readBytes
  extract_lets v0
  clear_value v0
  refine Quiet.iteFst ?_ ?_
  · assumption
  · refine Quiet.iteFst ?_ ?_
    · refine readPart_quiet ?_
      assumption
    · split
      · refine Quiet.ofFst ?_
        refine Quiet.ofPair (by assumption) ?_
        refine readPart_quiet ?_
        assumption
      · split
        · refine Quiet.ofFst ?_
          refine Quiet.ofPair (by assumption) ?_
          refine readPart_quiet ?_
          refine Quiet.ofPair (by assumption) ?_
          refine readPart_quiet ?_
          assumption
        · refine Quiet.ofFst ?_
          refine Quiet.ofPair (by assumption) ?_
          refine readPart_quiet ?_
          refine Quiet.ofPair (by assumption) ?_
          refine readPart_quiet ?_
          assumption

theorem fetchAt_quiet {p : State} {s : State} {a1 : Nat} {a2 : Sys2Proof.Word} (h : Quiet p s) : QuietOP p (fetchAt s a1 a2) := by
  unfold fetchAt
  extract_lets v0 v1
  clear_value v1
  clear_value v0
  refine QuietOP.ite ?_ ?_
  · refine QuietOP.some ?_
    assumption
  · split
    · refine QuietOP.some ?_
      assumption
    · refine QuietOP.ite ?_ ?_
      · refine QuietOP.none
      · split
        · refine QuietOP.none
        · refine QuietOP.some ?_
          refine Quiet.ofFst ?_
          refine QuietOP.get ?_ (by assumption)
          refine QuietOP.ite ?_ ?_
          · refine fetchCached_quiet ?_
            assumption
          · refine QuietOP.some ?_
            refine readBytes_quiet ?_
            assumption
        · refine QuietOP.some ?_
          refine Quiet.ofFst ?_
          refine QuietOP.get ?_ (by assumption)
          refine QuietOP.ite ?_ ?_
          · refine fetchCached_quiet ?_
            assumption
          · refine QuietOP.some ?_
            refine readBytes_quiet ?_
            assumption

theorem spotArm_quiet {p : State} {s : State} {a1 a2 a3 a4 : Nat} {a5 : List Sys2Proof.Word} {a6 : List Nat} {a7 : State} (h : Quiet p a7) : Quiet p (spotArm s a1 a2 a3 a4 a5 a6 a7) := by
  unfold spotArm
  refine Quiet.foldl ?_ h
  intro t n ht
  try dsimp only
  refine Quiet.ite ht (Quiet.ite (State.setFlag_quiet ht) (Quiet.ite (State.setFlag_quiet ht) ht))

theorem holdUnit_quiet {p : State} {s : State} {a1 : Nat} {a2 : Bool} (h : Quiet p s) : Quiet p (holdUnit s a1 a2) := by
  unfold holdUnit
  extract_lets v0
  have hv0 : Quiet p v0 := by
    unfold v0
    refine Quiet.foldl ?_ ?_
    · intro a1
      intro a3
      intro h6
      refine State.setFlag_quiet ?_
      assumption
    · assumption
  clear_value v0
  refine Quiet.foldl ?_ ?_
  · intro a7
    intro a9
    intro h12
    refine State.modRole_quiet ?_
    assumption
  · assumption

theorem writeHold_quiet {p : State} {s : State} {a1 : Nat} {a2 : Sys2Proof.Word} (h : Quiet p s) : Quiet p (writeHold s a1 a2) := by
  unfold writeHold
  extract_lets v0
  have hv0 : Quiet p v0 := by
    unfold v0
    refine Quiet.ite ?_ ?_
    · refine State.setField_quiet ?_
      assumption
    · assumption
  clear_value v0
  refine Quiet.ite ?_ ?_
  · assumption
  · refine holdUnit_quiet ?_
    assumption

theorem noticeTo_quiet {p : State} {s : State} {a1 : Nat} {a2 : Nat} {a3 : Nat} {a4 : Nat} {a5 : List Sys2Proof.Byte} (h : Quiet p s) : Quiet p (noticeTo s a1 a2 a3 a4 a5) := by
  unfold noticeTo
  extract_lets v0
  clear_value v0
  refine postRecord_quiet ?_
  refine logRecord_quiet ?_
  assumption

theorem traceRaw_quiet {p : State} {s : State} {a1 : Nat} {a2 : Sys2Proof.DWord} (h : Quiet p s) : Quiet p (traceRaw s a1 a2) := by
  unfold traceRaw
  extract_lets v0 v1
  have hv1 : Quiet p v1 := by
    unfold v1
    refine State.incField_quiet ?_
    assumption
  clear_value v1
  clear_value v0
  refine Quiet.ite ?_ ?_
  · assumption
  · refine Quiet.ite ?_ ?_
    · assumption
    · assumption

theorem traceRole_quiet {p : State} {s : State} {a1 : Nat} {a2 : Nat} {a3 : Nat} {a4 : Nat} (h : Quiet p s) : Quiet p (traceRole s a1 a2 a3 a4) := by
  unfold traceRole
  refine Quiet.ite ?_ ?_
  · refine traceRaw_quiet ?_
    assumption
  · assumption

theorem fireCue_quiet {p : State} {s : State} {a1 : Nat} {a2 : Nat} {a3 : Bool} (h : Quiet p s) : Quiet p (fireCue s a1 a2 a3) := by
  unfold fireCue
  refine State.setLatch_quiet ?_
  assumption

theorem spotAct_quiet {p : State} {s : State} {a1 : Nat} {a2 : Nat} (h : Quiet p s) : Quiet p (spotAct s a1 a2) := by
  unfold spotAct
  extract_lets v0 v1 v2 v3 v4 v5 v6
  have hv2 : Quiet p v2 := by
    unfold v2
    refine State.incField_quiet ?_
    assumption
  have hv3 : Quiet p v3 := by
    unfold v3
    refine Quiet.ite ?_ ?_
    · assumption
    · split
      · refine writeHold_quiet ?_
        assumption
      · refine writeHold_quiet ?_
        assumption
      · refine writeHold_quiet ?_
        assumption
      · assumption
  have hv5 : Quiet p v5 := by
    unfold v5
    refine Quiet.ite ?_ ?_
    · assumption
    · refine noticeTo_quiet ?_
      assumption
  have hv6 : Quiet p v6 := by
    unfold v6
    refine Quiet.ite ?_ ?_
    · refine traceRole_quiet ?_
      assumption
    · assumption
  clear_value v6
  clear_value v5
  clear_value v4
  clear_value v3
  clear_value v2
  clear_value v1
  clear_value v0
  refine Quiet.ite ?_ ?_
  · refine fireCue_quiet ?_
    assumption
  · assumption

theorem spotEvent_quiet {p : State} {s : State} {a1 : Nat} {a2 : Nat} {a3 : Nat} {a4 : Nat} {a5 : List Sys2Proof.Word} (h : Quiet p s) : Quiet p (spotEvent s a1 a2 a3 a4 a5) := by
  unfold spotEvent
  extract_lets v0
  clear_value v0
  refine spotArm_quiet ?_
  refine Quiet.foldl ?_ ?_
  · intro a1
    intro a3
    intro h6
    refine spotAct_quiet ?_
    assumption
  · assumption

theorem noteFirst_quiet {p : State} {s : State} (h : Quiet p s) : Quiet p (noteFirst s) := by
  unfold noteFirst
  split
  · assumption
  · extract_lets v0 v1
    have hv0 : Quiet p v0 := by
      unfold v0
      refine State.setField_quiet ?_
      assumption
    clear_value v1
    clear_value v0
    assumption


theorem Quiet.refl (s : State) : Quiet s s := ⟨fun _ => rfl, rfl, rfl, rfl⟩

theorem nextWord_quiet {p s : State} {r : Nat} (h : Quiet p s) : QuietOP p (nextWord s r) := by
  unfold nextWord
  dsimp only
  split
  · exact QuietOP.some (x := (s, _)) h
  · exact fetchAt_quiet h

theorem role_fetchQ {s t : State} {r : Nat} (h : Quiet s t) :
    (t.role r).still = (s.role r).still := by
  have e : (t.role r).quiet = (s.role r).quiet := h.1 r
  unfold Role.still
  rw [e]

theorem holdWords_keeps (s : State) (r : Nat) (pcs : List Word) :
    (∀ q, q ≠ r → ((holdWords s r pcs).role q).quiet = (s.role q).quiet) ∧
    ((holdWords s r pcs).role r).still = (s.role r).still ∧
    (holdWords s r pcs).scenes = s.scenes ∧ (holdWords s r pcs).cores = s.cores ∧ (holdWords s r pcs).queues = s.queues := by
  unfold holdWords
  have step : ∀ (l : List Word) (u : State), 
      ((∀ q, q ≠ r → (u.role q).quiet = (s.role q).quiet) ∧
        (u.role r).still = (s.role r).still ∧ u.scenes = s.scenes ∧ u.cores = s.cores ∧ u.queues = s.queues) →
      let v := l.foldl (fun s pc =>
        if (s.role r).fetchQ.any (fun h => h.pc == pc) then s
        else
          match fetchAt s r pc with
          | none => s
          | some (s, g) => s.modRole r (fun x => { x with fetchQ := x.fetchQ ++ [⟨pc, g⟩] })) u
      ((∀ q, q ≠ r → (v.role q).quiet = (s.role q).quiet) ∧
        (v.role r).still = (s.role r).still ∧ v.scenes = s.scenes ∧ v.cores = s.cores ∧ v.queues = s.queues) := by
    intro l
    induction l with
    | nil => intro u h; exact h
    | cons pc l ih =>
      intro u h
      refine ih _ ?_
      dsimp only
      split
      · exact h
      · split
        · exact h
        · rename_i v g e
          have hq := fetchAt_quiet (Quiet.refl u) v g e
          refine ⟨fun q hne => ?_, ?_, ?_, ?_, ?_⟩
          · rw [State.modRole_role_ne _ _ _ _ hne]; exact (hq.1 q).trans (h.1 q hne)
          · rw [State.modRole_role_self]
            refine Eq.trans ?_ ((role_fetchQ hq).trans h.2.1)
            rfl
          · exact hq.2.1.trans h.2.2.1
          · exact hq.2.2.1.trans h.2.2.2.1
          · exact hq.2.2.2.trans h.2.2.2.2
  refine step pcs _ ⟨fun q hne => ?_, ?_, rfl, rfl, rfl⟩
  · rw [State.modRole_role_ne _ _ _ _ hne]
  · rw [State.modRole_role_self]; rfl

theorem startIssue_keeps (s : State) (r : Nat) :
    (∀ q, q ≠ r → ((startIssue s r).role q).quiet = (s.role q).quiet) ∧
    ((startIssue s r).role r).still = (ageProducts (s.role r)).still ∧
    (startIssue s r).scenes = s.scenes ∧ (startIssue s r).cores = s.cores ∧ (startIssue s r).queues = s.queues := by
  unfold startIssue
  have h := noteFirst_quiet (Quiet.refl (s.modRole r ageProducts))
  obtain ⟨h1, h2, h3, h4, h5⟩ := holdWords_keeps (noteFirst (s.modRole r ageProducts)) r
    [((noteFirst (s.modRole r ageProducts)).role r).pc + 4, ((noteFirst (s.modRole r ageProducts)).role r).pc + 8]
  refine ⟨fun q hne => ?_, ?_, ?_, ?_, ?_⟩
  · refine (h1 q hne).trans ((h.1 q).trans ?_)
    rw [State.modRole_role_ne _ _ _ _ hne]
  · refine h2.trans ?_
    refine (role_fetchQ h).trans ?_
    rw [State.modRole_role_self]
  · exact h3.trans h.2.1
  · exact h4.trans h.2.2.1
  · exact h5.trans h.2.2.2

theorem dropRa_role (s : State) (r : Nat) (w : Word) : (dropRa s r w).role r =
    { s.role r with st := if Ulufy.cls w = 11 then (s.role r).st else setBit (s.role r).st 8 false } := by
  unfold dropRa
  split
  · rename_i h; simp [h]
  · rename_i h; rw [State.modRole_role_self]

theorem age_quiet (x : Role) : (ageProducts x).quiet = ageProducts x.quiet := by
  unfold ageProducts
  cases x with | mk started holdReq onHold frozen wentDark g pc st rc mpl mph dq drm abcnt abnId starved beatsh t ht tst srt dbt stack resv fetchQ prodOld prodNew busy rep eoiClosed late pfail posted prompt lprec le lv longOps longFaults loadErr =>
  cases prodOld <;> rfl

/-- What a row that takes its word leaves of the state before the instruction acts. -/
theorem takes_frame {s t : State} {r : Nat} {op : Op} {w : Word} (h : s.takes r op w = some t) :
    ready s r = true ∧ ((∃ v, (s.role r).busy = .blocked v) ∧ t = s ∨
    (∀ v, (s.role r).busy ≠ .blocked v) ∧
    (∀ q, q ≠ r → (t.role q).quiet = (s.role q).quiet) ∧ t.scenes = s.scenes ∧ t.cores = s.cores ∧ t.queues = s.queues ∧
    (t.role r).still = (ageProducts { s.role r with st := if Ulufy.cls w = 11 then (s.role r).st else setBit (s.role r).st 8 false }).still) := by
  unfold State.takes at h
  split at h
  · cases h
  · rename_i hr
    refine ⟨by simpa using hr, ?_⟩
    split at h
    · rename_i v hb
      split at h
      · exact .inl ⟨⟨v, hb⟩, (Option.some.inj h).symm⟩
      · cases h
    · rename_i hb
      refine .inr ⟨fun v e => hb v e, ?_⟩
      split at h
      · rename_i u v hn
        have hq := nextWord_quiet (Quiet.refl s) u _ hn
        split at h
        · extract_lets a b held c at h
          split at h
          · cases h
          · split at h
            · replace h := Option.some.inj h
              subst h
              have hc : Quiet a c := spotEvent_quiet (Quiet.refl a)
              obtain ⟨k1, k2, k3, k4, k5⟩ := startIssue_keeps c r
              have ea : ∀ q, q ≠ r → (a.role q) = (u.role q) := by
                intro q hne
                unfold a dropRa
                split
                · rfl
                · rw [State.modRole_role_ne _ _ _ _ hne]
              have eb : a.scenes = u.scenes ∧ a.cores = u.cores ∧ a.queues = u.queues := by
                unfold a dropRa
                split <;> exact ⟨rfl, rfl, rfl⟩
              refine ⟨fun q hne => ?_, ?_, ?_, ?_, ?_⟩
              · rw [k1 q hne]
                refine (hc.1 q).trans ?_
                rw [ea q hne]
                exact hq.1 q
              · rw [k3, hc.2.1, eb.1, hq.2.1]
              · rw [k4, hc.2.2.1, eb.2.1, hq.2.2.1]
              · rw [k5, hc.2.2.2, eb.2.2, hq.2.2.2]
              · rw [k2]
                have e1 := hc.1 r
                have e2 := hq.1 r
                have e3 := dropRa_role u r w
                change (c.role r).quiet = (a.role r).quiet at e1
                change (u.role r).quiet = (s.role r).quiet at e2
                change a.role r = _ at e3
                rw [e3] at e1
                have e4 : (c.role r).quiet = Role.quiet { s.role r with st := if Ulufy.cls w = 11 then (s.role r).st else setBit (s.role r).st 8 false } := by
                  rw [e1]
                  have e5 : (u.role r).st = (s.role r).st := show (u.role r).quiet.st = (s.role r).quiet.st from congrArg Role.st e2
                  show ({ (u.role r).quiet with st := if Ulufy.cls w = 11 then (u.role r).st else setBit (u.role r).st 8 false } : Role) = _
                  rw [e2, e5]
                  rfl
                unfold Role.still
                rw [age_quiet, e4, ← age_quiet]
            · cases h
        · cases h
      · cases h

theorem ready_plain {s : State} {r : Nat} (h : ready s r = true) : (s.role r).rep = none ∧ (s.role r).prompt = false := by
  unfold ready at h
  simp_all

theorem takes_plain {s t : State} {r : Nat} {op : Op} {w : Word} (h : s.takes r op w = some t) :
    (t.role r).rep = none ∧ (t.role r).prompt = false := by
  obtain ⟨hr, h⟩ := takes_frame h
  obtain ⟨p1, p2⟩ := ready_plain hr
  rcases h with ⟨-, rfl⟩ | ⟨-, -, -, -, -, h⟩
  · exact ⟨p1, p2⟩
  · have e1 : (t.role r).still.rep = _ := congrArg Role.rep h
    have e2 : (t.role r).still.prompt = _ := congrArg Role.prompt h
    unfold ageProducts at e1 e2
    cases hp : (s.role r).prodOld <;> rw [hp] at e1 e2 <;> exact ⟨e1.trans p1, e2.trans p2⟩

end Sys2Proof.Machine
end

