-- ==== Sys2Proof/Laws/Rows.lean ====
section
/-! SUPPORT. Laws of instruction rows: operands outside a prompt, and the row of an instruction that ends in `writeResult`. -/

namespace Sys2Proof.Machine

theorem gaVal_plain {t : State} {r n : Nat} (h : (t.role r).prompt = false) : gaVal t r n = (t.role r).greg n := by
  simp [gaVal, h]

theorem tickVal_plain {t : State} {r n : Nat} (h : (t.role r).prompt = false) : tickVal t r n = (t.role r).tick n := by
  simp [tickVal, h]

@[simp] theorem setG_prompt (x : Role) (n : Nat) (v : Word) : (x.setG n v).prompt = x.prompt := by
  unfold Role.setG; split <;> rfl
@[simp] theorem setG_rep (x : Role) (n : Nat) (v : Word) : (x.setG n v).rep = x.rep := by
  unfold Role.setG; split <;> rfl
@[simp] theorem setT_prompt (x : Role) (n : Nat) (v : Ticket) : (x.setT n v).prompt = x.prompt := rfl
@[simp] theorem setT_rep (x : Role) (n : Nat) (v : Ticket) : (x.setT n v).rep = x.rep := rfl
@[simp] theorem clearConsec_prompt (x : Role) (pc : Word) : (clearConsec x pc).prompt = x.prompt := by
  unfold clearConsec; split <;> rfl
@[simp] theorem clearConsec_rep (x : Role) (pc : Word) : (clearConsec x pc).rep = x.rep := by
  unfold clearConsec; split <;> rfl
@[simp] theorem setRole_setRole (s : State) (r : Nat) (x y : Role) : (s.setRole r x).setRole r y = s.setRole r y := by
  simp [State.setRole]
@[simp] theorem setG_zero (x : Role) (v : Word) : x.setG 0 v = x := rfl

/-- The row of an instruction whose body, run from the issued state, retires with x as the role. -/
theorem completes_row {i : Instr} {op : Op} {s t : State} {r : Nat} {w : Word} {body : Body} {x : Role}
    (h : s.takes r op w = some t) (he : exec i s = .next (issue s r op w body)) (hp : x.prompt = false) (hr : x.rep = none)
    (hb : body t r w = finish (t.setRole r x) r none) : Completes i s t r x :=
  ⟨_, he.trans (by rw [issue_takes h, hb]), retired_finish t r x hp hr⟩

/-- The row of an instruction whose body writes one G register and ST. -/
theorem writes_row {i : Instr} {op : Op} {s t : State} {r : Nat} {w : Word} {body : Body} {n : Nat} {v st : Word}
    {claim : Word → Prop} (he : exec i s = .next (issue s r op w body))
    (hb : (t.role r).prompt = false → body t r w = writeResult t r n v st) (hc : claim st) : Writes i op s t r w n v claim := by
  intro h
  obtain ⟨hr, hp⟩ := takes_plain h
  refine ⟨st, completes_row h he ?_ ?_ (hb hp), hc⟩
  · simp [hp]
  · simp [hr]

end Sys2Proof.Machine
end

