-- ==== Sys2Proof/Laws/Clean.lean ====
section
/-! SUPPORT. Laws of spot units that see nothing, of CLEAN falling, and of a retirement from the role as it stands. -/

namespace Sys2Proof.Machine
open Sys2Proof

@[simp] theorem leBytes_length (n v : Nat) : (leBytes n v).length = n := by
  induction n generalizing v with
  | zero => rfl
  | succ n ih => simp [leBytes, ih]

theorem noSpots_match {s : State} {r n kind lo len : Nat} {d : List Word} (h : NoSpots s r) (hn : n < 16) :
    spotMatch s n r kind lo len d = false := by
  have := h n hn
  simp only [State.flag] at this
  simp [spotMatch, this]

theorem noSpots_firing {s : State} {r kind lo len : Nat} {d : List Word} (h : NoSpots s r) : spotFiring s r kind lo len d = [] := by
  unfold spotFiring
  rw [List.filter_eq_nil_iff]
  intro n hn
  have hn := List.mem_range.mp hn
  rw [noSpots_match h hn]
  unfold spotFires
  split <;> simp

theorem noSpots_waits {s : State} {r kind lo len : Nat} {d : List Word} (h : NoSpots s r) : spotWaits s r kind lo len d = false := by
  simp [spotWaits, noSpots_firing h]

theorem noSpots_event {s : State} {r kind lo len : Nat} {d : List Word} (h : NoSpots s r) : spotEvent s r kind lo len d = s := by
  unfold spotEvent
  rw [noSpots_firing h]
  unfold spotArm
  simp only [List.foldl_nil]
  suffices ∀ l : List Nat, (∀ n ∈ l, n < 16) → l.foldl (fun t n =>
    if n = 0 || s.field (Adr.spotCtl (companyOf r) n) 6 5 ≠ 2 then t
    else if spotMatch s (n - 1) r kind lo len d then t.setFlag (Adr.spotCtl (companyOf r) n) 24 true
    else if ([] : List Nat).contains n then t.setFlag (Adr.spotCtl (companyOf r) n) 24 false
    else t) s = s from this _ (fun n hn => List.mem_range.mp hn)
  intro l hl
  induction l with
  | nil => rfl
  | cons n l ih =>
    rw [List.foldl_cons]
    have : spotMatch s (n - 1) r kind lo len d = false := noSpots_match h (by have := hl n (by simp); omega)
    simp only [this, Bool.false_eq_true, if_false, List.contains_nil, ite_self]
    exact ih (fun m hm => hl m (by simp [hm]))

theorem retired_self (t : State) (r : Nat) (hp : (t.role r).prompt = false) (hr : (t.role r).rep = none) :
    Retired t (finish t r none) r (t.role r) := by
  have e : finish t r none =
      (countRetired t r).setRole r { (clearConsec (t.role r) (t.role r).pc) with busy := .idle, pc := (t.role r).pc + 4 } := by
    simp [finish, hp, hr, State.modRole]
  rw [e]
  constructor
  · rw [State.setRole_role_self]
    unfold clearConsec
    split <;> rfl
  · intro h
    rw [State.setRole_role_self, clearConsec_hit _ h]
    exact ⟨rfl, rfl, rfl⟩
  · intro h
    rw [State.setRole_role_self, clearConsec_miss _ h]
    exact ⟨rfl, rfl, rfl⟩
  · intro q hq
    rw [State.setRole_role_ne _ _ _ _ hq, countRetired_role]
  · rw [State.setRole_scene]
    unfold countRetired
    by_cases h : (t.role r).sc = true ∧ isLead r = false
    · simp [h.1, h.2]
    · rw [if_neg h, if_neg (by simpa using h)]
  · intro q hq
    rw [State.setRole_scene]
    unfold countRetired
    split
    · rw [State.setScene_scene_ne _ _ _ _ hq]
    · rfl
  · unfold countRetired
    split <;> rfl

theorem writeMem_quiet {p s : State} {k : Option Nat} {a : Nat} {l : List Byte} {t : Bool} (h : Quiet p s) :
    Quiet p (writeMem s k a l t) := by
  have : ∀ (f : State → Nat → State) (L : List Nat) (s : State), (∀ s i, Quiet p s → Quiet p (f s i)) → Quiet p s →
      Quiet p (L.foldl f s) := by
    intro f L
    induction L with
    | nil => intro s _ h; exact h
    | cons i L ih => intro s hf h; exact ih _ hf (hf _ _ h)
  exact this _ _ _ (fun _ _ h => writeGranule_quiet h) h

theorem setRecWord_quiet {p s : State} {r o : Nat} {v : Word} (h : Quiet p s) : Quiet p (setRecWord s r o v) := writeMem_quiet h

theorem unclean_quiet {p s : State} {r : Nat} (h : Quiet p s) : Quiet p (unclean s r) := by
  unfold unclean setRecFlag
  split
  · exact h
  · split
    · exact h
    · exact setRecWord_quiet h

theorem unclean_falls (s : State) (r : Nat) : CleanFalls s (unclean s r) r := by
  unfold unclean setRecFlag CleanFalls
  split
  · exact .inl rfl
  · rename_i h
    simp only [Bool.or_eq_true, not_or, Bool.not_eq_true] at h
    split
    · exact .inl rfl
    · rename_i h2
      simp only [h.2, Bool.false_or, beq_iff_eq, Bool.not_eq_false] at h2
      exact .inr ⟨h.2, h.1, h2, rfl⟩

theorem Quiet.roleq {p s : State} (h : Quiet p s) (q : Nat) : (s.role q).quiet = (p.role q).quiet := h.1 q

theorem plain_of_quiet (x y : Role) (h : x.quiet = y.quiet) :
    x.prompt = y.prompt ∧ x.rep = y.rep ∧ x.sc = y.sc ∧ x.pc = y.pc ∧ x.st = y.st ∧ x.busy = y.busy := by
  have e1 := congrArg Role.prompt h
  have e2 := congrArg Role.rep h
  have e3 := congrArg Role.pc h
  have e4 := congrArg Role.st h
  have e5 := congrArg Role.busy h
  exact ⟨e1, e2, congrArg (bit · 9) e4, e3, e4, e5⟩

/-- a row that ends by CLEAN falling and retiring -/
theorem unclean_completes {i : Instr} {s t : State} {r : Nat} (hp : (t.role r).prompt = false) (hr : (t.role r).rep = none)
    (he : exec i s = .next (finish (unclean t r) r none)) : CompletesUnclean i s t r := by
  have q := plain_of_quiet _ _ ((unclean_quiet (r := r) (Quiet.refl t)).roleq r)
  refine ⟨unclean t r, _, unclean_falls t r, he, retired_self _ r (q.1.trans hp) (q.2.1.trans hr)⟩
/-- What a jump's retirement leaves. -/
theorem jumped_finish (t : State) (r : Nat) (p : Word) (hp : (t.role r).prompt = false) (hr : (t.role r).rep = none) :
    Jumped t (finish t r (some p)) r (t.role r) p := by
  have e : finish t r (some p) = holdWords ((countRetired t r).setRole r
      { (clearConsec (t.role r) (t.role r).pc) with busy := .idle, pc := p }) r [p, p + 4] := by
    simp [finish, hp, hr, State.modRole]
  rw [e]
  generalize hv : (countRetired t r).setRole r { (clearConsec (t.role r) (t.role r).pc) with busy := .idle, pc := p } = v
  have hrole : v.role r = { (clearConsec (t.role r) (t.role r).pc) with busy := .idle, pc := p } := by rw [← hv]; simp
  have hoth : ∀ q, q ≠ r → v.role q = t.role q := by
    intro q hq; rw [← hv, State.setRole_role_ne _ _ _ _ hq, countRetired_role]
  have hsc : ∀ q, v.scene q = (countRetired t r).scene q := by intro q; rw [← hv]; rfl
  have hco : v.cores = t.cores ∧ v.queues = t.queues := by
    rw [← hv]; unfold countRetired; split <;> exact ⟨rfl, rfl⟩
  obtain ⟨k1, k2, k3, k4, k5⟩ := holdWords_keeps v r [p, p + 4]
  rw [hrole] at k2
  have hy : ∀ (y : Role), ((holdWords v r [p, p + 4]).role r).still = Role.still { y with busy := .idle, pc := p } →
      ((holdWords v r [p, p + 4]).role r).abcnt = y.abcnt ∧ ((holdWords v r [p, p + 4]).role r).abnId = y.abnId ∧
        ((holdWords v r [p, p + 4]).role r).starved = y.starved := by
    intro y h
    generalize (holdWords v r [p, p + 4]).role r = z at h
    have f1 : z.still.abcnt = (Role.still { y with busy := .idle, pc := p }).abcnt := by rw [h]
    have f2 : z.still.abnId = (Role.still { y with busy := .idle, pc := p }).abnId := by rw [h]
    have f3 : z.still.starved = (Role.still { y with busy := .idle, pc := p }).starved := by rw [h]
    exact ⟨f1, f2, f3⟩
  have hy := hy _ k2
  constructor
  · rw [k2]
    unfold clearConsec
    split <;> rfl
  · intro h
    rw [clearConsec_hit _ h] at hy
    exact hy
  · intro h
    rw [clearConsec_miss _ h] at hy
    exact hy
  · intro q hq
    rw [k1 q hq, hoth q hq]
  · unfold State.scene
    rw [k3]
    have := hsc r
    unfold State.scene at this
    rw [this]
    unfold countRetired
    by_cases h : (t.role r).sc = true ∧ isLead r = false
    · simp [h.1, h.2, State.setScene, State.scene]
    · rw [if_neg h, if_neg (by simpa using h)]
  · intro q hq
    unfold State.scene
    rw [k3]
    have := hsc q
    unfold State.scene at this
    rw [this]
    unfold countRetired
    split
    · have := State.setScene_scene_ne t r q { t.scene r with retired := (t.scene r).retired + 1 } hq
      unfold State.scene at this; exact this
    · rfl
  · exact ⟨k4.trans hco.1, k5.trans hco.2⟩

/-- A row that retires with a jump from the state that the instruction made. -/
theorem jumps_row {i : Instr} {s t : State} {r : Nat} {p : Word} (hp : (t.role r).prompt = false) (hr : (t.role r).rep = none)
    (he : exec i s = .next (finish t r (some p))) : Jumps i s t r (t.role r) p := ⟨_, he, jumped_finish t r p hp hr⟩

end Sys2Proof.Machine
end

