-- ==== Sys2Proof/Laws/Memory.lean ====
section
/-! SUPPORT. Laws of memory: which bytes a write changes, and what a read finds. -/

namespace Sys2Proof.Machine

theorem leNat_append (l m : List Byte) : leNat (l ++ m) = leNat l + 256 ^ l.length * leNat m := by
  induction l with
  | nil => simp [leNat]
  | cons b l ih =>
    simp only [List.cons_append, leNat, ih, List.length_cons, Nat.pow_succ]
    rw [Nat.mul_add, ← Nat.mul_assoc, Nat.mul_comm 256 (256 ^ _), Nat.add_assoc]

theorem leNat_lt (l : List Byte) : leNat l < 256 ^ l.length := by
  induction l with
  | nil => simp [leNat]
  | cons b l ih => simp only [leNat, List.length_cons, Nat.pow_succ]; have := b.isLt; omega

/-- Digit j of a little-endian number is byte j of its list. -/
theorem leNat_digit (l : List Byte) (j : Nat) : BitVec.ofNat 8 (leNat l / 256 ^ j) = l.getD j 0 := by
  induction l generalizing j with
  | nil => simp [leNat]
  | cons b l ih =>
    cases j with
    | zero =>
      apply BitVec.eq_of_toNat_eq
      simp only [leNat, Nat.pow_zero, Nat.div_one, BitVec.toNat_ofNat, List.getD_cons_zero]
      have := b.isLt; omega
    | succ j =>
      have : (b.toNat + 256 * leNat l) / 256 = leNat l := by have := b.isLt; omega
      simp only [leNat, Nat.pow_succ, Nat.mul_comm _ 256, ← Nat.div_div_eq_div_mul, this, List.getD_cons_succ]
      exact ih j

/-- A mask summed over positions has the bit of each position that is counted. -/
theorem mask_testBit (p : Nat → Bool) (n : Nat) :
    (List.range n).foldl (fun m j => if p j then m + 2 ^ j else m) 0 < 2 ^ n ∧
    ∀ j, ((List.range n).foldl (fun m j => if p j then m + 2 ^ j else m) 0).testBit j = (decide (j < n) && p j) := by
  induction n with
  | zero => simp
  | succ n ih =>
    rw [List.range_succ, List.foldl_append]
    simp only [List.foldl_cons, List.foldl_nil]
    generalize (List.range n).foldl (fun m j => if p j then m + 2 ^ j else m) 0 = m at *
    obtain ⟨h1, h2⟩ := ih
    refine ⟨by split <;> rw [Nat.pow_succ] <;> omega, fun j => ?_⟩
    split
    · rename_i hp
      rw [Nat.add_comm]
      rcases Nat.lt_trichotomy j n with hj | hj | hj
      · rw [Nat.testBit_two_pow_add_gt hj, h2]
        simp [hj, Nat.lt_succ_of_lt hj]
      · subst hj
        rw [Nat.testBit_two_pow_add_eq, Nat.testBit_lt_two_pow h1]; simp [hp]
      · rw [Nat.testBit_lt_two_pow]
        · simp [show ¬ j < n + 1 by omega]
        · have : 2 ^ (n + 1) ≤ 2 ^ j := Nat.pow_le_pow_right (by decide) hj
          rw [Nat.pow_succ] at this; omega
    · rename_i hp
      rw [h2]
      by_cases hj : j = n
      · subst hj; simp [hp]
      · simp only [show (j < n + 1) = (j < n) by simp; omega]

theorem byteAt_setByteAt (s : State) (k j : Nat) (b : Byte) : byteAt (setByteAt s k b) j = if j = k then b else byteAt s j := by
  unfold byteAt setByteAt
  exact Sparse.get_put _ _ _ _ _

/-- The bytes that `setNatAt` changes. -/
theorem byteAt_setNatAt (s : State) (k n v mask j : Nat) : byteAt (setNatAt s k n v mask) j =
    if k ≤ j ∧ j < k + n ∧ mask.testBit (j - k) then BitVec.ofNat 8 (v / 256 ^ (j - k)) else byteAt s j := by
  unfold setNatAt
  induction n with
  | zero => simp; intro h1 h2; omega
  | succ n ih =>
    rw [List.range_succ, List.foldl_append]
    simp only [List.foldl_cons, List.foldl_nil]
    by_cases hb : mask.testBit n
    · rw [if_pos hb, byteAt_setByteAt, ih]
      by_cases hj : j = k + n
      · subst hj; simp [hb]
      · rw [if_neg hj]
        by_cases h : k ≤ j ∧ j < k + n ∧ mask.testBit (j - k)
        · rw [if_pos h, if_pos ⟨h.1, by omega, h.2.2⟩]
        · rw [if_neg h, if_neg (fun h' => h ⟨h'.1, by omega, h'.2.2⟩)]
    · rw [if_neg hb, ih]
      by_cases h : k ≤ j ∧ j < k + n ∧ mask.testBit (j - k)
      · rw [if_pos h, if_pos ⟨h.1, by omega, h.2.2⟩]
      · rw [if_neg h, if_neg (fun h' => h ⟨h'.1, ?_, h'.2.2⟩)]
        rcases Nat.lt_or_eq_of_le (Nat.lt_succ_iff.mp h'.2.1) with h2 | h2
        · omega
        · exfalso; have := h'.2.2; rw [h2, show k.add n - k = n from Nat.add_sub_cancel_left k n] at this; exact hb this

/-- `setNatAt` changes memory alone. -/
theorem setNatAt_rest (s : State) (k n v mask : Nat) : { setNatAt s k n v mask with mem := s.mem } = s := by
  unfold setNatAt
  induction n with
  | zero => rfl
  | succ n ih =>
    rw [List.range_succ, List.foldl_append]
    simp only [List.foldl_cons, List.foldl_nil]
    split
    · exact ih
    · exact ih


/-- `setNatAt` changes no codeword's error state. -/
theorem setNatAt_cw (s : State) (k n v mask j : Nat) : cwAt (setNatAt s k n v mask) j = cwAt s j := by
  have := congrArg (fun s : State => cwAt s j) (setNatAt_rest s k n v mask)
  exact this

theorem mem_setCwAt (s : State) (k : Nat) (c : Cw) (j : Nat) : byteAt (setCwAt s k c) j = byteAt s j := rfl
theorem mem_setTagAt (s : State) (g : Nat) (b : Bool) (j : Nat) : byteAt (setTagAt s g b) j = byteAt s j := rfl

/-- The registers, cores and caches that a write of memory leaves alone. -/
structure MemOnly (s t : State) : Prop where
  regs : t.regs = s.regs
  cores : t.cores = s.cores
  scenes : t.scenes = s.scenes
  queues : t.queues = s.queues
  caches : t.caches = s.caches
  cxl : t.cxl = s.cxl
  roles : ∀ q, (t.role q).quiet = (s.role q).quiet

theorem MemOnly.refl (s : State) : MemOnly s s := ⟨rfl, rfl, rfl, rfl, rfl, rfl, fun _ => rfl⟩
theorem MemOnly.trans {s t u : State} (h : MemOnly s t) (g : MemOnly t u) : MemOnly s u :=
  ⟨g.regs.trans h.regs, g.cores.trans h.cores, g.scenes.trans h.scenes, g.queues.trans h.queues, g.caches.trans h.caches,
    g.cxl.trans h.cxl, fun q => (g.roles q).trans (h.roles q)⟩
theorem setNatAt_only (s : State) (k n v mask : Nat) : MemOnly s (setNatAt s k n v mask) := by
  have h := setNatAt_rest s k n v mask
  have h1 := congrArg State.regs h
  have h2 := congrArg State.cores h
  have h3 := congrArg State.scenes h
  have h4 := congrArg State.queues h
  have h5 := congrArg State.caches h
  have h6 := congrArg State.cxl h
  have h7 := congrArg State.roles h
  exact ⟨h1, h2, h3, h4, h5, h6, fun q => by unfold State.role; rw [show (Machine.setNatAt s k n v mask).roles = s.roles from h7]⟩

/-- A write of a whole doubleword or of part of a good codeword on the chip. -/
theorem writeSram_bytes (s : State) (dw v mask : Nat) (tag : Bool) (h : mask = 0xFF ∨ cwAt s dw = Cw.clean) :
    (∀ j, byteAt (writeSram s dw v mask tag) j = byteAt (setNatAt s (dw * 8) 8 v mask) j) ∧
    (∀ j, cwAt s j = Cw.clean → cwAt (writeSram s dw v mask tag) j = Cw.clean) ∧ MemOnly s (writeSram s dw v mask tag) := by
  have hs : ∃ u : State, writeSram s dw v mask tag = (match regionOf (dw * 8) with
      | .sram => setTagAt (setNatAt u (dw * 8) 8 v mask) (dw / 2) tag
      | _ => setNatAt u (dw * 8) 8 v mask) ∧ (∀ j, byteAt u j = byteAt s j) ∧ (∀ j, cwAt s j = Cw.clean → cwAt u j = Cw.clean) ∧
      MemOnly s u := by
    unfold writeSram
    dsimp only
    by_cases hm : mask = 0xFF
    · rw [if_pos hm]
      refine ⟨_, rfl, fun _ => rfl, fun j hj => ?_, ⟨rfl, rfl, rfl, rfl, rfl, rfl, fun _ => rfl⟩⟩
      unfold cwAt setCwAt
      rw [Sparse.get_put]
      split
      · rfl
      · exact hj
    · rw [if_neg hm]
      rcases h with h | h
      · exact absurd h hm
      · rw [h]
        exact ⟨_, rfl, fun _ => rfl, fun j hj => hj, ⟨rfl, rfl, rfl, rfl, rfl, rfl, fun _ => rfl⟩⟩
  obtain ⟨u, h1, h2, h3, h4⟩ := hs
  have hb : ∀ j, byteAt (setNatAt u (dw * 8) 8 v mask) j = byteAt (setNatAt s (dw * 8) 8 v mask) j := by
    intro j; rw [byteAt_setNatAt, byteAt_setNatAt, h2]
  rw [h1]
  refine ⟨fun j => ?_, fun j hj => ?_, ?_⟩
  · split
    · rw [mem_setTagAt]; exact hb j
    · exact hb j
  · split
    · exact (setNatAt_cw _ _ _ _ _ j).trans (h3 j hj)
    · exact (setNatAt_cw _ _ _ _ _ j).trans (h3 j hj)
  · have := h4.trans (setNatAt_only u (dw * 8) 8 v mask)
    split
    · exact this.trans ⟨rfl, rfl, rfl, rfl, rfl, rfl, fun _ => rfl⟩
    · exact this

theorem clearResv_mem (s : State) (keep : Option Nat) (dw : Nat) :
    MemOnly s (clearResv s keep dw) ∧ (clearResv s keep dw).mem = s.mem ∧ (clearResv s keep dw).cw = s.cw := by
  unfold clearResv
  generalize s.roles = l
  suffices ∀ u, MemOnly s u ∧ u.mem = s.mem ∧ u.cw = s.cw → MemOnly s (l.foldl (fun s e =>
      if keep = some e.1 || (s.role e.1).resv ≠ some dw then s else s.modRole e.1 (fun x => { x with resv := none })) u) ∧
    (l.foldl (fun s e =>
      if keep = some e.1 || (s.role e.1).resv ≠ some dw then s else s.modRole e.1 (fun x => { x with resv := none })) u).mem = s.mem ∧
    (l.foldl (fun s e =>
      if keep = some e.1 || (s.role e.1).resv ≠ some dw then s else s.modRole e.1 (fun x => { x with resv := none })) u).cw = s.cw from
    this s ⟨MemOnly.refl s, rfl, rfl⟩
  induction l with
  | nil => intro u h; exact h
  | cons e l ih =>
    intro u h
    rw [List.foldl_cons]
    refine ih _ ?_
    split
    · exact h
    · refine ⟨h.1.trans ⟨rfl, rfl, rfl, rfl, rfl, rfl, fun q => ?_⟩, h.2⟩
      by_cases hq : q = e.1
      · subst hq; simp [State.modRole, Role.quiet]
      · rw [State.modRole, State.setRole_role_ne _ _ _ _ hq]

theorem supersede_mem (s : State) (dw mask : Nat) :
    MemOnly s (supersede s dw mask) ∧ (supersede s dw mask).mem = s.mem ∧ (supersede s dw mask).cw = s.cw := by
  unfold supersede
  dsimp only
  split
  · exact ⟨⟨rfl, rfl, rfl, rfl, rfl, rfl, fun _ => rfl⟩, rfl, rfl⟩
  · exact ⟨MemOnly.refl s, rfl, rfl⟩

/-- A write of a granule on the chip, its codewords good. -/
theorem writeGranule_bytes (s : State) (keep : Option Nat) (g v mask : Nat) (tag : Bool) (hm : mask < 2 ^ 16)
    (hc : inCxl (g * 16) = false) (hl : mask % 256 ≠ 0 → cwAt s (2 * g) = Cw.clean)
    (hh : mask / 256 ≠ 0 → cwAt s (2 * g + 1) = Cw.clean) :
    (∀ j, byteAt (writeGranule s keep g v mask tag) j =
      if 16 * g ≤ j ∧ j < 16 * g + 16 ∧ mask.testBit (j - 16 * g) then BitVec.ofNat 8 (v / 256 ^ (j - 16 * g)) else byteAt s j) ∧
    (∀ j, cwAt s j = Cw.clean → cwAt (writeGranule s keep g v mask tag) j = Cw.clean) ∧ MemOnly s (writeGranule s keep g v mask tag) := by
  have hpre : ∃ u, writeGranule s keep g v mask tag =
      (let s := if mask % 256 = 0 then u else writeSram u (2 * g) (v % 2 ^ 64) (mask % 256) tag
       if mask / 256 = 0 then s else writeSram s (2 * g + 1) (v / 2 ^ 64) (mask / 256) tag) ∧
      u.mem = s.mem ∧ u.cw = s.cw ∧ MemOnly s u := by
    unfold writeGranule
    have h1 : ∃ u, u = (if mask % 256 = 0 then s else clearResv (supersede s (2 * g) (mask % 256)) keep (2 * g)) ∧ u.mem = s.mem ∧
        u.cw = s.cw ∧ MemOnly s u := by
      refine ⟨_, rfl, ?_⟩
      split
      · exact ⟨rfl, rfl, MemOnly.refl s⟩
      · have a := supersede_mem s (2 * g) (mask % 256)
        have b := clearResv_mem (supersede s (2 * g) (mask % 256)) keep (2 * g)
        exact ⟨b.2.1.trans a.2.1, b.2.2.trans a.2.2, a.1.trans b.1⟩
    obtain ⟨u, hu, hu1, hu2, hu3⟩ := h1
    have h2 : ∃ w, w = (if mask / 256 = 0 then u else clearResv (supersede u (2 * g + 1) (mask / 256)) keep (2 * g + 1)) ∧ w.mem = s.mem ∧
        w.cw = s.cw ∧ MemOnly s w := by
      refine ⟨_, rfl, ?_⟩
      split
      · exact ⟨hu1, hu2, hu3⟩
      · have a := supersede_mem u (2 * g + 1) (mask / 256)
        have b := clearResv_mem (supersede u (2 * g + 1) (mask / 256)) keep (2 * g + 1)
        exact ⟨(b.2.1.trans a.2.1).trans hu1, (b.2.2.trans a.2.2).trans hu2, (hu3.trans a.1).trans b.1⟩
    obtain ⟨w, hw, hw1, hw2, hw3⟩ := h2
    refine ⟨w, ?_, hw1, hw2, hw3⟩
    dsimp only
    rw [← hu, ← hw]
    unfold inCxl at hc
    split
    · rename_i h; rw [h] at hc; cases hc
    · rfl
  obtain ⟨u, h0, hmem, hcw, ho⟩ := hpre
  rw [h0]
  have hby : ∀ j, byteAt u j = byteAt s j := fun j => by unfold byteAt; rw [hmem]
  have hcwj : ∀ j, cwAt u j = cwAt s j := fun j => by unfold cwAt; rw [hcw]
  have h1 : ∃ a, a = (if mask % 256 = 0 then u else writeSram u (2 * g) (v % 2 ^ 64) (mask % 256) tag) ∧
      (∀ j, byteAt a j = byteAt (setNatAt s (2 * g * 8) 8 (v % 2 ^ 64) (mask % 256)) j) ∧
      (∀ j, cwAt s j = Cw.clean → cwAt a j = Cw.clean) ∧ MemOnly s a := by
    refine ⟨_, rfl, ?_⟩
    split
    · rename_i h
      refine ⟨fun j => ?_, fun j hj => (hcwj j).trans hj, ho⟩
      rw [byteAt_setNatAt, h, hby]; simp
    · rename_i h
      have a := writeSram_bytes u (2 * g) (v % 2 ^ 64) (mask % 256) tag (.inr ((hcwj _).trans (hl h)))
      refine ⟨fun j => ?_, fun j hj => a.2.1 j ((hcwj j).trans hj), ho.trans a.2.2⟩
      rw [a.1, byteAt_setNatAt, byteAt_setNatAt, hby]
  obtain ⟨a, ha, ha1, ha2, ha3⟩ := h1
  dsimp only
  rw [← ha]
  have h2 : ∃ b, b = (if mask / 256 = 0 then a else writeSram a (2 * g + 1) (v / 2 ^ 64) (mask / 256) tag) ∧
      (∀ j, byteAt b j = byteAt (setNatAt a ((2 * g + 1) * 8) 8 (v / 2 ^ 64) (mask / 256)) j) ∧
      (∀ j, cwAt s j = Cw.clean → cwAt b j = Cw.clean) ∧ MemOnly s b := by
    refine ⟨_, rfl, ?_⟩
    split
    · rename_i h
      refine ⟨fun j => ?_, ha2, ha3⟩
      rw [byteAt_setNatAt, h]; simp
    · rename_i h
      have b := writeSram_bytes a (2 * g + 1) (v / 2 ^ 64) (mask / 256) tag (.inr (ha2 _ (hh h)))
      exact ⟨b.1, fun j hj => b.2.1 j (ha2 j hj), ha3.trans b.2.2⟩
  obtain ⟨b, hb, hb1, hb2, hb3⟩ := h2
  rw [← hb]
  refine ⟨fun j => ?_, hb2, hb3⟩
  rw [hb1, byteAt_setNatAt, ha1, byteAt_setNatAt]
  have t1 : ∀ i, (mask % 256).testBit i = (decide (i < 8) && mask.testBit i) := fun i => by
    rw [show (256 : Nat) = 2 ^ 8 by decide, Nat.testBit_mod_two_pow]
  have t2 : ∀ i, (mask / 256).testBit i = mask.testBit (8 + i) := fun i => by
    rw [show (256 : Nat) = 2 ^ 8 by decide, ← Nat.shiftRight_eq_div_pow, Nat.testBit_shiftRight]
  rw [t1, t2]
  by_cases h1 : 16 * g ≤ j
  · by_cases h2 : j < 16 * g + 8
    · rw [if_neg (by omega)]
      have e : 2 * g * 8 = 16 * g := by omega
      rw [e]
      by_cases h3 : mask.testBit (j - 16 * g) = true
      · rw [if_pos ⟨h1, by omega, by simp [h3]; omega⟩, if_pos ⟨h1, by omega, h3⟩]
        apply BitVec.eq_of_toNat_eq
        simp only [BitVec.toNat_ofNat]
        have : j - 16 * g < 8 := by omega
        generalize j - 16 * g = i at this
        have hi : i = 0 ∨ i = 1 ∨ i = 2 ∨ i = 3 ∨ i = 4 ∨ i = 5 ∨ i = 6 ∨ i = 7 := by omega
        rcases hi with rfl | rfl | rfl | rfl | rfl | rfl | rfl | rfl <;> simp only [Nat.reducePow] <;> omega
      · rw [if_neg (fun h => h3 (by simpa using (Bool.and_eq_true _ _ ▸ h.2.2).2)), if_neg (fun h => h3 h.2.2)]
    · by_cases h4 : j < 16 * g + 16
      · have e : (2 * g + 1) * 8 = 16 * g + 8 := by omega
        rw [e, show 8 + (j - (16 * g + 8)) = j - 16 * g by omega]
        by_cases h3 : mask.testBit (j - 16 * g) = true
        · rw [if_pos ⟨by omega, by omega, h3⟩, if_pos ⟨h1, h4, h3⟩]
          apply BitVec.eq_of_toNat_eq
          simp only [BitVec.toNat_ofNat]
          have e2 : j - 16 * g = 8 + (j - (16 * g + 8)) := by omega
          rw [e2, Nat.pow_add, ← Nat.div_div_eq_div_mul, show (256 : Nat) ^ 8 = 2 ^ 64 by decide]
        · rw [if_neg (fun h => h3 h.2.2), if_neg (by omega), if_neg (fun h => h3 h.2.2)]
      · rw [if_neg (by omega), if_neg (by omega), if_neg (by omega)]
  · rw [if_neg (by omega), if_neg (by omega), if_neg (by omega)]


/-- A write of bytes on the chip, in good codewords: those bytes and no others change, and beside memory only tags, held words, staged
entries and reservations. -/
theorem writeMem_bytes (s : State) (keep : Option Nat) (a : Nat) (l : List Byte) (tag : Bool) (hp : Plain s a l.length) :
    (∀ j, byteAt (writeMem s keep a l tag) j = if a ≤ j ∧ j < a + l.length then l.getD (j - a) 0 else byteAt s j) ∧
    (∀ j, cwAt s j = Cw.clean → cwAt (writeMem s keep a l tag) j = Cw.clean) ∧ MemOnly s (writeMem s keep a l tag) := by
  unfold writeMem
  dsimp only
  generalize hn : (if l.isEmpty = true then 0 else (a + l.length - 1) / 16 - a / 16 + 1) = n
  have hcov : ∀ j, a ≤ j → j < a + l.length → j / 16 < a / 16 + n := by
    intro j h1 h2
    rw [← hn, if_neg (by intro h; rw [List.isEmpty_iff] at h; subst h; simp at h2; omega)]
    have : j / 16 ≤ (a + l.length - 1) / 16 := Nat.div_le_div_right (by omega)
    have : a / 16 ≤ j / 16 := Nat.div_le_div_right h1
    omega
  have hne : ∀ i, i < n → ∃ j, a ≤ j ∧ j < a + l.length ∧ j / 16 = a / 16 + i := by
    intro i hi
    rw [← hn] at hi
    split at hi
    · omega
    · rename_i h
      have hl : 0 < l.length := by
        cases l with
        | nil => simp at h
        | cons => simp
      by_cases h0 : i = 0
      · exact ⟨a, Nat.le_refl _, by omega, by omega⟩
      · refine ⟨(a / 16 + i) * 16, by omega, ?_, by omega⟩
        have : (a / 16 + i) * 16 ≤ (a + l.length - 1) / 16 * 16 := by apply Nat.mul_le_mul_right; omega
        omega
  suffices ∀ (pick : Nat → Nat → Option Byte) (F : State → Nat → State), (∀ i j, pick i j = if (decide (a ≤ (a / 16 + i) * 16 + j) &&
      decide ((a / 16 + i) * 16 + j < a + l.length)) = true then l[(a / 16 + i) * 16 + j - a]? else none) →
      (∀ s i, F s i = writeGranule s keep (a / 16 + i) (leNat (List.map (fun j => (pick i j).getD 0) (List.range 16)))
        (List.foldl (fun m j => if (pick i j).isSome = true then m + 2 ^ j else m) 0 (List.range 16)) tag) →
      ∀ m, m ≤ n → ∀ u, u = (List.range m).foldl F s →
      (∀ j, byteAt u j = if a ≤ j ∧ j < a + l.length ∧ j / 16 < a / 16 + m then l.getD (j - a) 0 else byteAt s j) ∧
      (∀ j, cwAt s j = Cw.clean → cwAt u j = Cw.clean) ∧ MemOnly s u by
    have h := this _ _ (fun _ _ => rfl) (fun _ _ => rfl) n (Nat.le_refl _) _ rfl
    refine ⟨fun j => ?_, h.2⟩
    rw [h.1 j]
    by_cases hj : a ≤ j ∧ j < a + l.length
    · rw [if_pos ⟨hj.1, hj.2, hcov j hj.1 hj.2⟩, if_pos hj]
    · rw [if_neg (fun h => hj ⟨h.1, h.2.1⟩), if_neg hj]
  intro pick F hpick hF m
  induction m with
  | zero =>
    intro _ u hu
    subst hu
    refine ⟨fun j => ?_, fun _ h => h, MemOnly.refl _⟩
    rw [if_neg (by intro h; have := Nat.div_le_div_right (c := 16) h.1; omega)]
  | succ m ih =>
    intro hm u hu
    rw [List.range_succ, List.foldl_append] at hu
    simp only [List.foldl_cons, List.foldl_nil] at hu
    obtain ⟨i1, i2, i3⟩ := ih (by omega) _ rfl
    generalize (List.range m).foldl F s = w at hu i1 i2 i3
    rw [hF] at hu
    have mk := mask_testBit (fun j => (pick m j).isSome) 16
    have hbit : ∀ j, (pick m j).isSome = (decide (a ≤ (a / 16 + m) * 16 + j) && decide ((a / 16 + m) * 16 + j < a + l.length)) := by
      intro j
      rw [hpick]
      split
      · rename_i h
        rw [h]
        simp only [Bool.and_eq_true, decide_eq_true_eq] at h
        simp; omega
      · rename_i h; simp only [Bool.not_eq_true] at h; rw [h]; rfl
    generalize hM : (List.foldl (fun M j => if (pick m j).isSome = true then M + 2 ^ j else M) 0 (List.range 16)) = M at hu mk
    have bitM : ∀ j, M.testBit j = (decide (j < 16) && (decide (a ≤ (a / 16 + m) * 16 + j) && decide ((a / 16 + m) * 16 + j < a + l.length))) := by
      intro j; rw [mk.2 j, hbit]
    obtain ⟨j0, j1, j2, j3⟩ := hne m (by omega)
    have hcx : inCxl ((a / 16 + m) * 16) = false := by
      have := (hp (j0 - a) (by omega)).1
      rw [show a + (j0 - a) = j0 by omega, j3] at this; exact this
    have cwl : ∀ p, p < 2 → (∃ j, 8 * p ≤ j ∧ j < 8 * p + 8 ∧ M.testBit j = true) → cwAt w (2 * (a / 16 + m) + p) = Cw.clean := by
      rintro p hp2 ⟨j, h1, h2, h3⟩
      rw [bitM] at h3
      simp only [Bool.and_eq_true, decide_eq_true_eq] at h3
      have := (hp ((a / 16 + m) * 16 + j - a) (by omega)).2.2
      refine i2 _ ?_
      rw [show a + ((a / 16 + m) * 16 + j - a) = (a / 16 + m) * 16 + j by omega, show ((a / 16 + m) * 16 + j) / 8 = 2 * (a / 16 + m) + p by omega] at this
      exact this
    have gr := writeGranule_bytes w keep (a / 16 + m) (leNat (List.map (fun j => (pick m j).getD 0) (List.range 16))) M tag mk.1 hcx
      (fun h => cwl 0 (by omega) (by
        obtain ⟨j, hj⟩ := Nat.exists_testBit_of_ne_zero h
        rw [show (256 : Nat) = 2 ^ 8 by decide, Nat.testBit_mod_two_pow] at hj
        simp only [Bool.and_eq_true, decide_eq_true_eq] at hj
        exact ⟨j, by omega, by omega, hj.2⟩))
      (fun h => cwl 1 (by omega) (by
        obtain ⟨j, hj⟩ := Nat.exists_testBit_of_ne_zero h
        rw [show (256 : Nat) = 2 ^ 8 by decide, ← Nat.shiftRight_eq_div_pow, Nat.testBit_shiftRight] at hj
        refine ⟨8 + j, by omega, ?_, hj⟩
        have := bitM (8 + j); rw [hj] at this; simp at this; omega))
    rw [← hu] at gr
    refine ⟨fun j => ?_, fun j hj => gr.2.1 j (i2 j hj), i3.trans gr.2.2⟩
    rw [gr.1, i1]
    by_cases hj : 16 * (a / 16 + m) ≤ j ∧ j < 16 * (a / 16 + m) + 16
    · have hdiv : j / 16 = a / 16 + m := by omega
      rw [bitM, show (a / 16 + m) * 16 + (j - 16 * (a / 16 + m)) = j by omega]
      by_cases hin : a ≤ j ∧ j < a + l.length
      · rw [if_pos ⟨hj.1, hj.2, by simp; omega⟩, if_pos ⟨hin.1, hin.2, by omega⟩, leNat_digit]
        rw [List.getD_eq_getElem?_getD, List.getElem?_map, List.getElem?_range (by omega)]
        simp only [Option.map_some, Option.getD_some, hpick, show (a / 16 + m) * 16 + (j - 16 * (a / 16 + m)) = j by omega, hin.1, hin.2, decide_true, Bool.and_self, if_true]
        rfl
      · rw [if_neg (fun h => hin ⟨by simpa using (by have := h.2.2; simp at this; exact this.2.1), by have := h.2.2; simp at this; exact this.2.2⟩), if_neg (fun h => hin ⟨h.1, h.2.1⟩), if_neg (fun h => hin ⟨h.1, h.2.1⟩)]
    · rw [if_neg (fun h => hj ⟨h.1, h.2.1⟩)]
      by_cases hin : a ≤ j ∧ j < a + l.length ∧ j / 16 < a / 16 + m
      · rw [if_pos hin, if_pos ⟨hin.1, hin.2.1, by omega⟩]
      · rw [if_neg hin, if_neg (fun h => hin ⟨h.1, h.2.1, by omega⟩)]

theorem leBytes_leNat (l : List Byte) : leBytes l.length (leNat l) = l := by
  induction l with
  | nil => rfl
  | cons b l ih =>
    have h1 : (b.toNat + 256 * leNat l) / 256 = leNat l := by have := b.isLt; omega
    have h2 : BitVec.ofNat 8 (b.toNat + 256 * leNat l) = b := by
      apply BitVec.eq_of_toNat_eq; rw [BitVec.toNat_ofNat]; have := b.isLt; omega
    simp only [List.length_cons, leBytes, leNat, h1, h2, ih]

theorem natAt_bytes (s : State) (k n : Nat) : leBytes n (natAt s k n) = (List.range n).map (fun i => byteAt s (k + i)) := by
  have := leBytes_leNat ((List.range n).map (fun i => byteAt s (k + i)))
  rw [List.length_map, List.length_range] at this
  exact this

theorem overlay_nil {s : State} {dw : Nat} (h : s.staged (areaOf (dw * 8)) = []) : overlay s dw = (0, 0) := by
  simp [overlay, h]

theorem mergeBytes_none (v w : Nat) : leBytes 8 (mergeBytes 0 v w) = (List.range 8).map (fun i => BitVec.ofNat 8 (v / 256 ^ i)) := by
  have := leBytes_leNat ((List.range 8).map (fun i => BitVec.ofNat 8 ((if (0 : Nat).testBit i then w else v) / 256 ^ i)))
  simp only [List.length_map, List.length_range, Nat.zero_testBit, Bool.false_eq_true, if_false] at this
  unfold mergeBytes
  simp only [Nat.zero_testBit, Bool.false_eq_true, if_false]
  exact this

/-- A read of a good doubleword on the chip. -/
theorem readDw_chip {s : State} {ag dw : Nat} (hc : inCxl (dw * 8) = false) (hw : cwAt s dw = Cw.clean) (hl : loadError s (dw * 8) = false)
    (ho : s.staged (areaOf (dw * 8)) = []) :
    ∃ v, readDw s ag dw = (s, .ok v) ∧ leBytes 8 v = (List.range 8).map (fun i => byteAt s (dw * 8 + i)) := by
  refine ⟨mergeBytes 0 (natAt s (dw * 8) 8) 0, ?_, ?_⟩
  · unfold readDw
    rw [overlay_nil ho]
    simp only [hl]
    unfold inCxl at hc
    split
    · rename_i h; simp at h
    · split
      · rename_i h; cases h
      · split
        · rename_i h; rw [h] at hc; cases hc
        · simp [readSram, hw, Cw.clean]
  · rw [mergeBytes_none]
    apply List.map_congr_left
    intro i hi
    have hi := List.mem_range.mp hi
    unfold natAt
    rw [leNat_digit, List.getD_eq_getElem?_getD, List.getElem?_map, List.getElem?_range hi]
    rfl

theorem readDws_chip {s : State} {ag : Nat} (n : Nat) : ∀ dw, (∀ k, dw ≤ k → k < dw + n → inCxl (k * 8) = false ∧ cwAt s k = Cw.clean ∧
    loadError s (k * 8) = false ∧ s.staged (areaOf (k * 8)) = []) →
    ∃ l, readDws s ag dw n = (s, .ok l) ∧ (l.map (fun v => leBytes 8 v)).flatten = (List.range (8 * n)).map (fun i => byteAt s (dw * 8 + i)) := by
  induction n with
  | zero => intro dw _; exact ⟨[], rfl, rfl⟩
  | succ n ih =>
    intro dw h
    have h0 := h dw (Nat.le_refl _) (by omega)
    obtain ⟨v, h1, h2⟩ := readDw_chip (ag := ag) h0.1 h0.2.1 h0.2.2.1 h0.2.2.2
    obtain ⟨l, h3, h4⟩ := ih (dw + 1) (fun k hk1 hk2 => h k (by omega) (by omega))
    refine ⟨v :: l, ?_, ?_⟩
    · simp only [readDws, h1, h3]
    · rw [List.map_cons, List.flatten_cons, h2, h4, show 8 * (n + 1) = 8 + 8 * n by omega, List.range_add, List.map_append, List.map_map]
      congr 1
      apply List.map_congr_left
      intro i _
      simp only [Function.comp]
      congr 1; omega

/-- A read of bytes on the chip, in good codewords with nothing staged, finds the bytes and changes nothing. -/
theorem readMem_chip {s : State} {ag a n : Nat} (hn : 0 < n) (h : Readable s a n) :
    readMem s ag a n = (s, .ok ((List.range n).map (fun i => byteAt s (a + i)))) := by
  obtain ⟨l, h1, h2⟩ := readDws_chip (s := s) (ag := ag) ((a + n - 1) / 8 - a / 8 + 1) (a / 8) (fun k hk1 hk2 => h k hk1 (by
    have : a / 8 ≤ (a + n - 1) / 8 := Nat.div_le_div_right (by omega)
    omega))
  unfold readMem
  rw [h1]
  simp only [h2]
  congr 2
  rw [← List.map_drop, ← List.map_take]
  apply List.ext_getElem?
  intro i
  rw [List.getElem?_map, List.getElem?_take, List.getElem?_drop, List.getElem?_map]
  have hd : a / 8 ≤ (a + n - 1) / 8 := Nat.div_le_div_right (by omega)
  by_cases hi : i < n
  · rw [if_pos hi, List.getElem?_range hi, List.getElem?_range (by omega)]
    simp only [Option.map_some]
    congr 2; omega
  · rw [if_neg hi, List.getElem?_eq_none (by simpa using hi)]; rfl

end Sys2Proof.Machine
end

