-- ==== Sys2Proof/Laws/Flags.lean ====
section
/-! SUPPORT. Laws of ST: bits of a word after one is replaced, and what each flag computation leaves. -/

namespace Sys2Proof.Machine

/-- A bit of a word after one bit is replaced. -/
theorem bit_setBit (x : Word) (n m : Nat) (b : Bool) (hn : n < 32) : bit (setBit x n b) m = if m = n then b else bit x m := by
  unfold setBit bit
  cases b
  · by_cases h : m = n
    · subst h; simp [BitVec.getLsbD_and, BitVec.getLsbD_not, BitVec.getLsbD_shiftLeft, hn]
    · simp [BitVec.getLsbD_and, BitVec.getLsbD_not, BitVec.getLsbD_shiftLeft, h]
      intro hx
      by_cases hm : m < 32
      · refine ⟨hm, ?_⟩; omega
      · exfalso; rw [BitVec.getLsbD_of_ge _ _ (by omega)] at hx; cases hx
  · by_cases h : m = n
    · subst h; simp [BitVec.getLsbD_or, BitVec.getLsbD_shiftLeft, hn]
    · simp [BitVec.getLsbD_or, BitVec.getLsbD_shiftLeft, h]
      intro _ hx; omega

theorem bit31 (v : Word) : bit v 31 = decide (2 ^ 31 ≤ v.toNat) := by
  unfold bit
  rw [← BitVec.msb_eq_getLsbD_last (x := v), BitVec.msb_eq_decide]

theorem beq0 (v : Word) : (v == 0) = decide (v.toNat = 0) := by
  rw [Bool.eq_iff_iff]; simp [BitVec.toNat_eq]

theorem bits_low (x : Word) (n : Nat) : bits x n 0 = x.toNat % 2 ^ (n + 1) := by simp [bits]

theorem bs0 (x : Word) (m : Nat) (b : Bool) : bit (setBit x 0 b) m = if m = 0 then b else bit x m := bit_setBit x 0 m b (by decide)
theorem bs1 (x : Word) (m : Nat) (b : Bool) : bit (setBit x 1 b) m = if m = 1 then b else bit x m := bit_setBit x 1 m b (by decide)
theorem bs2 (x : Word) (m : Nat) (b : Bool) : bit (setBit x 2 b) m = if m = 2 then b else bit x m := bit_setBit x 2 m b (by decide)
theorem bs3 (x : Word) (m : Nat) (b : Bool) : bit (setBit x 3 b) m = if m = 3 then b else bit x m := bit_setBit x 3 m b (by decide)
theorem bs4 (x : Word) (m : Nat) (b : Bool) : bit (setBit x 4 b) m = if m = 4 then b else bit x m := bit_setBit x 4 m b (by decide)
theorem bs5 (x : Word) (m : Nat) (b : Bool) : bit (setBit x 5 b) m = if m = 5 then b else bit x m := bit_setBit x 5 m b (by decide)
theorem bs6 (x : Word) (m : Nat) (b : Bool) : bit (setBit x 6 b) m = if m = 6 then b else bit x m := bit_setBit x 6 m b (by decide)

theorem znflags (st v : Word) : ZnFlags st (stZN st v) v := by
  constructor
  · simp only [stZN, bs1, bs2, beq0]; rfl
  · simp only [stZN, bs1, bs2, bit31]; rfl
  · intro n h1 h2; simp [stZN, bs1, bs2, h1, h2]

theorem sumflags (st x y : Word) (k : Bool) : SumFlags st (stSum st (addWith x y k)) x y (if k then 1 else 0) := by
  constructor
  · simp only [stSum, stZN, bs0, bs1, bs2, bs3, bs4, addWith]; rfl
  · simp only [stSum, stZN, bs0, bs1, bs2, bs3, bs4, addWith, beq0, BitVec.toNat_ofNat]; rfl
  · simp only [stSum, stZN, bs0, bs1, bs2, bs3, bs4, addWith]; rw [bit31 (BitVec.ofNat 32 _)]; simp only [BitVec.toNat_ofNat]; rfl
  · simp only [stSum, stZN, bs0, bs1, bs2, bs3, bs4, addWith]
    rw [bit31 (BitVec.ofNat 32 _)]; simp only [BitVec.toNat_ofNat]; rfl
  · simp only [stSum, stZN, bs0, bs1, bs2, bs3, bs4, addWith, bits_low]; rfl
  · intro n hn
    simp only [stSum, stZN, bs0, bs1, bs2, bs3, bs4, addWith]
    rw [if_neg (by omega), if_neg (by omega), if_neg (by omega), if_neg (by omega), if_neg (by omega)]

theorem shiftflags (st : Word) (p : Word × Option Bool) : ShiftFlags st (stShift st p) p.1 p.2 := by
  obtain ⟨v, c⟩ := p
  cases c with
  | none =>
    constructor
    · simp only [stShift, stZN, bs1, bs2]; rfl
    · simp only [stShift, stZN, bs1, bs2, beq0]; rfl
    · simp only [stShift, stZN, bs1, bs2, bit31]; rfl
    · intro n hn
      simp only [stShift, stZN, bs1, bs2]
      rw [if_neg (by omega), if_neg (by omega)]
  | some c =>
    constructor
    · simp only [stShift, stZN, bs0, bs1, bs2]; rfl
    · simp only [stShift, stZN, bs0, bs1, bs2, beq0]; rfl
    · simp only [stShift, stZN, bs0, bs1, bs2, bit31]; rfl
    · intro n hn
      simp only [stShift, stZN, bs0, bs1, bs2]
      rw [if_neg (by omega), if_neg (by omega), if_neg (by omega)]

end Sys2Proof.Machine
end

