-- ==== Sys2Proof/Laws/Reports.lean ====
section
/-! SUPPORT. Laws of fault reports: they change registers of the device region alone. -/

namespace Sys2Proof.Machine

theorem foldl_rest {α : Type} (f : State → α → State) (hf : ∀ (p : State) (a : α), { f p a with regs := p.regs } = p) (l : List α) :
    ∀ (s : State), { l.foldl f s with regs := s.regs } = s := by
  induction l with
  | nil => intro s; rfl
  | cons a l ih =>
    intro s
    rw [List.foldl_cons]
    have h1 := ih (f s a)
    have h2 := hf s a
    calc { l.foldl f (f s a) with regs := s.regs }
        = { ({ l.foldl f (f s a) with regs := (f s a).regs } : State) with regs := s.regs } := rfl
      _ = { f s a with regs := s.regs } := by rw [h1]
      _ = s := h2

theorem recordFault_rest (u b code role : Nat) (addr : Option Nat) (s : State) (v : Nat) :
    { recordFault u b code role addr s v with regs := s.regs } = s := by
  have h0 : ∀ (a hi lo : Nat), { s.incField a hi lo with regs := s.regs } = s := fun _ _ _ => rfl
  have h1 : ∀ (t : State) (a b c : Nat) (x y z : Word), { t with regs := s.regs } = s →
      { ((t.setReg a x).setReg b y).setReg c z with regs := s.regs } = s := fun _ _ _ _ _ _ _ h => h
  unfold recordFault
  have h2 := h0 (Adr.uibFault v) 31 16
  generalize s.incField (Adr.uibFault v) 31 16 = t at h2
  dsimp only
  split
  · exact h2
  · exact h1 t _ _ _ _ _ _ h2

/-- A fault report changes registers alone. -/
theorem raiseFault_rest (s : State) (u b code role : Nat) (addr : Option Nat) :
    { raiseFault s u b code role addr with regs := s.regs } = s := by
  unfold raiseFault
  exact foldl_rest _ (fun p a => recordFault_rest u b code role addr p a) _ (s.setFlag (Adr.uibFault u) b true) |> fun h => by
    have := congrArg (fun t : State => { t with regs := s.regs }) h
    exact this

theorem raiseFault_role (s : State) (u b code role : Nat) (addr : Option Nat) (q : Nat) :
    (raiseFault s u b code role addr).role q = s.role q := by
  have h := congrArg State.roles (raiseFault_rest s u b code role addr)
  unfold State.role
  rw [show (raiseFault s u b code role addr).roles = s.roles from h]

theorem raiseFault_mem (s : State) (u b code role : Nat) (addr : Option Nat) : (raiseFault s u b code role addr).mem = s.mem := by
  have h := congrArg State.mem (raiseFault_rest s u b code role addr)
  exact h

/-- A role number is its own number. -/
@[simp] theorem ofNat_roleId (r : RoleId) : Fin.ofNat 528 r.val = r := by
  apply Fin.ext; exact Nat.mod_eq_of_lt r.isLt

end Sys2Proof.Machine
end

