-- ==== Sys2Proof/Laws/Regs.lean ====
section
/-! SUPPORT. Laws of fields: bits of a word after a field is replaced, fields of a register after another is written, and what a fault
report leaves in the fault registers. -/

namespace Sys2Proof.Machine

/-- A bit of a word after a field is replaced. -/
theorem bit_setBits (x : Word) (hi lo v m : Nat) (h : hi < 32) :
    bit (setBits x hi lo v) m = if lo ≤ m ∧ m ≤ hi then v.testBit (m - lo) else bit x m := by
  unfold setBits bit fieldMask
  simp only [BitVec.getLsbD_or, BitVec.getLsbD_and, BitVec.getLsbD_not, BitVec.getLsbD_shiftLeft, BitVec.getLsbD_ofNat,
    Nat.testBit_two_pow_sub_one]
  by_cases h1 : lo ≤ m
  · by_cases h2 : m ≤ hi
    · simp [h1, h2, show m < 32 by omega, show ¬ m < lo by omega, show m - lo < hi + 1 - lo by omega, show m - lo < 32 by omega]
    · by_cases h3 : m < 32
      · simp [h1, h2, h3, show ¬ m - lo < hi + 1 - lo by omega]
      · simp [h1, h2, h3, BitVec.getLsbD_of_ge x m (by omega)]
  · by_cases h3 : m < 32
    · simp [h1, h3, show m < lo by omega]
    · simp [h1, h3, BitVec.getLsbD_of_ge x m (by omega)]

/-- A bit of a field's number. -/
theorem bits_testBit (x : Word) (hi lo k : Nat) : (bits x hi lo).testBit k = (decide (k < hi + 1 - lo) && bit x (lo + k)) := by
  unfold bits bit
  rw [Nat.testBit_mod_two_pow, Nat.testBit_shiftRight]
  rfl

/-- A field after it is replaced. -/
theorem bits_setBits_self (x : Word) (hi lo v : Nat) (h : hi < 32) : bits (setBits x hi lo v) hi lo = v % 2 ^ (hi + 1 - lo) := by
  apply Nat.eq_of_testBit_eq
  intro k
  rw [bits_testBit, Nat.testBit_mod_two_pow, bit_setBits _ _ _ _ _ h]
  by_cases hk : k < hi + 1 - lo
  · simp [hk, show lo + k ≤ hi by omega]
  · simp [hk]

/-- A field after another is replaced. -/
theorem bits_setBits_other (x : Word) (hi lo v a b : Nat) (h : hi < 32) (hd : a < lo ∨ hi < b) :
    bits (setBits x hi lo v) a b = bits x a b := by
  apply Nat.eq_of_testBit_eq
  intro k
  rw [bits_testBit, bits_testBit, bit_setBits _ _ _ _ _ h]
  by_cases hk : k < a + 1 - b
  · rw [if_neg (by omega)]
  · simp [hk]

/-- A field after a bit outside it is replaced. -/
theorem bits_setBit_other (x : Word) (n a b : Nat) (v : Bool) (h : n < 32) (hd : a < n ∨ n < b) :
    bits (setBit x n v) a b = bits x a b := by
  apply Nat.eq_of_testBit_eq
  intro k
  rw [bits_testBit, bits_testBit, bit_setBit _ _ _ _ h]
  by_cases hk : k < a + 1 - b
  · rw [if_neg (by omega)]
  · simp [hk]

/-- Words with the same bits are one word. -/
theorem word_ext {x y : Word} (h : ∀ n, n < 32 → bit x n = bit y n) : x = y := BitVec.eq_of_getLsbD_eq h

namespace State

variable (s : State)

theorem reg_setReg (a b : Nat) (v : Word) : (s.setReg a v).reg b = if b = a then v else s.reg b := Sparse.get_put _ _ _ _ _
theorem reg_setField (a b hi lo v : Nat) : (s.setField a hi lo v).reg b = if b = a then setBits (s.reg a) hi lo v else s.reg b :=
  Sparse.get_put _ _ _ _ _
theorem reg_setFlag (a b n : Nat) (v : Bool) : (s.setFlag a n v).reg b = if b = a then setBit (s.reg a) n v else s.reg b :=
  Sparse.get_put _ _ _ _ _
theorem reg_incField (a b hi lo : Nat) : (s.incField a hi lo).reg b =
    if b = a then setBits (s.reg a) hi lo (satInc (s.field a hi lo) (2 ^ (hi + 1 - lo) - 1)) else s.reg b := Sparse.get_put _ _ _ _ _

theorem field_incField_self (a hi lo : Nat) (h : hi < 32) :
    (s.incField a hi lo).field a hi lo = satInc (s.field a hi lo) (2 ^ (hi + 1 - lo) - 1) := by
  show bits ((s.incField a hi lo).reg a) hi lo = _
  rw [reg_incField, if_pos rfl, bits_setBits_self _ _ _ _ h]
  have : s.field a hi lo < 2 ^ (hi + 1 - lo) := Nat.mod_lt _ (Nat.two_pow_pos _)
  apply Nat.mod_eq_of_lt
  unfold satInc
  split <;> omega

theorem field_eq (a hi lo : Nat) : s.field a hi lo = bits (s.reg a) hi lo := rfl
theorem flag_eq (a n : Nat) : s.flag a n = bit (s.reg a) n := rfl

variable {s}
/-- Updates of registers change registers alone. -/
theorem rest_setReg {t : State} (h : { t with regs := s.regs } = s) (a : Nat) (v : Word) : { t.setReg a v with regs := s.regs } = s := h
theorem rest_setField {t : State} (h : { t with regs := s.regs } = s) (a hi lo v : Nat) :
    { t.setField a hi lo v with regs := s.regs } = s := h
theorem rest_setFlag {t : State} (h : { t with regs := s.regs } = s) (a n : Nat) (v : Bool) :
    { t.setFlag a n v with regs := s.regs } = s := h
theorem rest_incField {t : State} (h : { t with regs := s.regs } = s) (a hi lo : Nat) :
    { t.incField a hi lo with regs := s.regs } = s := h
theorem rest_trans {t u : State} (h : { t with regs := s.regs } = s) (g : { u with regs := t.regs } = t) :
    { u with regs := s.regs } = s := by
  have := congrArg (fun w : State => { w with regs := s.regs }) g
  exact this.trans h

end State

/-- A saturating count. -/
theorem satInc_min (v hi : Nat) (h : v ≤ hi) : satInc v hi = min hi (v + 1) := by unfold satInc; split <;> omega

/-- A field's number is below its range. -/
theorem bits_lt {n : Nat} (x : BitVec n) (h l : Nat) : bits x h l < 2 ^ (h + 1 - l) := Nat.mod_lt _ (Nat.two_pow_pos _)

/-- Registers that change alone, one step after another. -/
theorem OnlyRegs.refl (s : State) (l : List Nat) : OnlyRegs s s l := ⟨fun _ _ => rfl, rfl⟩
theorem OnlyRegs.trans {s t u : State} {l m : List Nat} (h : OnlyRegs s t l) (g : OnlyRegs t u m) (hl : ∀ a, a ∈ l → a ∈ m) :
    OnlyRegs s u m := ⟨fun a ha => (g.regs a ha).trans (h.regs a (fun hc => ha (hl a hc))), State.rest_trans h.rest g.rest⟩
theorem OnlyRegs.setReg {s t : State} {l : List Nat} (h : OnlyRegs s t l) {a : Nat} (ha : a ∈ l) (v : Word) : OnlyRegs s (t.setReg a v) l :=
  ⟨fun b hb => by rw [State.reg_setReg, if_neg (fun hc : b = a => hb (by rw [hc]; exact ha))]; exact h.regs b hb, State.rest_setReg h.rest a v⟩
theorem OnlyRegs.setField {s t : State} {l : List Nat} (h : OnlyRegs s t l) {a : Nat} (ha : a ∈ l) (hi lo v : Nat) :
    OnlyRegs s (t.setField a hi lo v) l := h.setReg ha _
theorem OnlyRegs.setFlag {s t : State} {l : List Nat} (h : OnlyRegs s t l) {a : Nat} (ha : a ∈ l) (n : Nat) (v : Bool) :
    OnlyRegs s (t.setFlag a n v) l := h.setReg ha _
theorem OnlyRegs.incField {s t : State} {l : List Nat} (h : OnlyRegs s t l) {a : Nat} (ha : a ∈ l) (hi lo : Nat) :
    OnlyRegs s (t.incField a hi lo) l := h.setReg ha _

/-- A fault record at a unit changes no register but that unit's fault registers, and no bit of UIB_FAULT below its count. -/
theorem recordFault_regs (u b code role : Nat) (addr : Option Nat) (s : State) (v : Nat) :
    (∀ a, a ≠ Adr.uibFault v → a ≠ Adr.uibFrecInfo v → a ≠ Adr.uibFrecAddrl v → a ≠ Adr.uibFrecAddrh v →
      (recordFault u b code role addr s v).reg a = s.reg a) ∧
    ∀ w n, n < 16 → (recordFault u b code role addr s v).flag (Adr.uibFault w) n = s.flag (Adr.uibFault w) n := by
  have hf : ∀ w n, n < 16 → (s.incField (Adr.uibFault v) 31 16).flag (Adr.uibFault w) n = s.flag (Adr.uibFault w) n := by
    intro w n hn
    show bit ((s.incField (Adr.uibFault v) 31 16).reg _) n = _
    rw [State.reg_incField]
    split
    · rename_i h; rw [h, bit_setBits _ _ _ _ _ (by decide), if_neg (by omega)]; rfl
    · rfl
  unfold recordFault
  dsimp only
  split
  · exact ⟨fun a h1 _ _ _ => by rw [State.reg_incField, if_neg h1], hf⟩
  · refine ⟨fun a h1 h2 h3 h4 => ?_, fun w n hn => ?_⟩
    · rw [State.reg_setReg, if_neg h4, State.reg_setReg, if_neg h3, State.reg_setReg, if_neg h2, State.reg_incField, if_neg h1]
    · refine Eq.trans ?_ (hf w n hn)
      show bit (State.reg _ _) n = _
      have e1 : Adr.uibFault w ≠ Adr.uibFrecAddrh v := by unfold Adr.uibFault Adr.uibFrecAddrh uibBase; omega
      have e2 : Adr.uibFault w ≠ Adr.uibFrecAddrl v := by unfold Adr.uibFault Adr.uibFrecAddrl uibBase; omega
      have e3 : Adr.uibFault w ≠ Adr.uibFrecInfo v := by unfold Adr.uibFault Adr.uibFrecInfo uibBase; omega
      rw [State.reg_setReg, if_neg e1, State.reg_setReg, if_neg e2, State.reg_setReg, if_neg e3]
      rfl

/-- A fault report at unit u sets the fault's bit of u, changes no other bit of a UIB_FAULT below its count, and changes no register but
the fault registers of u's chain. -/
theorem raiseFault_regs (s : State) (u b code role : Nat) (addr : Option Nat) (hb : b < 16) :
    (∀ a, (∀ v, v ∈ uibChain u → a ≠ Adr.uibFault v ∧ a ≠ Adr.uibFrecInfo v ∧ a ≠ Adr.uibFrecAddrl v ∧ a ≠ Adr.uibFrecAddrh v) →
      a ≠ Adr.uibFault u → (raiseFault s u b code role addr).reg a = s.reg a) ∧
    ∀ w n, n < 16 → (raiseFault s u b code role addr).flag (Adr.uibFault w) n = (decide (w = u ∧ n = b) || s.flag (Adr.uibFault w) n) := by
  unfold raiseFault
  suffices ∀ (l : List Nat) (t : State), (∀ a, (∀ v, v ∈ l → a ≠ Adr.uibFault v ∧ a ≠ Adr.uibFrecInfo v ∧ a ≠ Adr.uibFrecAddrl v ∧
      a ≠ Adr.uibFrecAddrh v) → (l.foldl (recordFault u b code role addr) t).reg a = t.reg a) ∧
      ∀ w n, n < 16 → (l.foldl (recordFault u b code role addr) t).flag (Adr.uibFault w) n = t.flag (Adr.uibFault w) n by
    have h := this (uibChain u) (s.setFlag (Adr.uibFault u) b true)
    refine ⟨fun a h1 h2 => (h.1 a h1).trans (by rw [State.reg_setFlag, if_neg h2]), fun w n hn => (h.2 w n hn).trans ?_⟩
    show bit ((s.setFlag _ _ _).reg _) n = _
    rw [State.reg_setFlag]
    by_cases hw : w = u
    · subst hw
      rw [if_pos rfl, bit_setBit _ _ _ _ (by omega)]
      by_cases hn' : n = b
      · simp [hn']
      · simp [hn', State.flag]
    · rw [if_neg (by unfold Adr.uibFault uibBase; omega)]
      simp [hw, State.flag]
  intro l
  induction l with
  | nil => exact fun t => ⟨fun _ _ => rfl, fun _ _ _ => rfl⟩
  | cons v l ih =>
    intro t
    rw [List.foldl_cons]
    have h := ih (recordFault u b code role addr t v)
    have g := recordFault_regs u b code role addr t v
    refine ⟨fun a ha => ?_, fun w n hn => (h.2 w n hn).trans (g.2 w n hn)⟩
    have hv := ha v (by simp)
    exact (h.1 a (fun x hx => ha x (by simp [hx]))).trans (g.1 a hv.1 hv.2.1 hv.2.2.1 hv.2.2.2)

/-- The units of a chain are below 251. -/
theorem uibChain_lt (u v : Nat) (h : u < 251) (hv : v ∈ uibChain u) : v < 251 := by
  unfold uibChain at hv
  repeat' split at hv
  all_goals simp at hv; omega

/-- A fault report changes no register of a register block. -/
theorem raiseFault_block (s : State) (u b code role : Nat) (addr : Option Nat) (a : Nat) (hb : b < 16) (hu : u < 251)
    (ha : 0x10004000 ≤ a) : (raiseFault s u b code role addr).reg a = s.reg a := by
  refine (raiseFault_regs s u b code role addr hb).1 a (fun v hv => ?_) ?_
  · have := uibChain_lt u v hu hv
    unfold Adr.uibFault Adr.uibFrecInfo Adr.uibFrecAddrl Adr.uibFrecAddrh uibBase
    omega
  · unfold Adr.uibFault uibBase; omega

end Sys2Proof.Machine
end

