-- ==== Sys2Proof/Laws/Entry.lean ====
section
/-! SUPPORT. What taking an exception and going dark leave: the frame's bytes and tag, the role, and every other role. -/

namespace Sys2Proof.Machine

theorem over_facts (s : State) (r a d : Nat) :
    (overFrame s r a d).mem = s.mem ∧ (∀ k, cwAt (overFrame s r a d) k = cwAt s k) ∧ (∀ k, storeError (overFrame s r a d) k = storeError s k) ∧
    { ((overFrame s r a d).role r) with posted := [] } = { s.role r with posted := [] } ∧ (∀ q, q ≠ r → (overFrame s r a d).role q = s.role q) ∧
    (overFrame s r a d).cores = s.cores ∧ (overFrame s r a d).queues = s.queues ∧ (overFrame s r a d).tags = s.tags := by
  unfold overFrame
  dsimp only
  split
  · refine ⟨rfl, fun _ => rfl, fun _ => rfl, ?_, fun q hq => ?_, rfl, rfl, rfl⟩
    · simp [State.modRole]
    · simp [State.modRole, hq]
  · refine ⟨rfl, fun _ => rfl, fun _ => rfl, ?_, fun q hq => ?_, rfl, rfl, rfl⟩
    · simp [State.modRole]
    · simp [State.modRole, hq]

theorem leBytes_mod (v : Nat) : leBytes 4 v = leBytes 4 (v % 2 ^ 32) := by
  have h : ∀ a b : Nat, a % 256 = b % 256 → BitVec.ofNat 8 a = BitVec.ofNat 8 b := by
    intro a b h; apply BitVec.eq_of_toNat_eq; simpa using h
  simp only [leBytes]
  rw [h v (v % 2 ^ 32) (by omega), h (v / 256) (v % 2 ^ 32 / 256) (by omega), h (v / 256 / 256) (v % 2 ^ 32 / 256 / 256) (by omega), h (v / 256 / 256 / 256) (v % 2 ^ 32 / 256 / 256 / 256) (by omega)]

theorem frameBytes_eq (x : Role) (e : Entry) : frameBytes x e = (frameWords x e).flatMap (leBytes 4) := by
  simp only [frameBytes, frameWords, Entry.info, List.flatMap_cons, List.flatMap_nil, List.append_nil, List.append_assoc]
  rw [leBytes_mod (e.addr.getD 0)]


theorem writeSram_tag (s : State) (dw v mask : Nat) (tag : Bool) (h : regionOf (dw * 8) = .sram) : tagAt (writeSram s dw v mask tag) (dw / 2) = tag := by
  unfold writeSram
  dsimp only
  rw [h]
  dsimp only
  unfold tagAt setTagAt
  exact Sparse.get_put_self _ _ _ _

theorem writeMem_tag (s : State) (keep : Option Nat) (a : Nat) (l : List Byte) (tag : Bool) (ha : a % 16 = 0) (hl : l.length = 16)
    (hr : regionOf (a + 8) = .sram) (hc : inCxl a = false) : tagAt (writeMem s keep a l tag) (a / 16) = tag := by
  unfold writeMem
  dsimp only
  rw [if_neg (by intro h; rw [List.isEmpty_iff] at h; subst h; simp at hl), hl]
  rw [show (a + 16 - 1) / 16 - a / 16 + 1 = 1 by omega, show List.range 1 = [0] from rfl]
  simp only [List.foldl_cons, List.foldl_nil]
  have hm : (List.range 16).foldl (fun m j => if (if (decide (a ≤ (a / 16 + 0) * 16 + j) && decide ((a / 16 + 0) * 16 + j < a + 16)) = true then l[(a / 16 + 0) * 16 + j - a]? else none).isSome then m + 2 ^ j else m) 0 = 0xFFFF := by
    have mk := mask_testBit (fun j => (if (decide (a ≤ (a / 16 + 0) * 16 + j) && decide ((a / 16 + 0) * 16 + j < a + 16)) = true then l[(a / 16 + 0) * 16 + j - a]? else none).isSome) 16
    apply Nat.eq_of_testBit_eq
    intro j
    rw [mk.2 j, show (0xFFFF : Nat) = 2 ^ 16 - 1 by decide, Nat.testBit_two_pow_sub_one]
    by_cases hj : j < 16
    · have e1 : (a / 16 + 0) * 16 + j = a + j := by omega
      simp only [hj, decide_true, Bool.true_and, e1, Nat.le_add_right, show a + j < a + 16 by omega, Bool.and_self, if_true]
      rw [show a + j - a = j by omega, List.getElem?_eq_getElem (by omega)]
      rfl
    · simp [hj]
  rw [hm]
  unfold writeGranule
  dsimp only
  rw [Nat.add_zero, show a / 16 * 16 = a by omega]
  simp only [show 0xFFFF % 256 = 255 from rfl, show 0xFFFF / 256 = 255 from rfl, show ¬ (255 = 0) by decide, if_false]
  have e : ∀ t : State, ∀ v, tagAt (writeSram t (2 * (a / 16) + 1) v 255 tag) (a / 16) = tag := by
    intro t v
    have := writeSram_tag t (2 * (a / 16) + 1) v 255 tag (by rw [show (2 * (a / 16) + 1) * 8 = a + 8 by omega]; exact hr)
    rwa [show (2 * (a / 16) + 1) / 2 = a / 16 by omega] at this
  split
  · rename_i w h
    simp [inCxl, h] at hc
  · exact e _ _

theorem FrameWritten.cached {s t : State} {r : Nat} {e : Entry} (h : FrameWritten s t r e) (c : List CLine) :
    FrameWritten s { t with caches := c } r e :=
  ⟨h.bytes, h.tag, h.kept, h.role, h.others, h.rest⟩

theorem frame_written (s : State) (r : Nat) (e : Entry) (h : CanEnter s r) :
    FrameWritten s (writeFrame (overFrame (s.modRole r landAll) r ((s.role r).tst.addr ((s.role r).rpd * 64)) (s.role r).rpd) r
      ((s.role r).tst.addr ((s.role r).rpd * 64)) (landAll (s.role r)) e) r e := by
  obtain ⟨h1, h2, h3, h4⟩ := h
  generalize ha : (s.role r).tst.addr ((s.role r).rpd * 64) = a at h3 h4
  have hx : (s.modRole r landAll).role r = landAll (s.role r) := by simp [State.modRole]
  obtain ⟨o1, o2, o3, o4, o5, o6, o7, o8⟩ := over_facts (s.modRole r landAll) r a (s.role r).rpd
  generalize ho : overFrame (s.modRole r landAll) r a (s.role r).rpd = o at o1 o2 o3 o4 o5 o6 o7 o8
  have hb : ∀ k, byteAt o k = byteAt s k := by intro k; unfold byteAt; rw [o1]; rfl
  have hno : (List.range 8).any (fun i => !isMemory (a + 8 * i) || storeError o (a + 8 * i)) = false := by
    rw [List.any_eq_false]
    intro i hi
    have := h4 i (List.mem_range.mp hi)
    rw [this.1, o3, show storeError (s.modRole r landAll) (a + 8 * i) = storeError s (a + 8 * i) from rfl, this.2]
    simp
  have hp : Plain o a 64 := fun i hi => ⟨(h3 i hi).1, (h3 i hi).2.1, by rw [o2]; exact (h3 i hi).2.2⟩
  have hT : (landAll (s.role r)).tick 0 = (s.role r).tick 0 := by unfold landAll; split <;> rfl
  unfold writeFrame
  rw [hno]
  simp only [Bool.false_eq_true, if_false]
  refine FrameWritten.cached (t := writeMem (writeMem o (some r) a (frameBytes (landAll (s.role r)) e) false) (some r) (a + 48)
    ((landAll (s.role r)).tick 0).bytes (((landAll (s.role r)).tick 0).tag && a % 16 == 0)) ?_ _
  have l48 : (frameBytes (landAll (s.role r)) e).length = 48 := by simp [frameBytes]
  have l16 : ((s.role r).tick 0).bytes.length = 16 := by simp [Ticket.bytes]
  rw [hT]
  have w1 := writeMem_bytes o (some r) a (frameBytes (landAll (s.role r)) e) false (by rw [l48]; exact fun i hi => hp i (by omega))
  rw [l48] at w1
  have q1 : Quiet o (writeMem o (some r) a (frameBytes (landAll (s.role r)) e) false) := writeMem_quiet (Quiet.refl o)
  generalize hu : writeMem o (some r) a (frameBytes (landAll (s.role r)) e) false = u at w1 q1
  have w2 := writeMem_bytes u (some r) (a + 48) ((s.role r).tick 0).bytes (((s.role r).tick 0).tag && a % 16 == 0) (by
    rw [l16]; intro i hi
    have := hp (48 + i) (by omega)
    rw [← Nat.add_assoc] at this
    exact ⟨this.1, this.2.1, w1.2.1 _ this.2.2⟩)
  rw [l16] at w2
  have q2 : Quiet u (writeMem u (some r) (a + 48) ((s.role r).tick 0).bytes (((s.role r).tick 0).tag && a % 16 == 0)) := writeMem_quiet (Quiet.refl u)
  have hq : ∀ q, ((writeMem u (some r) (a + 48) ((s.role r).tick 0).bytes (((s.role r).tick 0).tag && a % 16 == 0)).role q).quiet = (o.role q).quiet :=
    fun q => (q2.roleq q).trans (q1.roleq q)
  refine ⟨?_, ?_, ?_, ?_, ?_, ?_⟩
  · rw [ha, ← frameBytes_eq]
    apply List.ext_getElem
    · simp [l48]
    · intro i i1 i2
      have hi : i < 64 := by simpa using i1
      simp only [List.getElem_map, List.getElem_range]
      rw [w2.1]
      by_cases h48 : i < 48
      · rw [if_neg (by omega), w1.1, if_pos (by omega), show a + i - a = i by omega, List.getElem_append_left (by omega)]
        rw [List.getD_eq_getElem?_getD, List.getElem?_eq_getElem (by omega)]; rfl
      · rw [if_pos (by omega), List.getElem_append_right (by omega)]
        simp only [l48, show a + i - (a + 48) = i - 48 by omega]
        rw [List.getD_eq_getElem?_getD, List.getElem?_eq_getElem (by omega)]; rfl
  · rw [ha]
    intro h16 hr
    have := writeMem_tag u (some r) (a + 48) ((s.role r).tick 0).bytes (((s.role r).tick 0).tag && a % 16 == 0) (by omega) l16 hr (h3 48 (by omega)).2.1
    rw [show (a + 48) / 16 = a / 16 + 3 by omega] at this
    rw [this, h16]; simp
  · rw [ha]
    intro k hk
    rw [w2.1, if_neg (by omega), w1.1, if_neg (by omega), hb]
  · rw [hq r]
    have := congrArg Role.quiet o4
    rw [hx] at this
    exact this
  · intro q hne
    rw [hq q, o5 q hne]; simp [State.modRole, hne]
  · exact ⟨(q2.2.2.1.trans q1.2.2.1).trans o6, (q2.2.2.2.trans q1.2.2.2).trans o7⟩

theorem trace_facts (s : State) (a b c d : Nat) : (traceRole s a b c d).mem = s.mem ∧ (traceRole s a b c d).tags = s.tags ∧
    (traceRole s a b c d).roles = s.roles ∧ (traceRole s a b c d).cores = s.cores ∧ (traceRole s a b c d).queues = s.queues := by
  unfold traceRole traceRaw
  dsimp only
  repeat' split
  all_goals exact ⟨rfl, rfl, rfl, rfl, rfl⟩

theorem enter_entered (s : State) (r : Nat) (e : Entry) (h : CanEnter s r) : Entered s (enter s r e) r e := by
  have hx : (s.modRole r landAll).role r = landAll (s.role r) := by simp [State.modRole]
  have l1 : (landAll (s.role r)).rpd = (s.role r).rpd ∧ (landAll (s.role r)).tst = (s.role r).tst ∧ (landAll (s.role r)).st = (s.role r).st := by
    unfold landAll; split <;> exact ⟨rfl, rfl, rfl⟩
  have fw := frame_written s r e h
  obtain ⟨h1, h2, h3, h4⟩ := h
  unfold enter
  simp only [hx, l1.1, l1.2.1, l1.2.2]
  rw [if_neg (by omega), h2]
  simp only [Option.isSome_none, Bool.false_eq_true, if_false]
  generalize hc0 : writeFrame _ _ _ _ _ = c0 at fw
  have tf := trace_facts c0 3 3 r (e.vector + e.level * 2 ^ 5 + e.pc.toNat / 4 % 2 ^ 25 * 2 ^ 9)
  generalize traceRole c0 3 3 r _ = c at tf
  obtain ⟨t1, t2, t3, t4, t5⟩ := tf
  have hr : ∀ q, c.role q = c0.role q := by intro q; unfold State.role; rw [t3]
  have hb : ∀ k, byteAt c k = byteAt c0 k := by intro k; unfold byteAt; rw [t1]
  have fc : FrameWritten s c r e := by
    obtain ⟨f1, f2, f3, f4, f5, f6⟩ := fw
    refine ⟨?_, ?_, ?_, ?_, ?_, ?_⟩
    · rw [← f1]; apply List.map_congr_left; intro i _; exact hb _
    · intro a b; rw [← f2 a b]; unfold tagAt; rw [t2]
    · intro k hk; rw [hb, f3 k hk]
    · rw [hr]; exact f4
    · intro q hq; rw [hr]; exact f5 q hq
    · exact ⟨t4.trans f6.1, t5.trans f6.2⟩
  refine ⟨c, setRecFlag c r 9 (recFlag c r 9 && bit (s.role r).st 9), fc, ?_, ?_⟩
  · have hst : (c.role r).st = (s.role r).st := by
      have := congrArg Role.st fc.role
      exact this.trans l1.2.2
    unfold CleanFalls setRecFlag
    split
    · exact .inl rfl
    · rename_i hn
      simp only [Bool.or_eq_true, not_or, Bool.not_eq_true] at hn
      obtain ⟨n1, n2⟩ := hn
      right
      have : recFlag c r 9 = true ∧ bit (s.role r).st 9 = false := by
        revert n2; cases recFlag c r 9 <;> cases bit (s.role r).st 9 <;> simp
      refine ⟨n1, ?_, this.1, ?_⟩
      · show bit (c.role r).st 9 = false
        rw [hst]; exact this.2
      · rw [this.1, this.2]; rfl
  · simp only [State.modRole]

theorem stopRep_none {s : State} {r : Nat} (h : (s.role r).rep = none) : stopRep s r = s := by
  unfold stopRep; simp [h]

theorem abandon_idle {s : State} {r c : Nat} (h : (s.role r).rep = none) (hb : (s.role r).busy = .idle ∨ (s.role r).busy = .waiting) :
    abandonWork s r c = (s, false) := by
  unfold abandonWork
  simp only [h, stopRep_none h]
  rcases hb with hb | hb <;> simp [hb]

theorem freeze_fold (l : List Nat) : ∀ (t : State), (∀ q, q ∈ l → (t.role q).rep = none ∧ ((t.role q).busy = .idle ∨ (t.role q).busy = .waiting)) →
    (∀ q, q ∈ l → (l.foldl freezeRole t).role q = { t.role q with frozen := true, fetchQ := [] }) ∧
    (∀ q, q ∉ l → (l.foldl freezeRole t).role q = t.role q) ∧ (l.foldl freezeRole t).regs = t.regs ∧ (l.foldl freezeRole t).mem = t.mem := by
  induction l with
  | nil => exact fun t _ => ⟨fun q hq => absurd hq (by simp), fun _ _ => rfl, rfl, rfl⟩
  | cons v l ih =>
    intro t h
    rw [List.foldl_cons]
    have hv := h v (by simp)
    have e : freezeRole t v = t.setRole v { t.role v with frozen := true, fetchQ := [] } := by
      unfold freezeRole
      rw [abandon_idle hv.1 hv.2]
      rfl
    rw [e]
    have g := ih (t.setRole v { t.role v with frozen := true, fetchQ := [] }) (fun q hq => by
      by_cases hqv : q = v
      · subst hqv; rw [State.setRole_role_self]; exact hv
      · rw [State.setRole_role_ne _ _ _ _ hqv]; exact h q (by simp [hq]))
    refine ⟨fun q hq => ?_, fun q hq => ?_, g.2.2.1, g.2.2.2⟩
    · by_cases hql : q ∈ l
      · rw [g.1 q hql]
        by_cases hqv : q = v
        · subst hqv; rw [State.setRole_role_self]
        · rw [State.setRole_role_ne _ _ _ _ hqv]
      · rw [g.2.1 q hql]
        have : q = v := by simpa [hql] using hq
        subst this; rw [State.setRole_role_self]
    · simp only [List.mem_cons, not_or] at hq
      rw [g.2.1 q hq.2, State.setRole_role_ne _ _ _ _ hq.1]

theorem own_role (r : RoleId) : r.val ∈ rolesOf (coreOf r.val) := by
  have := r.isLt
  unfold rolesOf coreOf
  split
  · split <;> simp <;> omega
  · split <;> simp <;> omega

theorem dark_darkened (s : State) (r : RoleId) (code addr : Nat)
    (h : ∀ q, q ∈ rolesOf (coreOf r) → (s.role q).rep = none ∧ ((s.role q).busy = .idle ∨ (s.role q).busy = .waiting)) :
    Darkened s (goDark s r code addr) r := by
  obtain ⟨f1, f2, f3, f4⟩ := freeze_fold _ s h
  have hr := own_role r
  have hl : coreOf r.val < 136 := by have := r.isLt; unfold coreOf; split <;> omega
  have hu : uibOf r < 251 := by unfold uibOf uibOfCore; split <;> omega
  unfold goDark raiseRoleFault
  dsimp only
  generalize hz : (rolesOf (coreOf r)).foldl freezeRole s = z at f1 f2 f3 f4
  generalize hy : (if coreOf r < 128 then _ else _ : State) = y
  have y1 : y.mem = s.mem := by rw [← hy, ← f4]; split <;> rfl
  have y2 : ∀ q, y.role q = (z.modRole r (fun x => { x with wentDark := true })).role q := by intro q; rw [← hy]; split <;> rfl
  have hblk : ∀ a, 0x10004000 ≤ a → (raiseFault (y.incField Adr.darkCnt 15 0) (uibOf r) 0 code (roleIn r) (some addr)).reg a = (y.incField Adr.darkCnt 15 0).reg a :=
    fun a ha => raiseFault_block _ _ _ _ _ _ _ (by decide) hu ha
  have hA : ∀ i, 0x10004000 ≤ Adr.darkP i := by intro i; unfold Adr.darkP blockBase; omega
  constructor
  · intro q hq
    rw [raiseFault_role]
    show y.role q = _
    rw [y2]
    by_cases hqr : q = r
    · subst hqr
      rw [State.modRole_role_self, f1 _ hq]; simp
    · rw [State.modRole_role_ne _ _ _ _ hqr, f1 _ hq]; simp [hqr]
  · intro q hq
    rw [raiseFault_role]
    show y.role q = _
    rw [y2, State.modRole_role_ne _ _ _ _ (by intro h; subst h; exact hq hr), f2 q hq]
  · unfold coreDark
    split
    · rename_i hc
      show bit (State.reg _ _) _ = true
      rw [hblk _ (hA _), State.incField_reg_ne _ _ _ _ _ (by unfold Adr.darkP Adr.darkCnt blockBase; omega), ← hy, if_pos hc]
      rw [State.setFlag_reg_self, bit_setBit _ _ _ _ (by omega), if_pos rfl]
    · rename_i hc
      show bit (State.reg _ _) _ = true
      rw [hblk _ (by decide), State.incField_reg_ne _ _ _ _ _ (by decide), ← hy, if_neg hc]
      rw [State.setFlag_reg_self, bit_setBit _ _ _ _ (by omega), if_pos rfl]
  · show bits (State.reg _ _) _ _ = _
    rw [hblk _ (by decide)]
    have := State.field_incField_self y Adr.darkCnt 15 0 (by decide)
    refine this.trans ?_
    have e : y.field Adr.darkCnt 15 0 = s.field Adr.darkCnt 15 0 := by
      show bits (y.reg _) _ _ = bits (s.reg _) _ _
      have : y.reg Adr.darkCnt = s.reg Adr.darkCnt := by
        have e0 : (z.modRole r (fun x => { x with wentDark := true })).reg Adr.darkCnt = s.reg Adr.darkCnt := by
          show Sparse.get _ z.regs _ = _; rw [f3]; rfl
        rw [← e0, ← hy]
        split
        · rw [State.setFlag_reg_ne]; unfold Adr.darkP Adr.darkCnt blockBase; omega
        · rw [State.setFlag_reg_ne]; decide
      rw [this]
    rw [e]
    have : s.field Adr.darkCnt 15 0 < 2 ^ 16 := Nat.mod_lt _ (by decide)
    unfold satInc
    split <;> omega
  · rw [(raiseFault_regs _ _ _ _ _ _ (by decide)).2 _ _ (by decide)]; simp
  · rw [raiseFault_mem]; exact y1

theorem can_mod {v : State} {r : Nat} (f : Role → Role) (h1 : (f (v.role r)).tst = (v.role r).tst) (h2 : (f (v.role r)).stack = (v.role r).stack)
    (h : CanEnter v r) : CanEnter (v.modRole r f) r := by
  have e1 : ((v.modRole r f).role r).tst = (v.role r).tst := by rw [State.modRole_role_self, h1]
  have e2 : ((v.modRole r f).role r).rpd = (v.role r).rpd := by rw [State.modRole_role_self]; unfold Role.rpd; rw [h2]
  unfold CanEnter
  simp only [e1, e2]
  exact h

end Sys2Proof.Machine
end

