-- ==== Sys2Proof/Laws/Keeps.lean ====
section
/-! SUPPORT. What every operation keeps: the queue of waiting commands, and the canonical form of every array. Here the updates of
single parts; the files beside it go through the machine's operations one by one. -/

namespace Sys2Proof.Machine

/-- The queue is p, and every array is canonical. -/
abbrev Keeps (p : List Instr) (s : State) : Prop := s.pending = p ∧ s.Canonical

variable {p : List Instr} {s t : State}

theorem State.setRole_keeps {r : Nat} {x : Role} (h : Keeps p s) : Keeps p (s.setRole r x) :=
  ⟨h.1, h.2.1, h.2.2.1, h.2.2.2.1, h.2.2.2.2.1, h.2.2.2.2.2.1, Sparse.wf_put _ _ _ _ h.2.2.2.2.2.2.1, h.2.2.2.2.2.2.2.1, h.2.2.2.2.2.2.2.2.1, h.2.2.2.2.2.2.2.2.2.1, h.2.2.2.2.2.2.2.2.2.2.1, h.2.2.2.2.2.2.2.2.2.2.2.1, h.2.2.2.2.2.2.2.2.2.2.2.2.1, h.2.2.2.2.2.2.2.2.2.2.2.2.2.1, h.2.2.2.2.2.2.2.2.2.2.2.2.2.2.1, h.2.2.2.2.2.2.2.2.2.2.2.2.2.2.2.1, h.2.2.2.2.2.2.2.2.2.2.2.2.2.2.2.2.1, h.2.2.2.2.2.2.2.2.2.2.2.2.2.2.2.2.2.1, h.2.2.2.2.2.2.2.2.2.2.2.2.2.2.2.2.2.2.1, h.2.2.2.2.2.2.2.2.2.2.2.2.2.2.2.2.2.2.2.1, h.2.2.2.2.2.2.2.2.2.2.2.2.2.2.2.2.2.2.2.2.1, h.2.2.2.2.2.2.2.2.2.2.2.2.2.2.2.2.2.2.2.2.2.1, h.2.2.2.2.2.2.2.2.2.2.2.2.2.2.2.2.2.2.2.2.2.2⟩
theorem State.setScene_keeps {r : Nat} {x : Scene} (h : Keeps p s) : Keeps p (s.setScene r x) :=
  ⟨h.1, h.2.1, h.2.2.1, h.2.2.2.1, h.2.2.2.2.1, h.2.2.2.2.2.1, h.2.2.2.2.2.2.1, Sparse.wf_put _ _ _ _ h.2.2.2.2.2.2.2.1, h.2.2.2.2.2.2.2.2.1, h.2.2.2.2.2.2.2.2.2.1, h.2.2.2.2.2.2.2.2.2.2.1, h.2.2.2.2.2.2.2.2.2.2.2.1, h.2.2.2.2.2.2.2.2.2.2.2.2.1, h.2.2.2.2.2.2.2.2.2.2.2.2.2.1, h.2.2.2.2.2.2.2.2.2.2.2.2.2.2.1, h.2.2.2.2.2.2.2.2.2.2.2.2.2.2.2.1, h.2.2.2.2.2.2.2.2.2.2.2.2.2.2.2.2.1, h.2.2.2.2.2.2.2.2.2.2.2.2.2.2.2.2.2.1, h.2.2.2.2.2.2.2.2.2.2.2.2.2.2.2.2.2.2.1, h.2.2.2.2.2.2.2.2.2.2.2.2.2.2.2.2.2.2.2.1, h.2.2.2.2.2.2.2.2.2.2.2.2.2.2.2.2.2.2.2.2.1, h.2.2.2.2.2.2.2.2.2.2.2.2.2.2.2.2.2.2.2.2.2.1, h.2.2.2.2.2.2.2.2.2.2.2.2.2.2.2.2.2.2.2.2.2.2⟩
theorem State.setCore_keeps {r : Nat} {x : Core} (h : Keeps p s) : Keeps p (s.setCore r x) :=
  ⟨h.1, h.2.1, h.2.2.1, h.2.2.2.1, h.2.2.2.2.1, h.2.2.2.2.2.1, h.2.2.2.2.2.2.1, h.2.2.2.2.2.2.2.1, Sparse.wf_put _ _ _ _ h.2.2.2.2.2.2.2.2.1, h.2.2.2.2.2.2.2.2.2.1, h.2.2.2.2.2.2.2.2.2.2.1, h.2.2.2.2.2.2.2.2.2.2.2.1, h.2.2.2.2.2.2.2.2.2.2.2.2.1, h.2.2.2.2.2.2.2.2.2.2.2.2.2.1, h.2.2.2.2.2.2.2.2.2.2.2.2.2.2.1, h.2.2.2.2.2.2.2.2.2.2.2.2.2.2.2.1, h.2.2.2.2.2.2.2.2.2.2.2.2.2.2.2.2.1, h.2.2.2.2.2.2.2.2.2.2.2.2.2.2.2.2.2.1, h.2.2.2.2.2.2.2.2.2.2.2.2.2.2.2.2.2.2.1, h.2.2.2.2.2.2.2.2.2.2.2.2.2.2.2.2.2.2.2.1, h.2.2.2.2.2.2.2.2.2.2.2.2.2.2.2.2.2.2.2.2.1, h.2.2.2.2.2.2.2.2.2.2.2.2.2.2.2.2.2.2.2.2.2.1, h.2.2.2.2.2.2.2.2.2.2.2.2.2.2.2.2.2.2.2.2.2.2⟩
theorem State.setQueue_keeps {q : Nat} {x : Queue} (h : Keeps p s) : Keeps p (s.setQueue q x) :=
  ⟨h.1, h.2.1, h.2.2.1, h.2.2.2.1, h.2.2.2.2.1, h.2.2.2.2.2.1, h.2.2.2.2.2.2.1, h.2.2.2.2.2.2.2.1, h.2.2.2.2.2.2.2.2.1, h.2.2.2.2.2.2.2.2.2.1, Sparse.wf_put _ _ _ _ h.2.2.2.2.2.2.2.2.2.2.1, h.2.2.2.2.2.2.2.2.2.2.2.1, h.2.2.2.2.2.2.2.2.2.2.2.2.1, h.2.2.2.2.2.2.2.2.2.2.2.2.2.1, h.2.2.2.2.2.2.2.2.2.2.2.2.2.2.1, h.2.2.2.2.2.2.2.2.2.2.2.2.2.2.2.1, h.2.2.2.2.2.2.2.2.2.2.2.2.2.2.2.2.1, h.2.2.2.2.2.2.2.2.2.2.2.2.2.2.2.2.2.1, h.2.2.2.2.2.2.2.2.2.2.2.2.2.2.2.2.2.2.1, h.2.2.2.2.2.2.2.2.2.2.2.2.2.2.2.2.2.2.2.1, h.2.2.2.2.2.2.2.2.2.2.2.2.2.2.2.2.2.2.2.2.1, h.2.2.2.2.2.2.2.2.2.2.2.2.2.2.2.2.2.2.2.2.2.1, h.2.2.2.2.2.2.2.2.2.2.2.2.2.2.2.2.2.2.2.2.2.2⟩
theorem State.setLatch_keeps {i : Nat} {x : Latch} (h : Keeps p s) : Keeps p (s.setLatch i x) :=
  ⟨h.1, h.2.1, h.2.2.1, h.2.2.2.1, h.2.2.2.2.1, h.2.2.2.2.2.1, h.2.2.2.2.2.2.1, h.2.2.2.2.2.2.2.1, h.2.2.2.2.2.2.2.2.1, h.2.2.2.2.2.2.2.2.2.1, h.2.2.2.2.2.2.2.2.2.2.1, Sparse.wf_put _ _ _ _ h.2.2.2.2.2.2.2.2.2.2.2.1, h.2.2.2.2.2.2.2.2.2.2.2.2.1, h.2.2.2.2.2.2.2.2.2.2.2.2.2.1, h.2.2.2.2.2.2.2.2.2.2.2.2.2.2.1, h.2.2.2.2.2.2.2.2.2.2.2.2.2.2.2.1, h.2.2.2.2.2.2.2.2.2.2.2.2.2.2.2.2.1, h.2.2.2.2.2.2.2.2.2.2.2.2.2.2.2.2.2.1, h.2.2.2.2.2.2.2.2.2.2.2.2.2.2.2.2.2.2.1, h.2.2.2.2.2.2.2.2.2.2.2.2.2.2.2.2.2.2.2.1, h.2.2.2.2.2.2.2.2.2.2.2.2.2.2.2.2.2.2.2.2.1, h.2.2.2.2.2.2.2.2.2.2.2.2.2.2.2.2.2.2.2.2.2.1, h.2.2.2.2.2.2.2.2.2.2.2.2.2.2.2.2.2.2.2.2.2.2⟩
theorem State.setStaged_keeps {a : Nat} {x : List Staged} (h : Keeps p s) : Keeps p (s.setStaged a x) :=
  ⟨h.1, h.2.1, h.2.2.1, h.2.2.2.1, h.2.2.2.2.1, h.2.2.2.2.2.1, h.2.2.2.2.2.2.1, h.2.2.2.2.2.2.2.1, h.2.2.2.2.2.2.2.2.1, Sparse.wf_put _ _ _ _ h.2.2.2.2.2.2.2.2.2.1, h.2.2.2.2.2.2.2.2.2.2.1, h.2.2.2.2.2.2.2.2.2.2.2.1, h.2.2.2.2.2.2.2.2.2.2.2.2.1, h.2.2.2.2.2.2.2.2.2.2.2.2.2.1, h.2.2.2.2.2.2.2.2.2.2.2.2.2.2.1, h.2.2.2.2.2.2.2.2.2.2.2.2.2.2.2.1, h.2.2.2.2.2.2.2.2.2.2.2.2.2.2.2.2.1, h.2.2.2.2.2.2.2.2.2.2.2.2.2.2.2.2.2.1, h.2.2.2.2.2.2.2.2.2.2.2.2.2.2.2.2.2.2.1, h.2.2.2.2.2.2.2.2.2.2.2.2.2.2.2.2.2.2.2.1, h.2.2.2.2.2.2.2.2.2.2.2.2.2.2.2.2.2.2.2.2.1, h.2.2.2.2.2.2.2.2.2.2.2.2.2.2.2.2.2.2.2.2.2.1, h.2.2.2.2.2.2.2.2.2.2.2.2.2.2.2.2.2.2.2.2.2.2⟩
theorem State.setWriter_keeps {c : Nat} {x : List CsRec} (h : Keeps p s) : Keeps p (s.setWriter c x) :=
  ⟨h.1, h.2.1, h.2.2.1, h.2.2.2.1, h.2.2.2.2.1, h.2.2.2.2.2.1, h.2.2.2.2.2.2.1, h.2.2.2.2.2.2.2.1, h.2.2.2.2.2.2.2.2.1, h.2.2.2.2.2.2.2.2.2.1, h.2.2.2.2.2.2.2.2.2.2.1, h.2.2.2.2.2.2.2.2.2.2.2.1, Sparse.wf_put _ _ _ _ h.2.2.2.2.2.2.2.2.2.2.2.2.1, h.2.2.2.2.2.2.2.2.2.2.2.2.2.1, h.2.2.2.2.2.2.2.2.2.2.2.2.2.2.1, h.2.2.2.2.2.2.2.2.2.2.2.2.2.2.2.1, h.2.2.2.2.2.2.2.2.2.2.2.2.2.2.2.2.1, h.2.2.2.2.2.2.2.2.2.2.2.2.2.2.2.2.2.1, h.2.2.2.2.2.2.2.2.2.2.2.2.2.2.2.2.2.2.1, h.2.2.2.2.2.2.2.2.2.2.2.2.2.2.2.2.2.2.2.1, h.2.2.2.2.2.2.2.2.2.2.2.2.2.2.2.2.2.2.2.2.1, h.2.2.2.2.2.2.2.2.2.2.2.2.2.2.2.2.2.2.2.2.2.1, h.2.2.2.2.2.2.2.2.2.2.2.2.2.2.2.2.2.2.2.2.2.2⟩
theorem State.setOvf_keeps {k : Nat} {x : Ovf} (h : Keeps p s) : Keeps p (s.setOvf k x) :=
  ⟨h.1, h.2.1, h.2.2.1, h.2.2.2.1, h.2.2.2.2.1, h.2.2.2.2.2.1, h.2.2.2.2.2.2.1, h.2.2.2.2.2.2.2.1, h.2.2.2.2.2.2.2.2.1, h.2.2.2.2.2.2.2.2.2.1, h.2.2.2.2.2.2.2.2.2.2.1, h.2.2.2.2.2.2.2.2.2.2.2.1, h.2.2.2.2.2.2.2.2.2.2.2.2.1, Sparse.wf_put _ _ _ _ h.2.2.2.2.2.2.2.2.2.2.2.2.2.1, h.2.2.2.2.2.2.2.2.2.2.2.2.2.2.1, h.2.2.2.2.2.2.2.2.2.2.2.2.2.2.2.1, h.2.2.2.2.2.2.2.2.2.2.2.2.2.2.2.2.1, h.2.2.2.2.2.2.2.2.2.2.2.2.2.2.2.2.2.1, h.2.2.2.2.2.2.2.2.2.2.2.2.2.2.2.2.2.2.1, h.2.2.2.2.2.2.2.2.2.2.2.2.2.2.2.2.2.2.2.1, h.2.2.2.2.2.2.2.2.2.2.2.2.2.2.2.2.2.2.2.2.1, h.2.2.2.2.2.2.2.2.2.2.2.2.2.2.2.2.2.2.2.2.2.1, h.2.2.2.2.2.2.2.2.2.2.2.2.2.2.2.2.2.2.2.2.2.2⟩
theorem State.setXev_keeps {e : Nat} {x : Xev} (h : Keeps p s) : Keeps p (s.setXev e x) :=
  ⟨h.1, h.2.1, h.2.2.1, h.2.2.2.1, h.2.2.2.2.1, h.2.2.2.2.2.1, h.2.2.2.2.2.2.1, h.2.2.2.2.2.2.2.1, h.2.2.2.2.2.2.2.2.1, h.2.2.2.2.2.2.2.2.2.1, h.2.2.2.2.2.2.2.2.2.2.1, h.2.2.2.2.2.2.2.2.2.2.2.1, h.2.2.2.2.2.2.2.2.2.2.2.2.1, h.2.2.2.2.2.2.2.2.2.2.2.2.2.1, Sparse.wf_put _ _ _ _ h.2.2.2.2.2.2.2.2.2.2.2.2.2.2.1, h.2.2.2.2.2.2.2.2.2.2.2.2.2.2.2.1, h.2.2.2.2.2.2.2.2.2.2.2.2.2.2.2.2.1, h.2.2.2.2.2.2.2.2.2.2.2.2.2.2.2.2.2.1, h.2.2.2.2.2.2.2.2.2.2.2.2.2.2.2.2.2.2.1, h.2.2.2.2.2.2.2.2.2.2.2.2.2.2.2.2.2.2.2.1, h.2.2.2.2.2.2.2.2.2.2.2.2.2.2.2.2.2.2.2.2.1, h.2.2.2.2.2.2.2.2.2.2.2.2.2.2.2.2.2.2.2.2.2.1, h.2.2.2.2.2.2.2.2.2.2.2.2.2.2.2.2.2.2.2.2.2.2⟩
theorem State.setCin_keeps {k : Nat} {x : Option CinAct} (h : Keeps p s) : Keeps p (s.setCin k x) :=
  ⟨h.1, h.2.1, h.2.2.1, h.2.2.2.1, h.2.2.2.2.1, h.2.2.2.2.2.1, h.2.2.2.2.2.2.1, h.2.2.2.2.2.2.2.1, h.2.2.2.2.2.2.2.2.1, h.2.2.2.2.2.2.2.2.2.1, h.2.2.2.2.2.2.2.2.2.2.1, h.2.2.2.2.2.2.2.2.2.2.2.1, h.2.2.2.2.2.2.2.2.2.2.2.2.1, h.2.2.2.2.2.2.2.2.2.2.2.2.2.1, h.2.2.2.2.2.2.2.2.2.2.2.2.2.2.1, Sparse.wf_put _ _ _ _ h.2.2.2.2.2.2.2.2.2.2.2.2.2.2.2.1, h.2.2.2.2.2.2.2.2.2.2.2.2.2.2.2.2.1, h.2.2.2.2.2.2.2.2.2.2.2.2.2.2.2.2.2.1, h.2.2.2.2.2.2.2.2.2.2.2.2.2.2.2.2.2.2.1, h.2.2.2.2.2.2.2.2.2.2.2.2.2.2.2.2.2.2.2.1, h.2.2.2.2.2.2.2.2.2.2.2.2.2.2.2.2.2.2.2.2.1, h.2.2.2.2.2.2.2.2.2.2.2.2.2.2.2.2.2.2.2.2.2.1, h.2.2.2.2.2.2.2.2.2.2.2.2.2.2.2.2.2.2.2.2.2.2⟩
theorem State.setUibIn_keeps {u : Nat} {x : List (BitVec 4)} (h : Keeps p s) : Keeps p (s.setUibIn u x) :=
  ⟨h.1, h.2.1, h.2.2.1, h.2.2.2.1, h.2.2.2.2.1, h.2.2.2.2.2.1, h.2.2.2.2.2.2.1, h.2.2.2.2.2.2.2.1, h.2.2.2.2.2.2.2.2.1, h.2.2.2.2.2.2.2.2.2.1, h.2.2.2.2.2.2.2.2.2.2.1, h.2.2.2.2.2.2.2.2.2.2.2.1, h.2.2.2.2.2.2.2.2.2.2.2.2.1, h.2.2.2.2.2.2.2.2.2.2.2.2.2.1, h.2.2.2.2.2.2.2.2.2.2.2.2.2.2.1, h.2.2.2.2.2.2.2.2.2.2.2.2.2.2.2.1, Sparse.wf_put _ _ _ _ h.2.2.2.2.2.2.2.2.2.2.2.2.2.2.2.2.1, h.2.2.2.2.2.2.2.2.2.2.2.2.2.2.2.2.2.1, h.2.2.2.2.2.2.2.2.2.2.2.2.2.2.2.2.2.2.1, h.2.2.2.2.2.2.2.2.2.2.2.2.2.2.2.2.2.2.2.1, h.2.2.2.2.2.2.2.2.2.2.2.2.2.2.2.2.2.2.2.2.1, h.2.2.2.2.2.2.2.2.2.2.2.2.2.2.2.2.2.2.2.2.2.1, h.2.2.2.2.2.2.2.2.2.2.2.2.2.2.2.2.2.2.2.2.2.2⟩
theorem State.setReg_keeps {a : Nat} {v : Word} (h : Keeps p s) : Keeps p (s.setReg a v) :=
  ⟨h.1, h.2.1, h.2.2.1, h.2.2.2.1, h.2.2.2.2.1, Sparse.wf_put _ _ _ _ h.2.2.2.2.2.1, h.2.2.2.2.2.2.1, h.2.2.2.2.2.2.2.1, h.2.2.2.2.2.2.2.2.1, h.2.2.2.2.2.2.2.2.2.1, h.2.2.2.2.2.2.2.2.2.2.1, h.2.2.2.2.2.2.2.2.2.2.2.1, h.2.2.2.2.2.2.2.2.2.2.2.2.1, h.2.2.2.2.2.2.2.2.2.2.2.2.2.1, h.2.2.2.2.2.2.2.2.2.2.2.2.2.2.1, h.2.2.2.2.2.2.2.2.2.2.2.2.2.2.2.1, h.2.2.2.2.2.2.2.2.2.2.2.2.2.2.2.2.1, h.2.2.2.2.2.2.2.2.2.2.2.2.2.2.2.2.2.1, h.2.2.2.2.2.2.2.2.2.2.2.2.2.2.2.2.2.2.1, h.2.2.2.2.2.2.2.2.2.2.2.2.2.2.2.2.2.2.2.1, h.2.2.2.2.2.2.2.2.2.2.2.2.2.2.2.2.2.2.2.2.1, h.2.2.2.2.2.2.2.2.2.2.2.2.2.2.2.2.2.2.2.2.2.1, h.2.2.2.2.2.2.2.2.2.2.2.2.2.2.2.2.2.2.2.2.2.2⟩
theorem setByteAt_keeps {k : Nat} {b : Byte} (h : Keeps p s) : Keeps p (setByteAt s k b) :=
  ⟨h.1, Sparse.wf_put _ _ _ _ h.2.1, h.2.2.1, h.2.2.2.1, h.2.2.2.2.1, h.2.2.2.2.2.1, h.2.2.2.2.2.2.1, h.2.2.2.2.2.2.2.1, h.2.2.2.2.2.2.2.2.1, h.2.2.2.2.2.2.2.2.2.1, h.2.2.2.2.2.2.2.2.2.2.1, h.2.2.2.2.2.2.2.2.2.2.2.1, h.2.2.2.2.2.2.2.2.2.2.2.2.1, h.2.2.2.2.2.2.2.2.2.2.2.2.2.1, h.2.2.2.2.2.2.2.2.2.2.2.2.2.2.1, h.2.2.2.2.2.2.2.2.2.2.2.2.2.2.2.1, h.2.2.2.2.2.2.2.2.2.2.2.2.2.2.2.2.1, h.2.2.2.2.2.2.2.2.2.2.2.2.2.2.2.2.2.1, h.2.2.2.2.2.2.2.2.2.2.2.2.2.2.2.2.2.2.1, h.2.2.2.2.2.2.2.2.2.2.2.2.2.2.2.2.2.2.2.1, h.2.2.2.2.2.2.2.2.2.2.2.2.2.2.2.2.2.2.2.2.1, h.2.2.2.2.2.2.2.2.2.2.2.2.2.2.2.2.2.2.2.2.2.1, h.2.2.2.2.2.2.2.2.2.2.2.2.2.2.2.2.2.2.2.2.2.2⟩
theorem setTagAt_keeps {g : Nat} {b : Bool} (h : Keeps p s) : Keeps p (setTagAt s g b) :=
  ⟨h.1, h.2.1, Sparse.wf_put _ _ g b h.2.2.1, Sparse.wf_put _ _ g false h.2.2.2.1, h.2.2.2.2.1, h.2.2.2.2.2.1, h.2.2.2.2.2.2.1, h.2.2.2.2.2.2.2.1, h.2.2.2.2.2.2.2.2.1, h.2.2.2.2.2.2.2.2.2.1, h.2.2.2.2.2.2.2.2.2.2.1, h.2.2.2.2.2.2.2.2.2.2.2.1, h.2.2.2.2.2.2.2.2.2.2.2.2.1, h.2.2.2.2.2.2.2.2.2.2.2.2.2.1, h.2.2.2.2.2.2.2.2.2.2.2.2.2.2.1, h.2.2.2.2.2.2.2.2.2.2.2.2.2.2.2.1, h.2.2.2.2.2.2.2.2.2.2.2.2.2.2.2.2.1, h.2.2.2.2.2.2.2.2.2.2.2.2.2.2.2.2.2.1, h.2.2.2.2.2.2.2.2.2.2.2.2.2.2.2.2.2.2.1, h.2.2.2.2.2.2.2.2.2.2.2.2.2.2.2.2.2.2.2.1, h.2.2.2.2.2.2.2.2.2.2.2.2.2.2.2.2.2.2.2.2.1, h.2.2.2.2.2.2.2.2.2.2.2.2.2.2.2.2.2.2.2.2.2.1, h.2.2.2.2.2.2.2.2.2.2.2.2.2.2.2.2.2.2.2.2.2.2⟩
theorem setCwAt_keeps {k : Nat} {c : Cw} (h : Keeps p s) : Keeps p (setCwAt s k c) :=
  ⟨h.1, h.2.1, h.2.2.1, h.2.2.2.1, Sparse.wf_put _ _ _ _ h.2.2.2.2.1, h.2.2.2.2.2.1, h.2.2.2.2.2.2.1, h.2.2.2.2.2.2.2.1, h.2.2.2.2.2.2.2.2.1, h.2.2.2.2.2.2.2.2.2.1, h.2.2.2.2.2.2.2.2.2.2.1, h.2.2.2.2.2.2.2.2.2.2.2.1, h.2.2.2.2.2.2.2.2.2.2.2.2.1, h.2.2.2.2.2.2.2.2.2.2.2.2.2.1, h.2.2.2.2.2.2.2.2.2.2.2.2.2.2.1, h.2.2.2.2.2.2.2.2.2.2.2.2.2.2.2.1, h.2.2.2.2.2.2.2.2.2.2.2.2.2.2.2.2.1, h.2.2.2.2.2.2.2.2.2.2.2.2.2.2.2.2.2.1, h.2.2.2.2.2.2.2.2.2.2.2.2.2.2.2.2.2.2.1, h.2.2.2.2.2.2.2.2.2.2.2.2.2.2.2.2.2.2.2.1, h.2.2.2.2.2.2.2.2.2.2.2.2.2.2.2.2.2.2.2.2.1, h.2.2.2.2.2.2.2.2.2.2.2.2.2.2.2.2.2.2.2.2.2.1, h.2.2.2.2.2.2.2.2.2.2.2.2.2.2.2.2.2.2.2.2.2.2⟩
theorem setHc_keeps {k : Nat} {x : Hc} (h : Keeps p s) : Keeps p (setHc s k x) :=
  ⟨h.1, h.2.1, h.2.2.1, h.2.2.2.1, h.2.2.2.2.1, h.2.2.2.2.2.1, h.2.2.2.2.2.2.1, h.2.2.2.2.2.2.2.1, h.2.2.2.2.2.2.2.2.1, h.2.2.2.2.2.2.2.2.2.1, h.2.2.2.2.2.2.2.2.2.2.1, h.2.2.2.2.2.2.2.2.2.2.2.1, h.2.2.2.2.2.2.2.2.2.2.2.2.1, h.2.2.2.2.2.2.2.2.2.2.2.2.2.1, h.2.2.2.2.2.2.2.2.2.2.2.2.2.2.1, h.2.2.2.2.2.2.2.2.2.2.2.2.2.2.2.1, h.2.2.2.2.2.2.2.2.2.2.2.2.2.2.2.2.1, Sparse.wf_put _ _ _ _ h.2.2.2.2.2.2.2.2.2.2.2.2.2.2.2.2.2.1, h.2.2.2.2.2.2.2.2.2.2.2.2.2.2.2.2.2.2.1, h.2.2.2.2.2.2.2.2.2.2.2.2.2.2.2.2.2.2.2.1, h.2.2.2.2.2.2.2.2.2.2.2.2.2.2.2.2.2.2.2.2.1, h.2.2.2.2.2.2.2.2.2.2.2.2.2.2.2.2.2.2.2.2.2.1, h.2.2.2.2.2.2.2.2.2.2.2.2.2.2.2.2.2.2.2.2.2.2⟩
theorem setSer_keeps {k : Nat} {x : SerCh} (h : Keeps p s) : Keeps p (setSer s k x) :=
  ⟨h.1, h.2.1, h.2.2.1, h.2.2.2.1, h.2.2.2.2.1, h.2.2.2.2.2.1, h.2.2.2.2.2.2.1, h.2.2.2.2.2.2.2.1, h.2.2.2.2.2.2.2.2.1, h.2.2.2.2.2.2.2.2.2.1, h.2.2.2.2.2.2.2.2.2.2.1, h.2.2.2.2.2.2.2.2.2.2.2.1, h.2.2.2.2.2.2.2.2.2.2.2.2.1, h.2.2.2.2.2.2.2.2.2.2.2.2.2.1, h.2.2.2.2.2.2.2.2.2.2.2.2.2.2.1, h.2.2.2.2.2.2.2.2.2.2.2.2.2.2.2.1, h.2.2.2.2.2.2.2.2.2.2.2.2.2.2.2.2.1, h.2.2.2.2.2.2.2.2.2.2.2.2.2.2.2.2.2.1, h.2.2.2.2.2.2.2.2.2.2.2.2.2.2.2.2.2.2.1, Sparse.wf_put _ _ _ _ h.2.2.2.2.2.2.2.2.2.2.2.2.2.2.2.2.2.2.2.1, h.2.2.2.2.2.2.2.2.2.2.2.2.2.2.2.2.2.2.2.2.1, h.2.2.2.2.2.2.2.2.2.2.2.2.2.2.2.2.2.2.2.2.2.1, h.2.2.2.2.2.2.2.2.2.2.2.2.2.2.2.2.2.2.2.2.2.2⟩
theorem setPulse_keeps {k : Nat} {x : PulseU} (h : Keeps p s) : Keeps p (setPulse s k x) :=
  ⟨h.1, h.2.1, h.2.2.1, h.2.2.2.1, h.2.2.2.2.1, h.2.2.2.2.2.1, h.2.2.2.2.2.2.1, h.2.2.2.2.2.2.2.1, h.2.2.2.2.2.2.2.2.1, h.2.2.2.2.2.2.2.2.2.1, h.2.2.2.2.2.2.2.2.2.2.1, h.2.2.2.2.2.2.2.2.2.2.2.1, h.2.2.2.2.2.2.2.2.2.2.2.2.1, h.2.2.2.2.2.2.2.2.2.2.2.2.2.1, h.2.2.2.2.2.2.2.2.2.2.2.2.2.2.1, h.2.2.2.2.2.2.2.2.2.2.2.2.2.2.2.1, h.2.2.2.2.2.2.2.2.2.2.2.2.2.2.2.2.1, h.2.2.2.2.2.2.2.2.2.2.2.2.2.2.2.2.2.1, h.2.2.2.2.2.2.2.2.2.2.2.2.2.2.2.2.2.2.1, h.2.2.2.2.2.2.2.2.2.2.2.2.2.2.2.2.2.2.2.1, Sparse.wf_put _ _ _ _ h.2.2.2.2.2.2.2.2.2.2.2.2.2.2.2.2.2.2.2.2.1, h.2.2.2.2.2.2.2.2.2.2.2.2.2.2.2.2.2.2.2.2.2.1, h.2.2.2.2.2.2.2.2.2.2.2.2.2.2.2.2.2.2.2.2.2.2⟩
theorem setAdc_keeps {k : Nat} {x : AdcSt} (h : Keeps p s) : Keeps p (setAdc s k x) :=
  ⟨h.1, h.2.1, h.2.2.1, h.2.2.2.1, h.2.2.2.2.1, h.2.2.2.2.2.1, h.2.2.2.2.2.2.1, h.2.2.2.2.2.2.2.1, h.2.2.2.2.2.2.2.2.1, h.2.2.2.2.2.2.2.2.2.1, h.2.2.2.2.2.2.2.2.2.2.1, h.2.2.2.2.2.2.2.2.2.2.2.1, h.2.2.2.2.2.2.2.2.2.2.2.2.1, h.2.2.2.2.2.2.2.2.2.2.2.2.2.1, h.2.2.2.2.2.2.2.2.2.2.2.2.2.2.1, h.2.2.2.2.2.2.2.2.2.2.2.2.2.2.2.1, h.2.2.2.2.2.2.2.2.2.2.2.2.2.2.2.2.1, h.2.2.2.2.2.2.2.2.2.2.2.2.2.2.2.2.2.1, h.2.2.2.2.2.2.2.2.2.2.2.2.2.2.2.2.2.2.1, h.2.2.2.2.2.2.2.2.2.2.2.2.2.2.2.2.2.2.2.1, h.2.2.2.2.2.2.2.2.2.2.2.2.2.2.2.2.2.2.2.2.1, Sparse.wf_put _ _ _ _ h.2.2.2.2.2.2.2.2.2.2.2.2.2.2.2.2.2.2.2.2.2.1, h.2.2.2.2.2.2.2.2.2.2.2.2.2.2.2.2.2.2.2.2.2.2⟩
theorem State.modRole_keeps {r : Nat} {f : Role → Role} (h : Keeps p s) : Keeps p (s.modRole r f) := State.setRole_keeps h
theorem State.setField_keeps {a hi lo v : Nat} (h : Keeps p s) : Keeps p (s.setField a hi lo v) := State.setReg_keeps h
theorem State.setFlag_keeps {a n : Nat} {b : Bool} (h : Keeps p s) : Keeps p (s.setFlag a n b) := State.setReg_keeps h
theorem State.incField_keeps {a hi lo : Nat} (h : Keeps p s) : Keeps p (s.incField a hi lo) := State.setReg_keeps h
theorem State.fresh_keeps (h : Keeps p s) : Keeps p s.fresh.1 := h

theorem Keeps.ofMk {x_pending} {x_freeNext} {x_mem} {x_tags} {x_tagBad} {x_cw} {x_fixQ} {x_regs} {x_roles} {x_scenes} {x_cores} {x_staging}
    {x_queues} {x_latches} {x_writers} {x_ovf} {x_caches} {x_xev} {x_cin} {x_uibIn} {x_log} {x_trace} {x_cxl} {x_hcFail}
    {x_hc} {x_heldW} {x_ser} {x_pulse} {x_adc} {x_padLatch} {x_vioOff} {x_scrub} {x_sm} {x_boot} {x_tap} {x_metro} {x_time}
    (h : x_pending = p ∧ Memory.wf x_mem = true ∧ Sparse.wf (fun _ => false) x_tags = true ∧ Sparse.wf (fun _ => false) x_tagBad
      = true ∧ Sparse.wf (fun _ => Cw.clean) x_cw = true ∧ Sparse.wf regReset x_regs = true ∧ Sparse.wf (fun _ => Role.reset)
      x_roles = true ∧ Sparse.wf (fun _ => Scene.reset) x_scenes = true ∧ Sparse.wf (fun _ => Core.reset) x_cores = true ∧
      Sparse.wf (fun _ => []) x_staging = true ∧ Sparse.wf (fun _ => Queue.reset) x_queues = true ∧ Sparse.wf (fun _ =>
      Latch.reset) x_latches = true ∧ Sparse.wf (fun _ => []) x_writers = true ∧ Sparse.wf (fun _ => Ovf.reset) x_ovf = true ∧
      Sparse.wf (fun _ => Xev.reset) x_xev = true ∧ Sparse.wf (fun _ => none) x_cin = true ∧ Sparse.wf (fun _ => []) x_uibIn =
      true ∧ Sparse.wf (fun _ => Hc.reset) x_hc = true ∧ Sparse.wf (fun _ => none) x_heldW = true ∧ Sparse.wf (fun _ =>
      SerCh.reset) x_ser = true ∧ Sparse.wf (fun _ => PulseU.reset) x_pulse = true ∧ Sparse.wf (fun _ => AdcSt.reset) x_adc =
      true ∧ Sparse.wf (fun _ => PadShow.hiz) x_padLatch = true) :
    Keeps p (State.mk x_pending x_freeNext x_mem x_tags x_tagBad x_cw x_fixQ x_regs x_roles x_scenes x_cores x_staging x_queues x_latches
      x_writers x_ovf x_caches x_xev x_cin x_uibIn x_log x_trace x_cxl x_hcFail x_hc x_heldW x_ser x_pulse x_adc x_padLatch
      x_vioOff x_scrub x_sm x_boot x_tap x_metro x_time) := h

theorem Keeps.ofMkId (h : Keeps p s) :
    s.pending = p ∧ Memory.wf s.mem = true ∧ Sparse.wf (fun _ => false) s.tags = true ∧ Sparse.wf (fun _ => false) s.tagBad
      = true ∧ Sparse.wf (fun _ => Cw.clean) s.cw = true ∧ Sparse.wf regReset s.regs = true ∧ Sparse.wf (fun _ => Role.reset)
      s.roles = true ∧ Sparse.wf (fun _ => Scene.reset) s.scenes = true ∧ Sparse.wf (fun _ => Core.reset) s.cores = true ∧
      Sparse.wf (fun _ => []) s.staging = true ∧ Sparse.wf (fun _ => Queue.reset) s.queues = true ∧ Sparse.wf (fun _ =>
      Latch.reset) s.latches = true ∧ Sparse.wf (fun _ => []) s.writers = true ∧ Sparse.wf (fun _ => Ovf.reset) s.ovf = true ∧
      Sparse.wf (fun _ => Xev.reset) s.xev = true ∧ Sparse.wf (fun _ => none) s.cin = true ∧ Sparse.wf (fun _ => []) s.uibIn =
      true ∧ Sparse.wf (fun _ => Hc.reset) s.hc = true ∧ Sparse.wf (fun _ => none) s.heldW = true ∧ Sparse.wf (fun _ =>
      SerCh.reset) s.ser = true ∧ Sparse.wf (fun _ => PulseU.reset) s.pulse = true ∧ Sparse.wf (fun _ => AdcSt.reset) s.adc =
      true ∧ Sparse.wf (fun _ => PadShow.hiz) s.padLatch = true := h

/-- The same of the state in an optional result, in an optional pair, and in a result that may be an error. -/
abbrev KeepsO (p : List Instr) (o : Option State) : Prop := ∀ t, o = some t → Keeps p t
abbrev KeepsOP {α : Type} (p : List Instr) (o : Option (State × α)) : Prop := ∀ t x, o = some (t, x) → Keeps p t
abbrev KeepsE {ε : Type} (p : List Instr) (o : Except ε State) : Prop := ∀ t, o = .ok t → Keeps p t

theorem KeepsO.none : KeepsO p Option.none := fun _ e => nomatch e
theorem KeepsO.some (h : Keeps p s) : KeepsO p (Option.some s) := fun _ e => Option.some.inj e ▸ h
theorem KeepsOP.none {α : Type} : KeepsOP p (Option.none : Option (State × α)) := fun _ _ e => nomatch e
theorem KeepsOP.some {α : Type} {x : State × α} (h : Keeps p x.1) : KeepsOP p (Option.some x) := fun t y e => by
  cases Option.some.inj e; exact h
theorem KeepsE.error {ε : Type} {e : ε} : KeepsE p (Except.error e) := fun _ e => nomatch e
theorem KeepsE.ok {ε : Type} (h : Keeps p s) : KeepsE (ε := ε) p (Except.ok s) := fun _ e => Except.ok.inj e ▸ h

theorem KeepsO.get {o : Option State} (h : KeepsO p o) (e : o = Option.some t) : Keeps p t := h t e
theorem KeepsOP.get {α : Type} {o : Option (State × α)} {x : α} (h : KeepsOP p o) (e : o = Option.some (t, x)) : Keeps p t := h t x e
theorem KeepsE.get {ε : Type} {o : Except ε State} (h : KeepsE p o) (e : o = Except.ok t) : Keeps p t := h t e
theorem Keeps.ite {c : Prop} [Decidable c] (hs : Keeps p s) (ht : Keeps p t) : Keeps p (if c then s else t) := by
  split
  · exact hs
  · exact ht
theorem Keeps.iteFst {α : Type} {c : Prop} [Decidable c] {x y : State × α} (hs : Keeps p x.1) (ht : Keeps p y.1) :
    Keeps p (if c then x else y).1 := by
  split
  · exact hs
  · exact ht
theorem KeepsO.ite {c : Prop} [Decidable c] {x y : Option State} (hs : KeepsO p x) (ht : KeepsO p y) :
    KeepsO p (if c then x else y) := by
  split
  · exact hs
  · exact ht
theorem KeepsOP.ite {α : Type} {c : Prop} [Decidable c] {x y : Option (State × α)} (hs : KeepsOP p x) (ht : KeepsOP p y) :
    KeepsOP p (if c then x else y) := by
  split
  · exact hs
  · exact ht
theorem KeepsE.ite {ε : Type} {c : Prop} [Decidable c] {x y : Except ε State} (hs : KeepsE p x) (ht : KeepsE p y) :
    KeepsE p (if c then x else y) := by
  split
  · exact hs
  · exact ht
theorem KeepsO.map {α : Type} {o : Option α} {f : α → State} (h : ∀ x, Keeps p (f x)) : KeepsO p (o.map f) := by
  cases o with
  | none => exact KeepsO.none
  | some x => exact KeepsO.some (h x)
theorem KeepsO.bind {o : Option State} {f : State → Option State} (hf : ∀ s, Keeps p s → KeepsO p (f s)) (h : KeepsO p o) :
    KeepsO p (o.bind f) := by
  cases o with
  | none => exact KeepsO.none
  | some s => exact hf s (h s rfl)
theorem KeepsO.foldlBind {β : Type} {f : State → β → Option State} {l : List β} {o : Option State}
    (hf : ∀ s x, Keeps p s → KeepsO p (f s x)) (h : KeepsO p o) :
    KeepsO p (l.foldl (fun o x => o.bind (fun s => f s x)) o) := by
  induction l generalizing o with
  | nil => exact h
  | cons x l ih => exact ih (KeepsO.bind (fun s hs => hf s x hs) h)

/-- An update of any parts, each array of which stays canonical. -/
theorem Keeps.upd {s t : State} (h : Keeps p s) (e : t.pending = s.pending := by rfl)
    (w0 : Memory.wf s.mem = true → Memory.wf t.mem = true := by first | exact id | exact Sparse.wf_filter _ _ _ | exact Sparse.wf_put _ _ _ _ | exact fun _ => rfl)
    (w1 : Sparse.wf (fun _ => false) s.tags = true → Sparse.wf (fun _ => false) t.tags = true := by first | exact id | exact Sparse.wf_filter _ _ _ | exact Sparse.wf_put _ _ _ _ | exact fun _ => rfl)
    (w2 : Sparse.wf (fun _ => false) s.tagBad = true → Sparse.wf (fun _ => false) t.tagBad = true := by first | exact id | exact Sparse.wf_filter _ _ _ | exact Sparse.wf_put _ _ _ _ | exact fun _ => rfl)
    (w3 : Sparse.wf (fun _ => Cw.clean) s.cw = true → Sparse.wf (fun _ => Cw.clean) t.cw = true := by first | exact id | exact Sparse.wf_filter _ _ _ | exact Sparse.wf_put _ _ _ _ | exact fun _ => rfl)
    (w4 : Sparse.wf regReset s.regs = true → Sparse.wf regReset t.regs = true := by first | exact id | exact Sparse.wf_filter _ _ _ | exact Sparse.wf_put _ _ _ _ | exact fun _ => rfl)
    (w5 : Sparse.wf (fun _ => Role.reset) s.roles = true → Sparse.wf (fun _ => Role.reset) t.roles = true := by first | exact id | exact Sparse.wf_filter _ _ _ | exact Sparse.wf_put _ _ _ _ | exact fun _ => rfl)
    (w6 : Sparse.wf (fun _ => Scene.reset) s.scenes = true → Sparse.wf (fun _ => Scene.reset) t.scenes = true := by first | exact id | exact Sparse.wf_filter _ _ _ | exact Sparse.wf_put _ _ _ _ | exact fun _ => rfl)
    (w7 : Sparse.wf (fun _ => Core.reset) s.cores = true → Sparse.wf (fun _ => Core.reset) t.cores = true := by first | exact id | exact Sparse.wf_filter _ _ _ | exact Sparse.wf_put _ _ _ _ | exact fun _ => rfl)
    (w8 : Sparse.wf (fun _ => []) s.staging = true → Sparse.wf (fun _ => []) t.staging = true := by first | exact id | exact Sparse.wf_filter _ _ _ | exact Sparse.wf_put _ _ _ _ | exact fun _ => rfl)
    (w9 : Sparse.wf (fun _ => Queue.reset) s.queues = true → Sparse.wf (fun _ => Queue.reset) t.queues = true := by first | exact id | exact Sparse.wf_filter _ _ _ | exact Sparse.wf_put _ _ _ _ | exact fun _ => rfl)
    (w10 : Sparse.wf (fun _ => Latch.reset) s.latches = true → Sparse.wf (fun _ => Latch.reset) t.latches = true := by first | exact id | exact Sparse.wf_filter _ _ _ | exact Sparse.wf_put _ _ _ _ | exact fun _ => rfl)
    (w11 : Sparse.wf (fun _ => []) s.writers = true → Sparse.wf (fun _ => []) t.writers = true := by first | exact id | exact Sparse.wf_filter _ _ _ | exact Sparse.wf_put _ _ _ _ | exact fun _ => rfl)
    (w12 : Sparse.wf (fun _ => Ovf.reset) s.ovf = true → Sparse.wf (fun _ => Ovf.reset) t.ovf = true := by first | exact id | exact Sparse.wf_filter _ _ _ | exact Sparse.wf_put _ _ _ _ | exact fun _ => rfl)
    (w13 : Sparse.wf (fun _ => Xev.reset) s.xev = true → Sparse.wf (fun _ => Xev.reset) t.xev = true := by first | exact id | exact Sparse.wf_filter _ _ _ | exact Sparse.wf_put _ _ _ _ | exact fun _ => rfl)
    (w14 : Sparse.wf (fun _ => none) s.cin = true → Sparse.wf (fun _ => none) t.cin = true := by first | exact id | exact Sparse.wf_filter _ _ _ | exact Sparse.wf_put _ _ _ _ | exact fun _ => rfl)
    (w15 : Sparse.wf (fun _ => []) s.uibIn = true → Sparse.wf (fun _ => []) t.uibIn = true := by first | exact id | exact Sparse.wf_filter _ _ _ | exact Sparse.wf_put _ _ _ _ | exact fun _ => rfl)
    (w16 : Sparse.wf (fun _ => Hc.reset) s.hc = true → Sparse.wf (fun _ => Hc.reset) t.hc = true := by first | exact id | exact Sparse.wf_filter _ _ _ | exact Sparse.wf_put _ _ _ _ | exact fun _ => rfl)
    (w17 : Sparse.wf (fun _ => none) s.heldW = true → Sparse.wf (fun _ => none) t.heldW = true := by first | exact id | exact Sparse.wf_filter _ _ _ | exact Sparse.wf_put _ _ _ _ | exact fun _ => rfl)
    (w18 : Sparse.wf (fun _ => SerCh.reset) s.ser = true → Sparse.wf (fun _ => SerCh.reset) t.ser = true := by first | exact id | exact Sparse.wf_filter _ _ _ | exact Sparse.wf_put _ _ _ _ | exact fun _ => rfl)
    (w19 : Sparse.wf (fun _ => PulseU.reset) s.pulse = true → Sparse.wf (fun _ => PulseU.reset) t.pulse = true := by first | exact id | exact Sparse.wf_filter _ _ _ | exact Sparse.wf_put _ _ _ _ | exact fun _ => rfl)
    (w20 : Sparse.wf (fun _ => AdcSt.reset) s.adc = true → Sparse.wf (fun _ => AdcSt.reset) t.adc = true := by first | exact id | exact Sparse.wf_filter _ _ _ | exact Sparse.wf_put _ _ _ _ | exact fun _ => rfl)
    (w21 : Sparse.wf (fun _ => PadShow.hiz) s.padLatch = true → Sparse.wf (fun _ => PadShow.hiz) t.padLatch = true := by first | exact id | exact Sparse.wf_filter _ _ _ | exact Sparse.wf_put _ _ _ _ | exact fun _ => rfl)
    : Keeps p t :=
  ⟨e.trans h.1, w0 (h.2.1), w1 (h.2.2.1), w2 (h.2.2.2.1), w3 (h.2.2.2.2.1), w4 (h.2.2.2.2.2.1), w5 (h.2.2.2.2.2.2.1), w6 (h.2.2.2.2.2.2.2.1), w7 (h.2.2.2.2.2.2.2.2.1), w8 (h.2.2.2.2.2.2.2.2.2.1), w9 (h.2.2.2.2.2.2.2.2.2.2.1), w10 (h.2.2.2.2.2.2.2.2.2.2.2.1), w11 (h.2.2.2.2.2.2.2.2.2.2.2.2.1), w12 (h.2.2.2.2.2.2.2.2.2.2.2.2.2.1), w13 (h.2.2.2.2.2.2.2.2.2.2.2.2.2.2.1), w14 (h.2.2.2.2.2.2.2.2.2.2.2.2.2.2.2.1), w15 (h.2.2.2.2.2.2.2.2.2.2.2.2.2.2.2.2.1), w16 (h.2.2.2.2.2.2.2.2.2.2.2.2.2.2.2.2.2.1), w17 (h.2.2.2.2.2.2.2.2.2.2.2.2.2.2.2.2.2.2.1), w18 (h.2.2.2.2.2.2.2.2.2.2.2.2.2.2.2.2.2.2.2.1), w19 (h.2.2.2.2.2.2.2.2.2.2.2.2.2.2.2.2.2.2.2.2.1), w20 (h.2.2.2.2.2.2.2.2.2.2.2.2.2.2.2.2.2.2.2.2.2.1), w21 (h.2.2.2.2.2.2.2.2.2.2.2.2.2.2.2.2.2.2.2.2.2.2)⟩

theorem Keeps.ofPair {α : Type} {x : State × α} {t : State} {v : α} (e : x = (t, v)) (h : Keeps p x.1) : Keeps p t := by
  subst e; exact h
theorem Keeps.ofEq {α : Type} {x y : State × α} (e : x = y) (h : Keeps p x.1) : Keeps p y.1 := e ▸ h
theorem Keeps.ofFst {α : Type} {v : α} (h : Keeps p s) : Keeps p (s, v).1 := h
theorem Keeps.ofGetD {o : Option State} (h : Keeps p s) (ho : ∀ t, o = some t → Keeps p t) : Keeps p (o.getD s) := by
  cases o with
  | none => exact h
  | some t => exact ho t rfl
theorem Keeps.foldl {β : Type} {f : State → β → State} {l : List β} (hf : ∀ s x, Keeps p s → Keeps p (f s x)) (h : Keeps p s) :
    Keeps p (l.foldl f s) := by
  induction l generalizing s with
  | nil => exact h
  | cons x l ih => exact ih (hf s x h)
theorem Keeps.foldlFst {α β : Type} {f : State × α → β → State × α} {l : List β} {a : State × α}
    (hf : ∀ a x, Keeps p a.1 → Keeps p (f a x).1) (h : Keeps p a.1) : Keeps p (l.foldl f a).1 := by
  induction l generalizing a with
  | nil => exact h
  | cons x l ih => exact ih (hf a x h)

end Sys2Proof.Machine
end

