-- ==== Sys2Proof/Laws/Record.lean ====
section
/-! SUPPORT. Laws of the scene record (R325): its region, its words and flags after a write, and what a restoration leaves. -/

namespace Sys2Proof.Machine

/-- The prompt-book window. -/
theorem region_book (a : Nat) (h1 : 0x4000000 ≤ a) (h2 : a < 0x4100000) : regionOf a = .book ((a - 0x4000000) / 0x2000) := by
  unfold regionOf
  have n0 : ¬ a < 0x400000 := by omega
  have n1 : ¬ a < 0x1000000 := by omega
  have n2 : ¬ a < 0x3000000 := by omega
  have n3 : ¬ a < 0x3400000 := by omega
  have n4 : ¬ a < 0x4000000 := by omega
  rw [if_neg n0, if_neg n1, if_neg n2, if_neg n3, if_neg n4, if_pos h2]

/-- A player role's scene record lies in its core's prompt book. -/
theorem region_record (r k : Nat) (hr : r < 512) (hk : k < 0x800) : regionOf (recordBase r + k) = .book (r / 4) := by
  have h : recordBase r + k = 0x4000000 + (r / 4 * 0x2000 + r % 4 * 0x800 + k) := by
    unfold recordBase; simp only [Nat.add_assoc]
  have h1 : r / 4 * 0x2000 + r % 4 * 0x800 + k < 0x100000 := by omega
  have h2 : (r / 4 * 0x2000 + r % 4 * 0x800 + k) / 0x2000 = r / 4 := by omega
  rw [h]
  generalize r / 4 * 0x2000 + r % 4 * 0x800 + k = j at h1 h2
  rw [region_book _ (by omega) (by omega), show 0x4000000 + j - 0x4000000 = j by omega, h2]

theorem record_onChip (r k : Nat) (hr : r < 512) (hk : k < 0x800) : inCxl (recordBase r + k) = false := by
  unfold inCxl; rw [region_record r k hr hk]

theorem record_plain {s : State} {r k n : Nat} (hr : r < 512) (hk : k + n ≤ 0x800)
    (h : ∀ i, i < n → cwAt s ((recordBase r + k + i) / 8) = Cw.clean) : Plain s (recordBase r + k) n := by
  intro i hi
  refine ⟨?_, ?_, h i hi⟩
  · have : (recordBase r + k + i) / 16 * 16 = recordBase r + (k + i) / 16 * 16 := by unfold recordBase; omega
    rw [this]; exact record_onChip r _ hr (by omega)
  · rw [Nat.add_assoc]; exact record_onChip r _ hr (by omega)

/-- A word of the record after it is written. -/
theorem setRecWord_facts (v : State) (r o : Nat) (x : Word) (h : Plain v (recordBase r + o) 4) :
    recWord (setRecWord v r o x) r o = x ∧
    KeepsBytes v (setRecWord v r o x) (fun k => recordBase r + o ≤ k ∧ k < recordBase r + o + 4) ∧
    (setRecWord v r o x).scenes = v.scenes ∧ (setRecWord v r o x).regs = v.regs ∧
    ∀ k, cwAt v k = Cw.clean → cwAt (setRecWord v r o x) k = Cw.clean := by
  have w := writeMem_bytes v none (recordBase r + o) (leBytes 4 x.toNat) false (by rw [leBytes_length]; exact h)
  rw [leBytes_length] at w
  refine ⟨?_, fun k hk => ?_, w.2.2.scenes, w.2.2.regs, w.2.1⟩
  · unfold recWord natAt
    have : (List.range 4).map (fun i => byteAt (setRecWord v r o x) (recordBase r + o + i)) = leBytes 4 x.toNat := by
      apply List.ext_getElem
      · simp
      · intro i h1 h2
        have hi : i < 4 := by simpa using h1
        simp only [List.getElem_map, List.getElem_range]
        show byteAt (writeMem v none (recordBase r + o) (leBytes 4 x.toNat) false) _ = _
        rw [w.1, if_pos (by omega), show recordBase r + o + i - (recordBase r + o) = i by omega, List.getD_eq_getElem?_getD,
          List.getElem?_eq_getElem (by simpa using hi)]
        rfl
    rw [this]
    apply BitVec.eq_of_toNat_eq
    have := x.isLt
    simp only [leBytes, leNat, BitVec.toNat_ofNat]
    omega
  · show byteAt (writeMem v none (recordBase r + o) (leBytes 4 x.toNat) false) k = _
    rw [w.1, if_neg hk]

/-- A word of the record outside a write. -/
theorem recWord_keeps {s t : State} {r o : Nat} {p : Nat → Prop} (h : KeepsBytes s t p) (hp : ∀ i, i < 4 → ¬ p (recordBase r + o + i)) :
    recWord t r o = recWord s r o := by
  unfold recWord natAt
  congr 2
  apply List.map_congr_left
  intro i hi
  exact h _ (hp i (List.mem_range.mp hi))

/-- A flag of the record after it is written: it is as written, every other bit of its word stays, and no register and no role's
quiet part changes. -/
theorem setRecFlag_facts (v : State) (r n : Nat) (b : Bool) (hl : isLead r = false) (hn : n < 32) (h : Plain v (recordBase r + 8) 4) :
    recFlag (setRecFlag v r n b) r n = b ∧ (∀ m, m ≠ n → recFlag (setRecFlag v r n b) r m = recFlag v r m) ∧
    KeepsBytes v (setRecFlag v r n b) (fun k => recordBase r + 8 ≤ k ∧ k < recordBase r + 12) ∧
    (setRecFlag v r n b).scenes = v.scenes ∧ (setRecFlag v r n b).regs = v.regs ∧
    ∀ k, cwAt v k = Cw.clean → cwAt (setRecFlag v r n b) k = Cw.clean := by
  unfold setRecFlag
  rw [hl, Bool.false_or]
  split
  · rename_i e
    exact ⟨by simpa using e, fun _ _ => rfl, fun _ _ => rfl, rfl, rfl, fun _ h => h⟩
  · have f := setRecWord_facts v r 8 (setBit (recWord v r 8) n b) h
    refine ⟨?_, fun m hm => ?_, f.2.1, f.2.2⟩
    · unfold recFlag; rw [hl, f.1, bit_setBit _ _ _ _ hn]; simp
    · unfold recFlag; rw [hl, f.1, bit_setBit _ _ _ _ hn]; simp [hm]

/-- Powered state of the prompt books depends on the power controller's registers alone. -/
theorem powered_congr {s t : State} (h : ∀ i, t.reg (Adr.domainState i) = s.reg (Adr.domainState i)) (a : Nat) : powered t a = powered s a := by
  unfold powered
  split
  · rfl
  · unfold domOn domSetting State.field
    rw [h]

theorem greg_setG (x : Role) (n m : Nat) (v : Word) : (x.setG n v).greg m = if n % 32 ≠ 0 ∧ m % 32 = n % 32 then v else x.greg m := by
  unfold Role.setG Role.greg
  by_cases hn : n % 32 = 0
  · simp [hn]
  · by_cases hm : m % 32 = n % 32
    · simp [hn, hm]
    · simp [hn, hm]

theorem restore_g (f : Nat → Word) (n : Nat) : ∀ (m : Nat) (x : Role), m ≤ 31 → 0 < n → n < 32 →
    ((List.range m).foldl (fun x i => x.setG (i + 1) (f i)) x).greg n = if n ≤ m then f (n - 1) else x.greg n := by
  intro m
  induction m with
  | zero => intro x _ h0 _; simp; omega
  | succ m ih =>
    intro x hm h0 hn
    rw [List.range_succ, List.foldl_append]
    simp only [List.foldl_cons, List.foldl_nil]
    rw [greg_setG, ih x (by omega) h0 hn]
    by_cases h : n = m + 1
    · rw [if_pos (by omega), if_pos (by omega), h]; simp
    · rw [if_neg (by omega)]
      by_cases h2 : n ≤ m
      · rw [if_pos h2, if_pos (by omega)]
      · rw [if_neg h2, if_neg (by omega)]

theorem restore_rest (f : Nat → Word) (m : Nat) (x : Role) :
    ∀ g, { (List.range m).foldl (fun x i => x.setG (i + 1) (f i)) x with g := g } = { x with g := g } := by
  induction m with
  | zero => intro g; rfl
  | succ m ih =>
    intro g
    rw [List.range_succ, List.foldl_append]
    simp only [List.foldl_cons, List.foldl_nil]
    rw [← ih g]
    generalize (List.range m).foldl (fun x i => x.setG (i + 1) (f i)) x = y
    unfold Role.setG
    split <;> rfl

/-- What a restoration from the record's bytes leaves (R350). -/
theorem restored (l : List Byte) (tag : Bool) (x : Role) : Restored x (restoreWords l tag x) l tag ∧
    (restoreWords l tag x).sc = false ∧ (restoreWords l tag x).pc = BitVec.ofNat 32 (leNat ((l.drop 4).take 4)) := by
  have hr := restore_rest (fun i => (BitVec.ofNat 32 (leNat ((l.drop (0x40 + 4 * i)).take 4)) : Word)) 31 x
  have hg := fun n => restore_g (fun i => (BitVec.ofNat 32 (leNat ((l.drop (0x40 + 4 * i)).take 4)) : Word)) n 31 x (by decide)
  unfold restoreWords
  dsimp only
  generalize (List.range 31).foldl (fun x i => x.setG (i + 1) (BitVec.ofNat 32 (leNat ((l.drop (0x40 + 4 * i)).take 4)))) x = y at hr hg
  have hs : y.stack = x.stack := by have := congrArg Role.stack (hr x.g); exact this
  have ht : y.t = x.t := by have := congrArg Role.t (hr x.g); exact this
  refine ⟨⟨fun n hn => ?_, ?_, ⟨rfl, rfl⟩, ⟨rfl, rfl⟩, ?_, fun n h0 h8 => ?_, fun n h0 hn => ?_, ?_, ⟨rfl, rfl, rfl, rfl⟩⟩, ?_, rfl⟩
  · show bit (setBit _ 9 false) n = _
    rw [bit_setBit _ _ _ _ (by decide), if_neg hn]
  · show BitVec.ofNat 16 (BitVec.ofNat 32 _ : Word).toNat = _
    apply BitVec.eq_of_toNat_eq; simp
  · exact Sparse.get_put_self _ _ _ _
  · show (y.setT 0 _).tick n = x.tick n
    unfold Role.setT Role.tick
    rw [Sparse.get_put_ne _ _ _ (by omega), ht]
  · show y.greg n = _
    rw [hg n h0 hn, if_pos (by omega)]
    rw [show 0x40 + 4 * (n - 1) = 0x3C + 4 * n by omega]
  · show List.drop (y.stack.length - _) y.stack = _
    rw [hs]
    congr 2
    unfold bits
    have : leNat ((l.drop 8).take 4) < 2 ^ 32 := by
      have := leNat_lt ((l.drop 8).take 4)
      have h4 : ((l.drop 8).take 4).length ≤ 4 := by rw [List.length_take]; omega
      exact Nat.lt_of_lt_of_le this (by
        have := Nat.pow_le_pow_right (n := 256) (by decide) h4
        omega)
    simp only [BitVec.toNat_ofNat, Nat.mod_eq_of_lt this, Nat.shiftRight_zero, show (2 : Nat) ^ (4 + 1 - 0) = 32 by decide]
  · show bit (setBit _ 9 false) 9 = false
    rw [bit_setBit _ _ _ _ (by decide)]; rfl

end Sys2Proof.Machine
end

