-- ==== Sys2Proof/Laws/Where.lean ====
section
/-! SUPPORT. Laws of register addresses: the register that a table defines at an address of a block. -/

namespace Sys2Proof.Machine

/-- A register of a block below its queue ports: what the block's table finds at the offset. -/
theorem regAt_block (i off : Nat) (hi : i < 256) (ho : off < 0x8000) (hl : off < blockLen i) :
    regAt (blockBase i + off) = (findReg (blockRegs i) off).map (fun p => ⟨p.1, i, p.2⟩) := by
  unfold regAt blockBase
  have e1 : (0x10100000 + i * 0x10000 + off - 0x10100000) / 0x10000 = i := by omega
  have e2 : (0x10100000 + i * 0x10000 + off) % 0x10000 = off := by omega
  rw [if_neg (by simp only [Bool.and_eq_true, decide_eq_true_eq]; omega),
    if_pos (by simp only [Bool.and_eq_true, decide_eq_true_eq]; omega)]
  dsimp only
  rw [e1, e2, if_neg (by simp only [Bool.and_eq_true, decide_eq_true_eq]; omega), if_pos hl]

theorem findReg_csCfg (i j : Nat) (hi : i < 66) (hj : j < 12) : ∃ d, findReg companyRegs (0x404 + i * 0x180 + j * 0x20) = some (d, [i, j]) ∧
    d = ⟨.csCfg, 0x404, [(0x180, 66), (0x20, 12)], .smDbt, 0x40000, [⟨0, 16, .rw, .any⟩, ⟨16, 4, .rw, .range 4 12⟩, ⟨20, 1, .rw, .any⟩]⟩ := by
  refine ⟨_, ?_, rfl⟩
  revert hj
  revert j
  revert hi
  revert i
  decide +kernel

theorem findReg_csBasel (i j : Nat) (hi : i < 66) (hj : j < 12) : ∃ d, findReg companyRegs (0x400 + i * 0x180 + j * 0x20) = some (d, [i, j]) ∧
    d = ⟨.csBasel, 0x400, [(0x180, 66), (0x20, 12)], .smDbt, 0x0, [⟨4, 28, .rw, .any⟩]⟩ := by
  refine ⟨_, ?_, rfl⟩
  revert hj
  revert j
  revert hi
  revert i
  decide +kernel

/-- The register at a ring's CS_CFG. -/
theorem regAt_csCfg (c i j : Nat) (hc : c < 8) (hi : i < 66) (hj : j < 12) : ∃ d, regAt (Adr.csCfg c i j) = some ⟨d, 1 + c, [i, j]⟩ ∧
    d = ⟨.csCfg, 0x404, [(0x180, 66), (0x20, 12)], .smDbt, 0x40000, [⟨0, 16, .rw, .any⟩, ⟨16, 4, .rw, .range 4 12⟩, ⟨20, 1, .rw, .any⟩]⟩ := by
  obtain ⟨d, h, hd⟩ := findReg_csCfg i j hi hj
  refine ⟨d, ?_, hd⟩
  have e : Adr.csCfg c i j = blockBase (1 + c) + (0x404 + i * 0x180 + j * 0x20) := by unfold Adr.csCfg; omega
  have hb : blockRegs (1 + c) = companyRegs := by unfold blockRegs; rw [if_neg (by omega), if_pos (by simp; omega)]
  have hl : blockLen (1 + c) = 0x8200 := by unfold blockLen; rw [if_neg (by omega), if_pos (by simp; omega)]
  rw [e, regAt_block (1 + c) _ (by omega) (by omega) (by rw [hl]; omega), hb, h]
  rfl

/-- The register at a ring's CS_BASEL. -/
theorem regAt_csBasel (c i j : Nat) (hc : c < 8) (hi : i < 66) (hj : j < 12) : ∃ d, regAt (Adr.csBasel c i j) = some ⟨d, 1 + c, [i, j]⟩ ∧
    d = ⟨.csBasel, 0x400, [(0x180, 66), (0x20, 12)], .smDbt, 0x0, [⟨4, 28, .rw, .any⟩]⟩ := by
  obtain ⟨d, h, hd⟩ := findReg_csBasel i j hi hj
  refine ⟨d, ?_, hd⟩
  have e : Adr.csBasel c i j = blockBase (1 + c) + (0x400 + i * 0x180 + j * 0x20) := by unfold Adr.csBasel; omega
  have hb : blockRegs (1 + c) = companyRegs := by unfold blockRegs; rw [if_neg (by omega), if_pos (by simp; omega)]
  have hl : blockLen (1 + c) = 0x8200 := by unfold blockLen; rw [if_neg (by omega), if_pos (by simp; omega)]
  rw [e, regAt_block (1 + c) _ (by omega) (by omega) (by rw [hl]; omega), hb, h]
  rfl

theorem findReg_xbar (ch k : Nat) (hc : ch < 1024) (hk : k < 6) : ∃ d, ∃ ix, findReg xbarRegs (ch * 0x20 + 4 * k) = some (d, ix) ∧
    d = (if k = 0 then ⟨.chSrc, 0x0, [(0x20, 1024)], .smDbt, 0x0, [⟨0, 12, .rw, .any⟩, ⟨16, 1, .rw, .any⟩]⟩
      else if k = 1 then ⟨.chCs, 0x4, [(0x20, 1024)], .smDbt, 0x0, [⟨0, 10, .rw, .any⟩, ⟨12, 4, .rw, .any⟩, ⟨16, 1, .rw, .any⟩]⟩
      else ⟨.chRt, 0x8, [(0x20, 1024), (0x4, 4)], .smDbt, 0x0, [⟨0, 13, .rw, .any⟩, ⟨16, 1, .rw, .any⟩, ⟨17, 2, .rw, .any⟩]⟩) := by
  refine ⟨_, if k ≤ 1 then [ch] else [ch, k - 2], ?_, rfl⟩
  revert hk
  revert k
  revert hc
  revert ch
  decide +kernel

/-- The register at word k of a channel: CH_SRC, CH_CS or one of the four CH_RT. -/
theorem regAt_xbar (ch k : Nat) (hc : ch < 1024) (hk : k < 6) : ∃ d, ∃ ix, regAt (Adr.chSrc ch + 4 * k) = some ⟨d, 246, ix⟩ ∧
    d = (if k = 0 then ⟨.chSrc, 0x0, [(0x20, 1024)], .smDbt, 0x0, [⟨0, 12, .rw, .any⟩, ⟨16, 1, .rw, .any⟩]⟩
      else if k = 1 then ⟨.chCs, 0x4, [(0x20, 1024)], .smDbt, 0x0, [⟨0, 10, .rw, .any⟩, ⟨12, 4, .rw, .any⟩, ⟨16, 1, .rw, .any⟩]⟩
      else ⟨.chRt, 0x8, [(0x20, 1024), (0x4, 4)], .smDbt, 0x0, [⟨0, 13, .rw, .any⟩, ⟨16, 1, .rw, .any⟩, ⟨17, 2, .rw, .any⟩]⟩) := by
  obtain ⟨d, ix, h, hd⟩ := findReg_xbar ch k hc hk
  refine ⟨d, ix, ?_, hd⟩
  have e : Adr.chSrc ch + 4 * k = blockBase 246 + (ch * 0x20 + 4 * k) := by unfold Adr.chSrc; omega
  rw [e, regAt_block 246 _ (by omega) (by omega) (by show _ < 0xD100; omega), show blockRegs 246 = xbarRegs from rfl, h]
  rfl

end Sys2Proof.Machine
end

