-- ==== Sys2Proof/Tests/Slice0.lean ====
section
/-! SUPPORT. Tests of single commands, decoding tests and the witnesses of the statements' hypotheses: `wit_<statement>` shows states
and operands that meet the hypotheses of Obligations.<statement>, clause by clause; `test_<what>` runs one step and compares with a
value worked out by hand from the manual. -/

set_option maxRecDepth 8000
set_option Elab.async false

namespace Sys2Proof.Tests

open Sys2Proof Sys2Proof.Machine

/-! ### States -/

/-- A ticket for all of troupe SRAM with every permission. -/
def sramT : Ticket := ⟨0, 0x400000, 0xFF, 0, 0, true⟩

/-- A role at PC 0 that holds word w there, with T0 over troupe SRAM. -/
def holding (w : Word) : Role := { Role.reset with started := true, t := [(0, sramT)], fetchQ := [⟨0, .word w⟩] }

/-- The part after reset with role r as given. -/
def withRole (r : Nat) (x : Role) : State := State.reset.setRole r x

/-- Player role 0 takes w as op, after a change of the role. -/
def plays (op : Op) (w : Word) (f : Role → Role := id) : Bool := ((withRole 0 (f (holding w))).takes 0 op w).isSome

/-- Lead role 512 takes w as op. -/
def leads (op : Op) (w : Word) (f : Role → Role := id) : Bool := ((withRole 512 (f (holding w))).takes 512 op w).isSome

/-- A role of the state that a command leaves. -/
def roleAfter (i : Instr) (s : State) (r : Nat) : Option Role :=
  match exec i s with
  | .next t => some (t.role r)
  | _ => none

/-- The next state of a command. -/
def after (i : Instr) (s : State) : Option State :=
  match exec i s with
  | .next t => some t
  | _ => none

/-! ### Steps, decoding and well-formedness -/

/-- A word that spells another instruction is ill-formed for ADD's row. -/
theorem test_wf_refuses_other_word : (Instr.add 0 0xE0080000).wf = false := by decide

/-- Words spelled from the format tables (R92, R93): one of each class. -/
theorem test_decode_classes :
    [0xE0042229, 0xE11A0805, 0xE2042228, 0xE3100C40, 0xE4084204, 0xE5084204, 0xE6092000, 0xE7084240, 0xE8000003, 0xE9000003,
      0xEA04000B, 0xEA200003].map (fun w => (Ulufy.decode false false w).toOption) =
    [some .add, some .addi, some .dadd, some .mul, some .load, some .store, some .tmove, some .qpush, some .branch, some .bl,
      some .mfs, some .mask] := by decide +kernel

/-! ### Issue and compute -/

theorem wit_IssueLeaves :
    plays .add 0xE0042229 = true ∧ plays .syncI 0xEA100000 (fun x => { x with busy := .blocked 0xEA100000 }) = true := by
  decide +kernel

theorem wit_AddFamily :
    plays .add 0xE0042229 = true ∧ plays .addc 0xE0082228 = true ∧ plays .sub 0xE00C2229 = true ∧ plays .subc 0xE0102228 = true ∧
    plays .cmp 0xE0600228 = true ∧ plays .cmpa 0xE0640228 = true ∧ plays .addif 0xE12A09FF = true ∧
    plays .cmpi 0xE1300A00 = true := by decide +kernel

/-- 0xFFFFFFFF + 1 is 0 with C, Z and H set (R109). -/
theorem test_add_wraps : (roleAfter (.add 0 0xE0042229)
      (withRole 0 { holding 0xE0042229 with g := [(2, 0xFFFFFFFF), (5, 1)] }) 0).map (fun x => (x.greg 1, x.st, x.pc)) =
    some (0, 0x13, 4) := by decide +kernel

/-- 0x80000000 − 1 overflows: V and C set (R109). -/
theorem test_sub_overflow : (roleAfter (.sub 0 0xE00C2229)
      (withRole 0 { holding 0xE00C2229 with g := [(2, 0x80000000), (5, 1)] }) 0).map (fun x => (x.greg 1, x.st)) =
    some (0x7FFFFFFF, 0x09) := by decide +kernel

theorem wit_LogicFamily :
    plays .and 0xE0202229 = true ∧ plays .or 0xE0242229 = true ∧ plays .xor 0xE0282228 = true ∧ plays .andn 0xE02C2228 = true ∧
    plays .mov 0xE0302200 = true ∧ plays .not 0xE0342201 = true ∧ plays .tst 0xE0680228 = true ∧ plays .tstx 0xE06C0228 = true ∧
    plays .mins 0xE0802229 = true ∧ plays .maxs 0xE0842229 = true ∧ plays .minu 0xE0882229 = true ∧
    plays .maxu 0xE08C2229 = true ∧ plays .clz 0xE0A02201 = true ∧ plays .sxb 0xE0A42201 = true ∧
    plays .sxh 0xE0A82200 = true ∧ plays .zxh 0xE0AC2200 = true := by decide +kernel

/-- CLZ of 0 is 32 (R108). -/
theorem test_clz_zero : (roleAfter (.clz 0 0xE0A02201) (withRole 0 (holding 0xE0A02201)) 0).map (fun x => x.greg 1) = some 32 := by
  decide +kernel

/-- Amounts 0, 1, 31, 32, 33 and 255 in G5 (b[7:0]); every shift issues with each. -/
theorem wit_Shifts :
    [0, 1, 31, 32, 33, 255].all (fun n =>
      plays .lsl 0xE0402229 (fun x => { x with g := [(5, n)] }) && plays .lsr 0xE0442229 (fun x => { x with g := [(5, n)] }) &&
      plays .asr 0xE0482229 (fun x => { x with g := [(5, n)] }) && plays .ror 0xE04C2229 (fun x => { x with g := [(5, n)] })) =
    true := by decide +kernel

/-- LSL by 32 gives 0 with C = a[0] (R110). -/
theorem test_lsl_32 : (roleAfter (.lsl 0 0xE0402229)
      (withRole 0 { holding 0xE0402229 with g := [(2, 0x80000001), (5, 32)] }) 0).map (fun x => (x.greg 1, x.st)) =
    some (0, 0x03) := by decide +kernel

theorem wit_Immediates :
    plays .addi 0xE11A0A00 = true ∧ plays .andi 0xE14A0BF0 = true ∧ plays .ori 0xE15A0BFF = true ∧ plays .xori 0xE16A0801 = true ∧
    plays .tsti 0xE1700801 = true ∧ plays .lsli 0xE18A081F = true ∧ plays .lsri 0xE19A0800 = true ∧
    plays .asri 0xE1AA0801 = true ∧ plays .rori 0xE1BA081F = true ∧ plays .shin 0xE1CA0A25 = true := by decide +kernel

/-- R111's worked example, second step: SHIN G4, G4, 0x225 of 9 is 0x2625. -/
theorem test_shin_example : (roleAfter (.shin 0 0xE1C21225)
      (withRole 0 { holding 0xE1C21225 with g := [(4, 9)] }) 0).map (fun x => x.greg 4) = some 0x2625 := by decide +kernel

/-- With ST.DT 0 and an invalid digit, with ST.DT 1 and valid digits. -/
theorem wit_DecimalSums :
    plays .dadd 0xE2042228 (fun x => { x with g := [(2, 0xA)] }) = true ∧
    plays .daddC 0xE2082228 (fun x => { x with st := 0x420 }) = true ∧ plays .dsub 0xE20C2228 = true ∧
    plays .dsubC 0xE2102228 (fun x => { x with st := 0x20 }) = true := by decide +kernel

/-- R118's worked example: 99,998,765 + 1,500 is 265 with D set. -/
theorem test_dadd_example : (roleAfter (.dadd 0 0xE2042228)
      (withRole 0 { holding 0xE2042228 with g := [(2, 0x99998765), (5, 0x1500)] }) 0).map (fun x => (x.greg 1, x.fD)) =
    some (0x00000265, true) := by decide +kernel

theorem wit_DecimalSums_digits :
    plays .dadj 0xE2202200 = true ∧ plays .dshl 0xE2402228 = true ∧ plays .dshl 0xE240222F = true ∧ plays .dshr 0xE2442229 = true := by
  decide +kernel

theorem wit_Multiplies :
    plays .mul 0xE3100C40 = true ∧ plays .mulu 0xE3200C40 = true ∧
    (({ Role.reset with prodOld := some 7 } : Role).prodOld = some 7) ∧ Role.reset.prodOld = none := by decide +kernel

/-- R127's worked example: 1,850 × 4,200 lands as 7,770,000. -/
theorem test_product_example : (roleAfter (.productLanding 0)
      (withRole 0 { Role.reset with prodOld := some 7770000 }) 0).map (fun x => (x.mpl, x.mph)) = some (0x768F90, 0) := by
  decide +kernel

/-- A role with word w in progress. -/
def running (w : Word) (g : Sparse Word) : Role := { holding w with g := g, busy := .multi w }

theorem wit_MultiBeat :
    plays .div 0xE3400CA0 (fun x => { x with g := [(5, 2)] }) = true ∧ plays .divu 0xE3500CA0 (fun x => { x with g := [(5, 2)] }) = true ∧
    plays .bin2d 0xE2602200 = true ∧ plays .d2bin 0xE2642200 = true ∧
    (let x := running 0xE3400CA0 [(5, 2)]
     x.busy = .multi 0xE3400CA0 ∧ x.prompt = false ∧ x.rep = none ∧ bits (0xE3400CA0 : Word) 27 24 = 3 ∧
      bits (0xE3400CA0 : Word) 23 20 = 4 ∧ x.greg (xGb 0xE3400CA0) ≠ 0 ∧ bits (0xE3500CA0 : Word) 23 20 = 5) ∧
    bits (0xE2602200 : Word) 27 24 = 2 ∧ bits (0xE2602200 : Word) 23 18 = 0x18 ∧ bits (0xE2642200 : Word) 23 18 = 0x19 := by
  decide +kernel

/-- −7 ÷ 2 truncates toward zero: −3, remainder −1 (R125). -/
theorem test_div_truncates : (roleAfter (.multiBeatRetire 0)
      (withRole 0 (running 0xE3400CA0 [(3, 0xFFFFFFF9), (5, 2)])) 0).map (fun x => (x.dq, x.drm)) =
    some (0xFFFFFFFD, 0xFFFFFFFF) := by decide +kernel

/-! ### Memory -/

/-- Role 0 takes w as op in a changed state, and the issued state meets p. -/
def issued (op : Op) (w : Word) (p : State → Bool) (f : Role → Role := id) (g : State → State := id) : Bool :=
  ((g (withRole 0 (f (holding w)))).takes 0 op w).any p

/-- The access of format M of role 0. -/
def mAcc (t : State) (w : Word) (p : Nat) : Option Failed := accessFault ((t.role 0).tick (mTk w)) (accessOff (t.role 0) w) (2 ^ mSz w) p

/-- Every ticket test has a ticket that fails it first (R236), and one passes all. -/
theorem wit_TicketChecks :
    [Ticket.null, { sramT with sealTy := 1 }, { sramT with perm := 0 }, { sramT with len := 3 }, { sramT with base := 0x400000 },
      { sramT with base := 0x4000000 }, sramT].map (fun t => t.check 0 4 [permR] true false) =
    [some 0x01, some 0x02, some 0x03, some 0x05, some 0x0A, some 0x0A, none] ∧
    ({ sramT with base := 0x4000000 } : Ticket).check 0 4 [permR] false false = some 0x0B ∧
    issued .load 0xE4304200 (fun t => (mAcc t 0xE4304200 permR).isSome) = true ∧
    issued .store 0xE5304200 (fun t => (mAcc t 0xE5304200 permW).isSome) = true := by decide +kernel

/-- A load of its own wings entry in a scene, a plain one, and one of a line marked at the curtain. -/
theorem wit_Loads :
    issued .load 0xE4104200 (fun t => mAcc t 0xE4104200 permR == none && allInWings t 0 0 4)
      (fun x => { x with st := 0x200 }) (fun s => s.setScene 0 { Scene.reset with wings := [⟨0, 7, 0xFF, none⟩] }) = true ∧
    issued .load 0xE4104200 (fun t => mAcc t 0xE4104200 permR == none && !(t.role 0).sc && !marked t 0 && clockOn t 0) = true ∧
    issued .load 0xE4104200 (fun t => mAcc t 0xE4104200 permR == none && marked t 0) id
      (fun s => s.setStaged 0 [⟨⟨0, 7, 0xFF, none⟩, 0, 1, false⟩]) = true := by decide +kernel

/-- A role with a word's access in progress. -/
def waiting (w : Word) : Role := { holding w with busy := .load w }

theorem wit_LoadResponses :
    responseReady (withRole 0 (waiting 0xE4104200)) 0 0xE4104200 = true ∧
    responseReady (withRole 0 (waiting 0xE7804200)) 0 0xE7804200 = true := by decide +kernel

/-- LOAD of a word finds what memory holds (R131). -/
theorem test_load_word : (roleAfter (.loadResponse 0) ({ (withRole 0 (waiting 0xE4104200)) with mem := [(0, 0x78), (1, 0x56)] }) 0).map
    (fun x => (x.greg 1, x.pc)) = some (0x5678, 4) := by decide +kernel

/-- A word store, an EOI, a full buffer, and a ticket store. -/
theorem wit_Stores :
    issued .store 0xE5104200 (fun t => mAcc t 0xE5104200 permW == none && !isEoi 0 0 4) = true ∧
    issued .store 0xE51042FF (fun t => mAcc t 0xE51042FF permW == none && isEoi 0 0x3FC 4) = true ∧
    issued .store 0xE5104200 (fun t => 8 ≤ (t.role 0).posted.length)
      (fun x => { x with posted := List.replicate 8 ⟨[], none, 0, false⟩ }) = true ∧
    issued .tstore 0xE6490000 (fun t => ticketFault t ((t.role 0).tick 0) (tOff t 0 0xE6490000) true == none) = true := by
  decide +kernel

theorem wit_Exclusives :
    issued .ldx 0xE7804200 (fun t => exclusiveFault sramT (qOff t 0 0xE7804200 4) 4 permR == none) = true ∧
    issued .ldxp 0xE7888200 (fun t => exclusiveFault sramT (qOff t 0 0xE7888200 8) 8 permR == none) = true ∧
    issued .stx 0xE7904200 (fun t => exclusiveFault sramT (qOff t 0 0xE7904200 4) 4 permW == none) = true ∧
    issued .stxp 0xE7988200 (fun t => exclusiveFault sramT (qOff t 0 0xE7988200 8) 8 permW == none) = true ∧
    issued .tload 0xE6410000 (fun t => ticketFault t ((t.role 0).tick 0) (tOff t 0 0xE6410000) false == none) = true := by
  decide +kernel

/-- A store split at a doubleword, a device store, and one to an address that does not exist. -/
theorem wit_StoresLand :
    storeBehind [⟨halves 6 [1, 2, 3, 4], none, 0, false⟩] 0 = false ∧ (halves 6 [1, 2, 3, 4]).all (partReady State.reset 0) = true ∧
    isDevice 0x10000000 = true ∧ clockOn State.reset 0x10000000 = true ∧
    partError State.reset (0x400000, [1]) = true := by decide +kernel

/-- A store that crosses a doubleword reaches both (R134). -/
theorem test_store_halves : (after (.storeAccepted 0 0) (withRole 0 { holding 0 with posted := [⟨halves 6 [1, 2, 3, 4], none, 0, false⟩] })).map
    (fun t => (List.range 4).map (fun i => byteAt t (6 + i))) = some [1, 2, 3, 4] := by decide +kernel


/-! ### Words that do not run -/

/-- A row, a fault of the fetch (PC off word alignment), a reserved word and a failing condition with no spot unit enabled. -/
theorem wit_IssueLeaves_other :
    IsRow (.add 0 0xE0042229) 0 .add 0xE0042229 ∧
    (let s := withRole 0 { holding 0 with pc := 2 }
     ready s 0 = true ∧ (match nextWord s 0 with
       | some (_, .fault vec d a) => (vec, d, a) == (4, 0, 2)
       | _ => false) = true) ∧
    (Ulufy.decode false false 0xED000000).toOption = none ∧ (withRole 0 (holding 0xED000000)).takes 0 .add 0xED000000 = none ∧
    (let s := withRole 0 (holding 0x00042229)
     ready s 0 = true ∧ (nextWord s 0).isSome = true ∧ mayIssue s 0 .add 0x00042229 = true ∧
      condHolds (s.role 0).st (bits (0x00042229 : Word) 31 28) = false) ∧
    (List.range 16).all (fun n => !(withRole 0 (holding 0x00042229)).flag (Adr.spotCtl 0 n) 0) = true :=
  ⟨⟨doAdd, fun _ => rfl⟩, by decide +kernel, by decide +kernel, by decide +kernel, by decide +kernel, by decide +kernel⟩

/-- A word of class 0xD is reserved: vector 2 goes dark here, as no frame can be written (R96, R268). -/
theorem test_reserved_word : (after (.add 0 0xED000000) (withRole 0 (holding 0xED000000))).map (fun t => coreDark t 0) = some true := by
  decide +kernel

/-! ### Tickets -/

/-- Role 0 with T1 and T2 set, and registers. -/
def tk (a n : Ticket) (g : Sparse Word := []) (x : Role) : Role := { x with t := [(0, sramT), (1, a), (2, n)], g := g }

/-- A sealed ticket. -/
def sealedT : Ticket := { sramT with sealTy := 0x10 }
/-- A sealing ticket for types 0x10 and 0x11. -/
def sealer : Ticket := ⟨0x10, 2, 0xFF, 0, 0, true⟩

theorem wit_TicketMoves :
    [(Op.tmove, (0xE60B2000 : Word)), (.tclr, 0xE6130000), (.trds, 0xE6830000), (.trds, 0xE6830100), (.trds, 0xE6830200),
      (.tnarrow, 0xE61B2200), (.tperm, 0xE623200F), (.tseal, 0xE62B2210), (.tunseal, 0xE6332200), (.tget, 0xE6602200),
      (.tget, 0xE6602207), (.twrs, 0xE6882000), (.twrs, 0xE6882100), (.twrs, 0xE6882200)].all
      (fun e => plays e.1 e.2 (tk sramT sealer) && plays e.1 e.2 (fun x => { tk sramT sealer [] x with st := 0x200 })) = true ∧
    (sealer.sealTy = 0 ∧ bit sealer.perm permSEAL = true ∧ sealer.base.toNat = 0x10 ∧ sealer.len.toNat = 2) ∧
    plays .tnarrow 0xE61B2200 (tk sramT Ticket.null [(2, 0x400000), (3, 1)]) = true ∧
    plays .tnarrow 0xE61B2200 (tk Ticket.null Ticket.null) = true ∧ plays .tnarrow 0xE61B2200 (tk sealedT Ticket.null) = true ∧
    plays .tseal 0xE62B2212 (tk sramT sealer) = true ∧ plays .tseal 0xE62B22FF (tk sramT sealer) = true ∧
    plays .tunseal 0xE6332200 (tk sealedT sealer) = true ∧ plays .tunseal 0xE6332200 (tk { sramT with sealTy := 0x12 } sealer) = true ∧
    plays .tunseal 0xE6332200 (tk { sramT with sealTy := 0xFF } sealer) = true := by decide +kernel

/-- TNARROW moves the base by off and sets the length (R153). -/
theorem test_tnarrow : (roleAfter (.tnarrow 0 0xE61B2200) (withRole 0 (tk sramT Ticket.null [(2, 0x10), (3, 0x20)] (holding 0xE61B2200))) 0).map
    (fun x => ((x.tick 3).base, (x.tick 3).len)) = some (0x10, 0x20) := by decide +kernel

/-- A sealed ticket cannot be narrowed: no frame, so the core goes dark (R152, R268). -/
theorem test_tnarrow_sealed : (after (.tnarrow 0 0xE61B2200) (withRole 0 (tk sealedT Ticket.null [] (holding 0xE61B2200)))).map
    (fun t => coreDark t 0) = some true := by decide +kernel

/-- TSEAL then the type is the one named (R155). -/
theorem test_tseal : (roleAfter (.tseal 0 0xE62B2210) (withRole 0 (tk sramT sealer [] (holding 0xE62B2210))) 0).map
    (fun x => (x.tick 3).sealTy) = some 0x10 := by decide +kernel

/-- A code and a data ticket of one sealed type in T1 and T2, a return ticket in T7. -/
def gateR (a b c : Ticket) (g : Sparse Word := []) (x : Role) : Role := { x with t := [(0, sramT), (1, a), (2, b), (7, c)], g := g }

theorem wit_JumpsAndGate :
    plays .branch 0xE8000003 = true ∧ plays .branch 0xE8FFFFFF = true ∧ plays .bl 0xE9000003 = true ∧
    plays .jr 0xEA300200 (fun x => { x with g := [(2, 0x40)] }) = true ∧ plays .jr 0xEA300200 (fun x => { x with g := [(2, 0x42)] }) = true ∧
    plays .jrl 0xEA342200 (fun x => { x with g := [(2, 0x40)] }) = true ∧ plays .jrl 0xEA342200 (fun x => { x with g := [(2, 0x41)] }) = true ∧
    plays .callt 0xE9800001 (gateR sealedT sealedT Ticket.null) = true ∧ plays .callt 0xE9800001 (gateR Ticket.null sealedT Ticket.null) = true ∧
    plays .callt 0xE9800001 (gateR sramT sealedT Ticket.null) = true ∧
    plays .callt 0xE9800001 (gateR sealedT { sealedT with sealTy := 1 } Ticket.null) = true ∧
    plays .callt 0xE9800001 (gateR { sealedT with perm := 1 } sealedT Ticket.null) = true ∧
    plays .rett 0xEA280000 (gateR Ticket.null Ticket.null { sramT with sealTy := 0xFF } [(31, 8)]) = true ∧
    plays .rett 0xEA280000 (gateR Ticket.null Ticket.null { sramT with sealTy := 0xFF } [(31, 9)]) = true ∧
    plays .rett 0xEA280000 (gateR Ticket.null Ticket.null sramT) = true ∧
    plays .callt 0xE9800001 (fun x => { x with st := 0x200 }) = true ∧ bit sealedT.perm permX = true ∧
    bit (1 : Byte) permX = false := by decide +kernel

/-- CALLT then RETT of the pair (R159, R160): CALLT goes to 0 under the unsealed code ticket, G31 holds the return. -/
theorem test_callt : (roleAfter (.callt 0 0xE9800001) (withRole 0 (gateR sealedT sealedT Ticket.null [] (holding 0xE9800001))) 0).map
    (fun x => (x.pc, x.greg 31, (x.tick 7).sealTy, (x.tick 0).sealTy)) = some (0, 4, 0xFF, 0) := by decide +kernel

/-- B by −1 instruction from PC 0 (R163). -/
theorem test_branch_back : (roleAfter (.branch 0 0xE8FFFFFF) (withRole 0 (holding 0xE8FFFFFF)) 0).map (fun x => x.pc) =
    some 0xFFFFFFFC := by decide +kernel

/-! ### Queues -/

/-- A ticket over the ports of troupe queues 0 to 7. -/
def queueT : Ticket := ⟨0x10208000, 0x200, 0xFF, 0, 0, true⟩
/-- A ticket over cue-fire words. -/
def cueT : Ticket := ⟨blockBase 246 + 0x8000, 0x1000, 0xFF, 0, 0, true⟩
/-- Role 0 with T2 as given. -/
def withT2 (a : Ticket) (x : Role) : Role := { x with t := [(0, sramT), (2, a)] }

theorem wit_QueueStarts :
    regionOf 0x10208000 = .port 0 ∧ regionOf (blockBase 246 + 0x8004) = .cueFire 1 ∧ releasing State.reset 0 = false ∧
    [(Op.qpush, (0xE7084080 : Word)), (.qopen, 0xE7200080), (.qclose, 0xE7280080), (.qpop, 0xE7104080), (.qpopt, 0xE7188080)].all
      (fun e => plays e.1 e.2 (withT2 queueT) && plays e.1 e.2 (fun x => { withT2 queueT x with st := 0x200 }) &&
        plays e.1 e.2 (withT2 Ticket.null) && plays e.1 e.2 (withT2 { queueT with base := 0x10208001 }) &&
        plays e.1 e.2 (withT2 cueT)) = true ∧
    queueT.check 0 4 [permCUE] false false = none ∧ cueT.check 4 4 [permCUE] false false = none ∧
    plays .cue 0xE7400081 (withT2 cueT) = true ∧ plays .cue 0xE7400081 (fun x => { withT2 cueT x with st := 0x200 }) = true ∧
    plays .cue 0xE7400080 (withT2 queueT) = true ∧ roleLatchFull State.reset 0 = false ∧
    roleLatchFull (State.reset.setLatch 656 ⟨true, 0, 0, 0, 0, none, false, []⟩) 0 = true ∧ domOn State.reset 51 = true ∧
    ((State.reset.setQueue 0 ⟨[], 31⟩).setReg (Adr.qopener 0) 0x80000000 |> fun s => qOpener s 0 = some 0 ∧ 31 ≤ (s.queue 0).pktWords) ∧
    releasing (State.reset.setScene 0 { Scene.reset with effects := 1, releasing := true }) 0 = true := by decide +kernel

/-- Role 0 with word w of class 0x7 in its handshake, its queue as given. -/
def handshake (b : Busy) (q : Queue) (op : Word := 0) (stat : Word := 0) : State :=
  (((withRole 0 { withT2 queueT (holding 0) with busy := b, g := [(1, 0xABCD)] }).setQueue 0 q).setReg (Adr.qopener 0) op).setReg (Adr.qstat 0) stat

theorem wit_QueueHandshakes :
    domOn State.reset (queueDomain 0) = true ∧ queueDomain 335 < 66 ∧ domOn State.reset (queueDomain 335) = true ∧
    (let s := handshake (.push 0xE7084080) Queue.reset
     qDiscards s 0 0 = false ∧ qHeld s 0 0 = false ∧ qOpener s 0 = none ∧ bits (0xE7084080 : Word) 23 19 = 1) ∧
    (let s := handshake (.push 0xE7084080) ⟨[], 0⟩ 0x80000000
     qDiscards s 0 0 = false ∧ qHeld s 0 0 = false ∧ qOpener s 0 = some 0) ∧
    qHeld (handshake (.push 0xE7084080) ⟨[], 0⟩ 0x80000001) 0 0 = true ∧
    bits (0xE7200080 : Word) 23 19 = 4 ∧ bits (0xE7280080 : Word) 23 19 = 5 ∧
    qDiscards (handshake (.push 0xE7084080) ⟨[], 0⟩ 0x80000000 2) 0 0 = true ∧
    ((List.range 18).all (fun ch => (serOf State.reset ch).rx == []) && (List.range 4).all (fun k => (adcOf State.reset k).wait == none)) = true ∧
    (handshake (.pop 0xE7104080) ⟨[⟨7, false, false, false, false, false, 0⟩], 0⟩).flag (Adr.qstat 0) 6 = false := by decide +kernel

/-- A pop delivers the head of the queue (R309). -/
theorem test_pop : (roleAfter (.queuePopDelivered 0) (handshake (.pop 0xE7104080) ⟨[⟨7, false, false, false, false, false, 0⟩], 0⟩) 0).map
    (fun x => (x.greg 1, x.pc)) = some (7, 4) := by decide +kernel

/-- QOPEN then the queue holds an unfilled slot and its opener (R312). -/
theorem test_qopen : (after (.queuePushAccepted 0) (handshake (.push 0xE7200080) ⟨[], 0⟩)).map
    (fun t => (qOpener t 0, (t.queue 0).stages.length)) = some (some 0, 1) := by decide +kernel

/-- A flush with an open packet sets FLUSHED_OPEN and DISCARD (R319). -/
theorem test_flush_open : (after (.queueFlush 0) (handshake .idle ⟨[⟨0, false, true, false, true, false, 0⟩], 0⟩ 0x80000000)).map
    (fun t => (bits (t.reg (Adr.qstat 0)) 1 0, (t.queue 0).stages.length)) = some (3, 0) := by decide +kernel


/-! ### Control and exceptions -/

theorem wit_SystemRows :
    (List.range 15).all (fun k => plays .mfs (0xEA042000 + BitVec.ofNat 32 k)) = true ∧
    (List.range 15).all (fun k => plays .mts (0xEA080200 + BitVec.ofNat 32 k)) = true ∧
    plays .syncI 0xEA100000 = true ∧ plays .syncI 0xEA100000 (fun x => { x with posted := [⟨[], none, 0, false⟩] }) = true ∧
    plays .wait 0xEA140000 = true ∧ plays .mask 0xEA20000F = true ∧ plays .mask 0xEA200000 (fun x => { x with st := 0x200 }) = true := by
  decide +kernel

/-- MTS ST writes the bits of R74 only: RA, SC and ROLE stay (R74). -/
theorem test_mts_st : (roleAfter (.mts 0 0xEA080200) (withRole 0 { holding 0xEA080200 with g := [(2, 0xFFFFFFFF)] }) 0).map (fun x => x.st) =
    some 0xCFF := by decide +kernel

/-- MASK of 15 gives RP 12 (R168). -/
theorem test_mask_limit : (roleAfter (.mask 0 0xEA20000F) (withRole 0 (holding 0xEA20000F)) 0).map (fun x => (x.rp, x.rpd)) = some (12, 1) := by
  decide +kernel

/-- The part with WC input k of role 0 pending. -/
def cueIn (k : Nat) (s : State) : State := s.setFlag (Adr.wcCin 0 k) 0 true

theorem wit_CueWaits :
    plays .waitcue 0xEA182000 = true ∧ plays .waitcue 0xEA18200F = true ∧
    issued .waitcue 0xEA18200F (fun t => t.flag (Adr.wcCin 0 3) 0 && !t.flag (Adr.wcCin 0 0) 0) id (cueIn 3) = true ∧
    (let s := cueIn 0 (withRole 0 { holding 0xEA182001 with busy := .waitcue 0xEA182001 })
     s.flag (Adr.wcCin 0 0) 0 = true ∧ (s.role 0).busy = .waitcue 0xEA182001) := by decide +kernel

/-- WAITCUE takes input 3: gd gets bit 3 and the input clears (R167). -/
theorem test_waitcue : (after (.waitcue 0 0xEA18200F) (cueIn 3 (withRole 0 (holding 0xEA18200F)))).map
    (fun t => ((t.role 0).greg 1, t.flag (Adr.wcCin 0 3) 0)) = some (8, false) := by decide +kernel

/-- A TST over frames at 0x1000. -/
def frameT : Ticket := { sramT with base := 0x1000, len := 0x400 }

theorem wit_Returns :
    plays .rfe 0xEA240000 (fun x => { x with stack := List.replicate 16 ⟨1, false⟩ }) = true ∧
    plays .rfe 0xEA240000 = true ∧ Ticket.null.check 0 64 [permR, permLT] false false = some 0x01 ∧
    issued .rfe 0xEA240000 (fun t =>
      let x := t.role 0
      (x.tst.check 0 64 [permR, permLT] false false == none) && (List.range 8).all (fun i => !marked t (0x1000 + 8 * i) && isMemory (0x1000 + 8 * i)) &&
      (match readBytes t 0 0x1000 64 with
        | (v, .ok _) => (v.role 0).quiet == x.quiet && (v.scene 0).wings == []
        | _ => false)) (fun x => { x with tst := frameT }) = true ∧
    issued .rfe 0xEA240000 (fun t => match readBytes t 0 0x1000 64 with
        | (_, .error e) => e.detail == 1
        | _ => false) (fun x => { x with tst := frameT }) (fun s => setCwAt s 0x200 ⟨3, false⟩) = true := by decide +kernel

/-- RFE takes PC and the flags of ST from the frame (R264). -/
theorem test_rfe : (roleAfter (.rfe 0 0xEA240000)
      ({ withRole 0 { holding 0xEA240000 with tst := frameT } with mem := [(0x1000, 0x40), (0x1004, 0x07)] }) 0).map (fun x => (x.pc, x.st)) =
    some (0x40, 7) := by decide +kernel

/-- An interruptible repeat of ADD G1, G1, G2 with a count. -/
def repR (n : BitVec 16) : Role :=
  { holding 0xEB800003 with rc := n, g := [(1, 10), (2, 5)], rep := some ⟨0xEB800003, 0xE0042110, false, n, [], 0, [], 0, 0, 0, 0⟩ }

theorem wit_Repeats :
    issued .rep 0xEB800003 (fun t => (match wordAfter t 0 with
        | some (v, .word pw) => pw == 0xE0042110 && (v.role 0).quiet == (t.role 0).quiet
        | _ => false) && (Ulufy.decodePrefixed false false 0xE0042110).toOption == some .add)
      (fun x => { x with fetchQ := x.fetchQ ++ [⟨4, .word 0xE0042110⟩] }) = true ∧
    plays .rep 0xEB440000 (fun x => { x with g := [(2, 9)] }) = true ∧ (BitVec.ofNat 16 (9 : Word).toNat).toNat = 9 ∧
    [(0 : BitVec 16), 1, 2].all (fun n => canIterate (withRole 0 (repR n)) 0 && !iterHazard (repR n) .add 0xE0042110) = true ∧
    condHolds 0 (bits (0xE0042110 : Word) 31 28) = true := by decide +kernel

/-- One iteration of the last count ends the repeat after the word (R171). -/
theorem test_rep_last : (roleAfter (.repIteration 0) (withRole 0 (repR 1)) 0).map (fun x => (x.greg 1, x.pc, x.rc)) = some (15, 8, 0) := by
  decide +kernel

/-- Role 0 at a stack of given levels, with a TST. -/
def atLevels (l : List (BitVec 4)) : Role := { holding 0xE0042229 with tst := frameT, stack := l.map (fun v => ⟨v, false⟩) }

theorem wit_ExceptionEntry :
    (atLevels []).rp = 0 ∧ (atLevels [12]).rp = 12 ∧ (atLevels [13]).rp = 13 ∧ (atLevels [14]).rp = 14 ∧ (atLevels [15]).rp = 15 ∧
    (atLevels (List.replicate 16 1)).rpd = 16 ∧
    frameT.check 0 64 [permR, permW, permLT, permST] false false = none ∧
    frameT.check (15 * 64) 64 [permR, permW, permLT, permST] false false = none ∧
    Ticket.null.check 0 64 [permR, permW, permLT, permST] false false = some 0x01 ∧
    (List.range 64).all (fun i => isMemory (0x1000 + i) && !inCxl (0x1000 + i) && !storeError State.reset (0x1000 + i)) = true ∧
    (atLevels [14]).rep = none ∧ (atLevels [14]).prompt = false := by decide +kernel

/-- JR to an odd address takes vector 4 with a frame at depth 0: PC 0x80, the frame's first word is the JR's PC (R249, R258). -/
theorem test_entry : (after (.jr 0 0xEA300200) (withRole 0 { holding 0xEA300200 with tst := frameT, pc := 0, g := [(2, 1)] })).map
    (fun t => ((t.role 0).pc, (t.role 0).rp, natAt t 0x101C 4)) = some (0x80, 13, 0x1D0004) := by decide +kernel

/-- Ring level 3 of role 0 with one record. -/
def withRecord (s : State) : State := s.setReg (Adr.csProd 0 0 2) 1

theorem wit_Recognition :
    presented (withRecord (withRole 0 (atLevels []))) 0 = 3 ∧ recognisable (withRecord (withRole 0 (atLevels []))) 0 = true ∧
    (atLevels [3]).rp = 3 ∧
    recognisable (withRole 0 { atLevels [] with pfail := true, busy := .waiting }) 0 = true ∧
    recognisable (withRole 0 { atLevels [] with late := some ⟨1, 0x40, none, none, 0⟩ }) 0 = true ∧
    recognisable (withRole 0 { atLevels [] with longFaults := [⟨0, 0, 1, 0⟩] }) 0 = true := by decide +kernel

/-- A level 3 interrupt enters vector 19 (R249, R297). -/
theorem test_recognition : (roleAfter (.interruptRecognition 0) (withRecord (withRole 0 (atLevels []))) 0).map (fun x => (x.pc, x.rp)) =
    some (0x260, 3) := by decide +kernel

/-! ### Scenes -/

/-- An SRT for role 0's record. -/
def recT : Ticket := ⟨0x4000000, 0x800, 0xFF, 0, 0, true⟩

theorem wit_SceneOpens :
    recordBase 0 = 0x4000000 ∧ plays .sceneBegin 0xEA400000 (fun x => { x with srt := recT }) = true ∧ plays .sceneBegin 0xEA400000 = true ∧
    plays .sceneBegin 0xEA400000 (fun x => { x with st := 0x200 }) = true ∧
    issued .sceneBegin 0xEA400000 (fun t => releasing t 0) (fun x => { x with srt := recT })
      (fun s => s.setScene 0 { Scene.reset with effects := 1, releasing := true }) = true ∧
    plays .sceneEnd 0xEA440000 = true ∧ plays .sceneEnd 0xEA440000 (fun x => { x with st := 0x200 }) = true ∧
    issued .sceneBegin 0xEA400000 (fun t => !recFlag t 0 10 && (List.range 192).all (fun i => !inCxl (0x4000000 + i)))
      (fun x => { x with srt := recT }) = true := by decide +kernel

/-- SCENE.BEGIN sets SC and writes SC_ID 1 of role 0 (R325, R327). -/
theorem test_scene_begin : (after (.sceneBegin 0 0xEA400000) (withRole 0 { holding 0xEA400000 with srt := recT })).map
    (fun t => ((t.role 0).sc, natAt t 0x4000000 4)) = some (true, 1) := by decide +kernel

/-- Role 0 at its SCENE.END with a wings entry in area 0, the curtain as given. -/
def curtainS (c : Curtain) (w : List Wing := [⟨0x200, 0xAABB, 0x03, none⟩]) : State :=
  (withRole 0 { holding 0xEA440000 with st := 0x200, busy := .curtain 0xEA440000, srt := recT }).setScene 0
    { Scene.reset with wings := w, cur := some c }

theorem wit_Curtains :
    areaOf 0x1000 = 0 ∧
    (let s := curtainS ⟨[.area 0], [], [0], false⟩
     s.flag (Adr.curLock 0) 9 = false ∧ (s.staged 0).length ≤ 128 ∧ (match stageAll ((takeLock s 0 (.area 0)).setScene 0
        { s.scene 0 with cur := some ⟨[], [.area 0], [0], false⟩ }) 0 (s.scene 0).wings with
      | .ok _ => true
      | .error _ => false) = true) ∧
    (let s := curtainS ⟨[.house, .area 0, .area 1], [], [0, 1], false⟩
     s.flag Adr.curHlock 10 = false) ∧
    ((curtainS ⟨[.area 9], [], [9], false⟩).setFlag (Adr.curLock 9) 9 true).flag (Adr.curLock 9) 9 = true ∧
    (let s := curtainS ⟨[], [.area 0], [0], true⟩
     (s.role 0).prompt = false ∧ (s.role 0).rep = none) := by decide +kernel

/-- The flip of one staged entry, and its drain: the two bytes reach memory (R338, R339). -/
theorem test_curtain_drain :
    ((after (.curtainLockGrant 0) (curtainS ⟨[.area 0], [], [0], false⟩)).bind (fun t => (after (.curtainFlip 0) t).bind (fun u =>
      after (.stagingDrain 0) u))).map (fun t => (natAt t 0x1000 4, (t.role 0).sc, (t.staged 0).length)) = some (0xAABB, false, 0) := by
  decide +kernel

/-- A committed scene of role 0 whose record holds one effect. -/
def effectS (b : List Host.Cell) : State :=
  { State.reset.setScene 0 { Scene.reset with effects := 1, releasing := true } with mem := b }

theorem wit_StagingAndEffects :
    (State.reset.setStaged 0 [⟨⟨0x200, 5, 0xFF, none⟩, 0, 1, true⟩]).staged 0 ≠ [] ∧ storeError State.reset 0x1000 = false ∧
    releasing (effectS []) 0 = true ∧
    (let s := effectS [(0x4000200, 4), (0x4000201, 0x80), (0x4000202, 0x06), (0x4000203, 0x11), (0x4000206, 4)]
     (effectAt s 0 0).1 = 4 ∧ domOn s 51 = true ∧ roleLatchFull s 0 = false ∧ (doEffect s 0 4 (effectAt s 0 0).2.1 0).isSome = true) ∧
    (let s := effectS [(0x4000206, 5), (0x4000204, 0), (0x4000203, 0x10)]
     (effectAt s 0 0).1 = 5 ∧ storeError s 0x10000000 = false ∧ partReady s 0 (0x10000000, [0, 0, 0, 0]) = true) ∧
    (doEffect State.reset 0 1 0x10208000 7).isSome = true ∧
    (doEffect (State.reset.setQueue 0 ⟨List.replicate 32 ⟨0, false, false, false, false, false, 0⟩, 0⟩) 0 1 0x10208000 7).isNone = true := by
  decide +kernel

/-- Role 0 held, with a prompt word ADD. -/
def promptS (on : Bool) (w : Word := 0xE0042110) : State :=
  (withRole 0 { holding 0 with onHold := true, prompt := on }).setReg (Adr.prInstr 0 0) w

/-- Role 0 in an open scene. -/
def sceneS : State := { withRole 0 { holding 0 with st := 0x200 } with mem := [(0x4000009, 1)] }

theorem wit_Supervision :
    sceneCtlActs sceneS 0 = true ∧ sceneCtlActs State.reset 0 = false ∧ isSmOrDbt .sm = true ∧ isSmOrDbt (.role 0 true) = true ∧
    isSmOrDbt (.role 1 false) = false ∧
    ((List.range 24).all (fun k => !loadError sceneS (0x4000000 + 8 * k) && !inCxl (0x4000000 + 8 * k)) && (sceneS.staged 8).isEmpty) = true ∧
    promptWord (promptS false) 0 = 0xE0042110 ∧ promptBeats (promptS true) 0 = true ∧ mayIssue (promptS true) 0 .add 0xE0042110 = true ∧
    (Ulufy.decode false false 0xE0042110).toOption = some .add ∧ promptBeats ((promptS false).setRole 0
      { (promptS false).role 0 with frozen := true }) 0 = false ∧
    (promptWord (promptS false 0xEB800003) 0).toNat / 2 ^ 24 % 16 = 11 ∧ (promptWord (promptS false 0xED000000) 0).toNat / 2 ^ 24 % 16 = 13 := by
  decide +kernel

/-- A prompted ADD leaves the PC (R614). -/
theorem test_prompt : (roleAfter (.promptRetire 0) ((promptS true).setRole 0 { (promptS true).role 0 with g := [(1, 10), (2, 5)] }) 0).map
    (fun x => (x.greg 1, x.pc, x.prompt)) = some (15, 0, false) := by decide +kernel

/-! ### Leads -/

/-- Lead role 512 with one long operation of a function outstanding: the pair, the other pair, and D's bit at issue. -/
def longS (fn : Nat) (a b : List Word) (dt : Bool := false) (f : Role → Role := id) : State :=
  withRole 512 (f { holding 0 with
    longOps := [⟨BitVec.ofNat 32 (0xEC000000 + fn * 2 ^ 18), 0, a, b, 0, dt, sramT, if fn < 4 then 0 else if fn < 8 then 1 else 2⟩] })

/-- The operation is outstanding at its unit, and no role of the core holds a fault of that unit. -/
def held (u : Nat) (s : State) : Bool :=
  ((s.role 512).longOps.find? (fun p => p.unit == u)).isSome && (s.role 512).longFaults.isEmpty && (s.role 513).longFaults.isEmpty

/-- Role 512 in precise mode waits for the operation. -/
def precise (x : Role) : Role := { x with lprec := true, busy := .long ((x.longOps.map (fun o => o.word)).headD 0) }

theorem wit_LongOps :
    isLead 512 = true ∧
    [(Op.dmul16, (0xEC040000 : Word), 0), (.ddiv16, 0xEC080000, 0), (.mul64, 0xEC100000, 1), (.mul64u, 0xEC140000, 1),
      (.div64, 0xEC180000, 1), (.div64u, 0xEC1C0000, 1), (.crc32c, 0xEC200000, 2), (.hpint, 0xEC300000, 2), (.hprice, 0xEC340000, 2)].all
      (fun e => leads e.1 e.2.1 && leads e.1 e.2.1 (fun x => { x with lprec := true }) &&
        leads e.1 e.2.1 (fun x => { x with longOps := [⟨0xEC108000, 0, [], [], 0, false, sramT, e.2.2⟩] })) = true ∧
    [longS 1 [1, 0] [1, 0], longS 1 [10, 0] [1, 0], longS 1 [0, 0xA0000000] [1, 0] true, longS 2 [9, 0] [2, 0], longS 2 [9, 0] [0, 0],
      longS 2 [9, 0] [0xF, 0] true].all (held 0) = true ∧
    [longS 4 [0, 0x80000000] [0, 0x80000000], longS 5 [0xFFFFFFFF, 0xFFFFFFFF] [2, 0], longS 6 [0, 0x80000000] [0xFFFFFFFF, 0xFFFFFFFF],
      longS 6 [1, 0] [0, 0], longS 7 [1, 0] [0, 0], longS 7 [7, 0] [2, 0]].all (held 1) = true ∧
    [longS 8 [0, 0] [65537, 0], longS 8 [0, 0] [65536, 0], longS 8 [0, 0] [9, 0], longS 8 [0x400000, 0] [1, 0],
      longS 0x0C [1, 2, 3, 0] [], longS 0x0C [0, 1, 1, 2] [], longS 0x0D [0xFFFFFFFF, 0x7FFFFFFF] [0, 0],
      longS 0x0D [0xFFFFFFFF, 0x7FFFFFFF] [1, 0], longS 0x0D [3, 0] [31, 0]].all (held 2) = true ∧
    (accessFault sramT 8 1 permR = none ∧ accessFault sramT 0x400000 1 permR ≠ none ∧ isDevice (sramT.addr 8) = false ∧
      Readable (longS 8 [0, 0] [9, 0]) 0 8) ∧
    (let s := longS 8 [0, 0] [9, 0]
     (s.role 512).posted = [] ∧ (s.scene 512).wings = [] ∧ (List.range 16).all (fun n => !s.flag (Adr.spotCtl (companyOf 512) n) 0) = true) ∧
    (let s := longS 7 [7, 0] [2, 0] false precise
     held 1 s = true ∧ (s.role 512).prompt = false ∧ (s.role 512).rep = none ∧ (s.role 512).rp ≤ 12) ∧
    held 0 { longS 1 [1, 0] [1, 0] with roles := (longS 1 [1, 0] [1, 0] false (fun x =>
      { x with longFaults := [⟨0, 0, 0x20, 0⟩] })).roles } = false := by
  refine ⟨by decide +kernel, by decide +kernel, by decide +kernel, by decide +kernel, by decide +kernel, ⟨by decide +kernel, by decide +kernel,
    by decide +kernel, ?_⟩, by decide +kernel, by decide +kernel, by decide +kernel⟩
  intro k h1 h2
  have : k = 0 := by omega
  subst this
  decide +kernel

/-- What one long operation leaves: its result words, E and V, the details of its fault. -/
def longAfter (u : Fin 3) (s : State) : Option (List Word × Bool × Bool × List Byte) :=
  (roleAfter (.longOpRetire 512 u) s 512).map (fun x => ((List.range 3).map (fun i => x.greg (i + 1)), x.le, x.lv, x.longFaults.map (fun f => f.detail)))

/-- 99 at digits 8 and 9, squared: 9801 stands at digit 16, in the third word, so V is set and E is not (R214). -/
theorem test_dmul16 : longAfter 0 (longS 1 [0, 0x99] [0, 0x99]) = some ([0, 0x9801, 0], false, true, []) := by decide +kernel

/-- The 64-bit signed quotient of the most negative number by −1 sets V (R215). -/
theorem test_div64_overflow : longAfter 1 (longS 6 [0, 0x80000000] [0xFFFFFFFF, 0xFFFFFFFF]) = some ([0x80000000, 0, 0], false, true, []) := by
  decide +kernel

/-- A zero divisor pends detail 0x20 (R221). -/
theorem test_div64_zero : longAfter 1 (longS 6 [1, 0] [0, 0]) = some ([0, 0, 0], false, false, [0x20]) := by decide +kernel

/-- Interpolation of 10 to 20 at 1 of 4 rounds half away from zero: 10 + 2.5 is 13 (R219). The result is in G4 of a GD of 4. -/
theorem test_hpint : (roleAfter (.longOpRetire 512 2) (withRole 512 { holding 0 with
    longOps := [⟨0xEC308000, 0, [10, 20, 1, 4], [], 0, false, sramT, 2⟩] }) 512).map (fun x => x.greg 4) = some 13 := by decide +kernel

/-- Rice with k = 2 of the bits 1, 0, 1, 1: the code takes the quotient's one, the stop bit and two more, 4 bits (R220). -/
theorem test_hprice : longAfter 2 (longS 0x0D [0xD, 0] [2, 0]) = some ([4, 0, 0], false, false, []) := by decide +kernel

theorem wit_LeadMisc :
    (leads .lbar 0xECC00000 = true ∧ leads .lbar 0xECC00000 (fun x => { x with longOps := (((longS 4 [0, 0] [0, 0]).role 512).longOps) }) = true ∧
      leads .lmoder 0xECC42000 = true ∧ leads .lmodew 0xECC80200 = true ∧ leads .lclean 0xECD00200 = true ∧
      leads .lclean 0xECD00201 = true) ∧
    (sramT.check 0 1 [] false false = none ∧ (Ticket.null.check 0 1 [] false false).isSome = true) ∧
    (let s := { withRole 512 (holding 0) with caches := [⟨leadOf (withRole 512 (holding 0)) 512, false, 0, true, List.replicate 64 0, [], [], 0⟩] }
     (cached s (leadOf s 512) false 0).isSome = true ∧ (cached s (leadOf s 512) false 1).isNone = true) ∧
    (marked State.reset 0 = false ∧ wantsLine State.reset 0 0 = false ∧ fetchesLine State.reset 0 0 = false) ∧
    (let s := withRole 512 { holding 0 with pc := 0x100, t := [(0, { sramT with base := 0x10000000000 })] }
     let l := (0x10000000000 + 0x100) / 64
     marked s (l * 64) = false ∧ fetchesLine s (leadOf s 512) l = true ∧ winLoadError s (l * 64) = true) ∧
    (let s := { State.reset with cxl := { State.reset.cxl with pfail := true }, caches := [⟨0, false, 0, false, [], [], [], 0⟩, ⟨0, false, 1, true, [], [], [], 0⟩] }
     s.cxl.pfail = true ∧ (s.caches.map (fun l => l.dirty)) = [false, true]) := by decide +kernel

/-- LMODEW then LMODER show the mode bits (R222). -/
theorem test_lmoder : (roleAfter (.lmoder 512 0xECC42000) (withRole 512 { holding 0xECC42000 with lprec := true, lv := true }) 512).map
    (fun x => x.greg 1) = some 5 := by decide +kernel

/-! ### Cues, sheets and registers -/

/-- A full event latch 0 with a hop and an extra channel. -/
def latchS (hop : BitVec 4 := 3) (s : State := State.reset) : State := s.setLatch 0 ⟨true, hop, 0, 7, 0, some 5, false, []⟩

theorem wit_Fires :
    (evDomain 0x40 = some 1 ∧ evDomain 0x428 = none ∧ evLatch 0x40 = some 0) ∧
    (let s := (State.reset.setXev 0x40 ⟨2, 1, [], none, none⟩).setFlag (Adr.xcStat 1) 0 true
     (s.xevOf 0x40).fly = none ∧ (s.xevOf 0x40).count = 2 ∧ s.flag (Adr.xcStat 1) 0 = true) ∧
    ((State.reset.setFlag (Adr.xcStat 1) 0 false).xevOf 0x40).count = 0 ∧
    (let s := State.reset.setXev 0x40 ⟨0, 0, [], none, some ⟨3, 1, [], none⟩⟩
     ((s.xevOf 0x40).fly).isSome = true ∧ (s.latch 0).full = false ∧ ((latchS 3 s).latch 0).full = true) ∧
    ((State.reset.latch 0).full = false ∧ (latchS.latch 0).full = true) ∧
    (let s := State.reset.setFlag (Adr.chSrc 5) 16 true
     s.flag Adr.trCtl 2 = false ∧ s.flag (Adr.chSrc 5) 16 = true ∧ s.flag (Adr.chSrc 6) 16 = false ∧
      (latchS 15).flag Adr.trCtl 2 = false ∧ bit ((s.setFlag Adr.cxLooprpt 16 true).reg Adr.cxLooprpt) 16 = true ∧
      bit (s.reg Adr.cxLooprpt) 16 = false) ∧
    (cinAdr 0x400 = some (Adr.tmrCin 0) ∧ cinAdr 0x183F = some (Adr.wcCin 527 3) ∧ State.reset.flag (Adr.tmrCin 0) 0 = false ∧
      cinPowered State.reset 0x400 = true ∧ (State.reset.setFlag (Adr.tmrCin 0) 0 true).flag (Adr.tmrCin 0) 0 = true) ∧
    (let s := (State.reset.setFlag (Adr.uibCuein 16) 12 true).setField (Adr.uibCuein 16) 9 0 5
     uibPresent 16 = true ∧ s.flag (Adr.uibCuein 16) 12 = true ∧ s.field (Adr.uibCuein 16) 9 0 = 5 ∧ uibPresent 9 = false) := by
  decide +kernel

/-- A fire of the timer's latch starts timer 1 through channel 5's first route with one hop more (R279, R302). -/
theorem test_fire_routes : (after (.fireTaken 0) (latchS 3 ((State.reset.setFlag (Adr.chSrc 5) 16 true).setReg (Adr.chRt 5 0) 0x10401))).map
    (fun t => (t.flag (Adr.tmrCin 1) 0, t.field (Adr.tmrCin 1) 25 16, t.cinOf 0x401, (t.latch 0).full)) =
    some (true, 5, some ⟨0, 3⟩, false) := by decide +kernel

/-- A fire of 15 hops stops the loop it is in (R281). -/
theorem test_fire_loop : (after (.fireTaken 0) (latchS 15)).map (fun t => (t.flag Adr.cxLoop 0, t.field Adr.cxLoop 25 16)) = some (true, 5) := by
  decide +kernel

/-- State with a fire at a consumer input. -/
def cueAt (id : Nat) (arg : Nat) (hop : BitVec 4 := 2) (s : State := State.reset) : State := s.setCin id (some ⟨arg, hop⟩)

/-- State with a fire at a unit's cue input of an action. -/
def uibFired (act : Nat) (enacted : Bool := false) : State :=
  ((State.reset.setField (Adr.uibCuein 16) 17 16 act).setFlag (Adr.uibCuein 16) 13 enacted).setUibIn 16 [1]

theorem wit_CueActions :
    (cinAdr 0x400 = some (Adr.tmrCin 0)) ∧
    (let s := State.reset.setFlag (Adr.cqCin 0) 0 true
     s.flag (Adr.cqCin 0) 0 = true ∧ domOn s (queueDomain 0) = true ∧ qHeld s 0 agentCue = false ∧ qFull s 0 = false) ∧
    (State.reset.flag (Adr.cqCin 335) 0 = false ∧ State.reset.cinOf 0x200 = none) ∧
    ([0, 1, 2].all (fun k => ((cueAt 0x200 k).cinOf 0x200).isSome && ringOn (cueAt 0x200 k (2)
      (State.reset.setFlag (Adr.xcStat 2) 0 true)) (Adr.padCtl 0))) = true ∧
    ([0, 1, 2, 3].all (fun k => ((cueAt 0x43F k).cinOf 0x43F).isSome)) = true ∧
    (let s := (cueAt 0x400 0).setReg (Adr.tmrLoad 0) 5
     s.reg (Adr.tmrLoad 0) ≠ 0 ∧ s.field (Adr.tmrCtl 0) 1 0 = 0 ∧ (cueAt 0x400 2).reg (Adr.tmrLoad 0) = 0 ∧
      ((cueAt 0x400 1).setFlag (Adr.tmrStat 0) 0 true).flag (Adr.tmrStat 0) 0 = true ∧ (cueAt 0x400 1).flag (Adr.tmrStat 0) 0 = false) ∧
    ([0, 1, 2, 3].all (fun a => (uibFired a).uibInOf 16 == [1] && (uibFired a).field (Adr.uibCuein 16) 17 16 == a &&
      !(uibFired a).flag (Adr.uibCuein 16) 13 && (uibFired a true).flag (Adr.uibCuein 16) 13)) = true ∧
    State.reset.uibInOf 255 = [] := by decide +kernel

/-- A START fire of hop count 2 starts timer 0 with hop 3 (R302). -/
theorem test_timer_cue : (after (.timerCueAction 0) ((cueAt 0x400 0).setReg (Adr.tmrLoad 0) 9)).map
    (fun t => (t.flag (Adr.tmrStat 0) 0, t.reg (Adr.tmrCount 0), t.field (Adr.tmrStat 0) 7 4)) = some (true, 9, 3) := by decide +kernel

/-- A record for level 3 of role 0. -/
def recS : CsRec := ⟨0, 3, 0x1234, 1, 2, false, true, 0x01020304, [1, 2]⟩

/-- Ring (0, 3) enabled with 16 entries at 0x2000 and PROD as given; one record waits at its writer. -/
def ringS (prod : Nat) (en : Bool := true) : State :=
  ((((State.reset.setReg (Adr.csBasel 0 0 2) 0x2000).setReg (Adr.csCfg 0 0 2) (if en then 0x140000 else 0x40000)).setField
    (Adr.csProd 0 0 2) 15 0 prod).setWriter 0 [recS])

theorem wit_SheetWrites :
    ((State.reset.writer 0).length < 64 ∧ 64 ≤ ((State.reset.setWriter 0 (List.replicate 64 recS)).writer 0).length) ∧
    (1 ≤ recS.level ∧ recS.level ≤ 12 ∧ recS.role < 528) ∧
    (storeError (ringS 0) 0x2000 = false ∧ isMemory 0x2000 = true ∧ Plain (ringS 0) 0x2000 16) ∧
    (storeError State.reset 0x10000000000 = true) ∧
    (owedRing (ringS 0) 0 = none ∧ (ringS 0).writer 0 = [recS] ∧ ringEn (ringS 0) 0 3 = true ∧ ringFull (ringS 0) 0 3 = false ∧
      ringFull (ringS 16) 0 3 = true ∧ ringEn (ringS 0 false) 0 3 = false ∧ State.reset.writer 0 = []) ∧
    (let s := ((ringS 0).setOvf (ringKey 0 3) ⟨1, 5, 6⟩).setFlag (ringStatAdr 0 3) 16 true
     owedRing s 0 = some (0, 3)) ∧
    (storeError State.reset (Adr.csCons 0 0 2) = false ∧ storeError (setDomState State.reset 32 2) (Adr.csCons 0 0 2) = true) ∧
    (storeError State.reset (Adr.csBasel 7 65 11) = false ∧ isSmOrDbt .sm = true ∧ isSmOrDbt (.role 0 false) = false) := by
  refine ⟨by decide +kernel, by decide +kernel, ⟨by decide +kernel, by decide +kernel, ?_⟩, by decide +kernel, by decide +kernel, by decide +kernel,
    by decide +kernel, by decide +kernel⟩
  intro i h
  have h2 := (by decide +kernel : ∀ j : Fin 16, inCxl ((0x2000 + j.val) / 16 * 16) = false ∧ inCxl (0x2000 + j.val) = false ∧
    cwAt (ringS 0) ((0x2000 + j.val) / 8) = Cw.clean)
  exact h2 ⟨i, h⟩

/-- The record's first words as R290 and R291 lay them out: source, level 3 with kind 1, hop 2 with merged and phase, then the time. -/
theorem test_record_bytes : (after (.callSheetRecordWrite 0) (ringS 0)).map (fun t => (natAt t 0x2000 8, natAt t 0x2008 2, t.reg (Adr.csProd 0 0 2))) =
    some (0x01020304A2131234, 0x0201, 1) := by decide +kernel

/-- On the second lap the phase bit is clear and the write wraps to the base (R290, R293). -/
theorem test_record_phase : (after (.callSheetRecordWrite 0) ((ringS 16).setReg (Adr.csCons 0 0 2) 16)).map (fun t => natAt t 0x2000 4) =
    some 0x22131234 := by decide +kernel

theorem wit_RegisterWrites :
    (domOn State.reset 51 = true ∧ domOn (setDomState State.reset 51 2) 51 = false) ∧
    (bit (0x10001 : Word) 16 = true ∧ evLatch 0x001 = none ∧ evLatch 0x040 = some 0 ∧ legalRoute 0x200 0 = true ∧ legalRoute 0 0 = false) ∧
    (isDevice (Adr.tmrLoad 0) = true ∧ Adr.tmrLoad 0 % 4 = 0 ∧ storeError State.reset (Adr.tmrLoad 0) = false ∧
      clockOn State.reset (Adr.tmrLoad 0) = true ∧ isDevice 0 = false) ∧
    (match regAt (Adr.tmrLoad 0) with
      | some x => mayWrite x.d.writer (.role 0 false) && (writeUib State.reset (.role 0 false) x (Adr.tmrLoad 0) 5).isNone &&
          (writeHouse State.reset (.role 0 false) x (Adr.tmrLoad 0) 5 5).isNone &&
          (writeFabric State.reset (.role 0 false) x (Adr.tmrLoad 0) 5 5).isNone &&
          (writeRing State.reset (.role 0 false) x (Adr.tmrLoad 0) 5 5).isNone
      | none => false) = true ∧
    (match regAt (Adr.csBasel 0 0 0) with
      | some x => !mayWrite x.d.writer (.role 0 false)
      | none => false) = true ∧
    (regAt (Adr.tmrLoad 63 + 0xF00)).isNone = true ∧ storeError (setDomState State.reset 65 2) (Adr.tmrLoad 0) = true ∧
    (clockOn (State.reset.setFlag (Adr.xcStat 2) 0 false) (Adr.padCtl 0) = false ∧ clockDom (Adr.padCtl 0) = some 2) ∧
    (let s := State.reset.setFlag (Adr.xcStat 2) 0 false
     s.flag (Adr.xcStat 2) 0 = false ∧ clockInState (houseNow s) 2 = true ∧ s.time.refclk = true ∧
      Sparse.get (fun _ => none) s.heldW 2 = none) := by decide +kernel

/-- Writing an event that has no latch to an enabled channel is refused and shown (R285). -/
theorem test_route_refused : (after (.crossbarRouteWrite .sm 3 0 0x10001) State.reset).map (fun t => (t.reg (Adr.chSrc 3), t.flag Adr.cxStat 0)) =
    some (0, true) := by decide +kernel

/-- A timer's LOAD is written whole (R301). -/
theorem test_register_write : (after (.registerWrite (.role 0 false) (BitVec.ofNat 48 (Adr.tmrLoad 2)) 77) State.reset).map
    (fun t => t.reg (Adr.tmrLoad 2)) = some 77 := by decide +kernel

/-! ### Timers, clocks, units and power failure -/

/-- Timer 0 running with a mode, a load and a count. -/
def timerS (mode load count : Word) : State :=
  (((State.reset.setReg (Adr.tmrCtl 0) mode).setReg (Adr.tmrLoad 0) load).setReg (Adr.tmrCount 0) count).setFlag (Adr.tmrStat 0) 0 true

theorem wit_Timers :
    (domOn State.reset 65 = true ∧ domOn (setDomState State.reset 65 2) 65 = false) ∧
    ([(timerS 0 0 0), (timerS 1 0 0), (timerS 2 0 0), (timerS 0 5 5), (timerS 1 5 5)].all (fun s => s.flag (Adr.tmrStat 0) 0 && domOn s 65)) = true ∧
    ((timerS 2 0 0).field (Adr.tmrCtl 0) 1 0 = 2 ∧ (timerS 1 5 5).field (Adr.tmrCtl 0) 1 0 = 1 ∧ State.reset.flag (Adr.tmrStat 63) 0 = false ∧
      State.reset.reg (Adr.tmrLoad 63) = 0) ∧
    (State.reset.time.xtal = true ∧ State.reset.flag (Adr.xcStat 1) 0 = true ∧ (State.reset.setFlag (Adr.xcStat 1) 0 false).flag (Adr.xcStat 1) 0 = false ∧
      { State.reset with time := { State.reset.time with xtal := false } }.time.xtal = false) ∧
    (State.reset.pending = [] ∧ State.reset.boot.porst = true) ∧
    (let s := { State.reset with boot := { State.reset.boot with porst := false } }
     s.pending = [] ∧ s.field Adr.pmStat 2 0 ≠ 5 ∧ s.flag (Adr.xcStat 1) 0 = true ∧ (s.setField Adr.pmStat 2 0 5).field Adr.pmStat 2 0 = 5) ∧
    (coreOn State.reset 0 = true ∧ coreOn (setDomState State.reset 0 2) 0 = false) ∧
    ((32000000 + 31999 / 2) / 31999 = 1000 ∧ (32000000 + 65535 / 2) / 65535 < 1000 ∧ 20000 < (32000000 + 1 / 2) / 1) := by decide +kernel

/-- A one-shot timer's expiry stops it and raises its event (R302). -/
theorem test_timer_expiry : (after (.timerExpiry 0) (timerS 0 5 1)).map (fun t => (t.flag (Adr.tmrStat 0) 0, t.flag (Adr.tmrStat 0) 1,
    t.reg (Adr.tmrCount 0), (t.xevOf 0x40).count)) = some (false, true, 0, 1) := by decide +kernel

/-- A boundary moves METRO to 125,000 (R55, R61). -/
theorem test_boundary : (after (.metronomeBoundary 125000) (timerS 1 200000 200000)).map (fun t => t.metro) = some 125000 := by decide +kernel

/-- The part with the crystal lost. -/
def noXtal : State := { State.reset with time := { State.reset.time with xtal := false } }
/-- The part with the reference clock lost. -/
def noRef : State := { State.reset with time := { State.reset.time with refclk := false } }

theorem wit_ClockLoss :
    noXtal.time.xtal = false ∧ State.reset.time.xtal = true ∧ noRef.time.refclk = false ∧ State.reset.time.refclk = true ∧
    (State.reset.field Adr.metroStat 15 8 = 0 ∧ (State.reset.setField Adr.metroStat 15 8 2).field Adr.metroStat 15 8 = 2) ∧
    (noRef.boot.porst = true ∧
      (let s := { noRef.setField Adr.bootStat 2 0 4 with boot := { State.reset.boot with porst := false } }
       s.boot.porst = false ∧ s.boot.brown = 0 ∧ s.field Adr.bootStat 2 0 ≠ 1 ∧ s.time.refclk = false)) ∧
    (domOn State.reset 64 = true ∧ domOn (setDomState State.reset 64 2) 64 = false ∧ State.reset.flag Adr.fuseCtl 1 = false ∧
      (State.reset.setFlag Adr.fuseCtl 1 true).flag Adr.fuseCtl 1 = true) ∧
    (domOn State.reset 31 = true ∧ domOn (setDomState State.reset 31 2) 31 = false) ∧
    (let s := State.reset.setFlag (Adr.twdCtl 0 0) 16 true
     s.flag (Adr.twdCtl 0 0) 16 = true ∧ s.flag (Adr.twdStat 0 0) 16 = false ∧ domOn s 0 = true) ∧
    State.reset.flag (Adr.twdCtl 31 3) 16 = false := by decide +kernel

/-- A service reloads the watchdog of core 5 (R381). -/
theorem test_watchdog : (after (.watchdogService 5) (State.reset.setReg (Adr.twdCtl 1 1) 0x10064)).map (fun t => t.field (Adr.twdStat 1 1) 15 0) =
    some 100 := by decide +kernel

/-- A role that a hold request has reached, and one on hold without a request. -/
def heldRole (req on : Bool) : State := withRole 0 { holding 0 with holdReq := req, onHold := on, ht := { sramT with cid := 0xFFF } }

theorem wit_Units :
    (uibPresent 64 = true ∧ isSmOrDbt .sm = true ∧ uibPresent 240 = true ∧ uibPresent 241 = true ∧ uibPresent 9 = false ∧
      isSmOrDbt (.role 3 false) = false) ∧
    ((heldRole true false).role 0).started = true ∧ ((heldRole true false).role 0).holdReq = true ∧
    ((heldRole true false).role 0).onHold = false ∧ ((heldRole true false).role 0).frozen = false ∧
    rsLoadOut ((heldRole true false).role 0) = false ∧ ((heldRole true false).role 0).busy = .idle ∧ ((heldRole true false).role 0).rep = none ∧
    ((heldRole false true).role 0).onHold = true ∧ ((heldRole false true).role 0).holdReq = false ∧ ((heldRole false true).role 0).prompt = false ∧
    (State.reset.role 0).holdReq = false ∧
    (domOn State.reset 51 = true ∧ State.reset.field (Adr.uibPwrreq 0) 3 2 = 0 ∧
      (State.reset.setField (Adr.uibPwrreq 0) 3 2 1).field (Adr.uibPwrreq 0) 3 2 = 1 ∧ domOn (setDomState State.reset 51 2) 51 = false) ∧
    uibPresent 250 = true := by decide +kernel

/-- A hold release revokes the tickets of class 0xFFF (R612). -/
theorem test_hold_release : (roleAfter (.holdRelease 0) (heldRole false true) 0).map (fun x => (x.onHold, x.ht.tag, (x.tick 0).tag)) =
    some (false, false, true) := by decide +kernel

/-- The part with PFAIL asserted and a GPF state. -/
def pfailS (g : Gpf) (on : Bool := true) : State := { State.reset with cxl := { State.reset.cxl with pfail := on, gpf := g } }

theorem wit_PowerFail :
    (pfailS .idle).cxl.pfail = true ∧ (State.reset.cxl.pfail = false ∧ State.reset.cxl.gpf = .idle) ∧
    (let s := State.reset.setField Adr.pmStat 2 0 2
     1 < s.field Adr.pmStat 2 0 ∧ s.cxl.pfail = false) ∧
    (State.reset.field Adr.pmStat 2 0 ≤ 1 ∧ (State.reset.scene 0).cur = none) ∧
    (let s := curtainS ⟨[.area 0], [], [0], false⟩
     (s.scene 0).cur.isSome = true ∧ (s.role 0).busy = .curtain 0xEA440000 ∧ s.cxl.pfail = false) ∧
    (let s := setHc State.reset 0 { hcOf State.reset 0 with queue := [⟨⟨0, 0, 0, false, 0, 0, 0, 0⟩, 0, 0, 0, [], 1, true⟩] }
     hcOn s 0 = true ∧ (hcOf s 0).queue.length = 1) ∧
    (pfailS (.phase 3 3)).cxl.gpf = .phase 3 3 ∧ (pfailS (.phase 0 3)).cxl.gpf = .phase 0 3 ∧
    gpfDrained (pfailS .drain) = true ∧
    gpfDrained { pfailS .drain with caches := [⟨0, false, 0, true, [], [], [], 0⟩] } = false ∧
    linkUp State.reset 0 = false := by decide +kernel

/-! ### Wear and integrity -/

/-- The part with a migration of a core due. -/
def dueS (core cause : Nat) (s : State := State.reset) : State := { s with sm := { s.sm with due := [⟨core, cause, []⟩] } }

/-- Role 0 in a scene whose record flags are given; earlier faults of its scene. -/
def faultyS (st flags : Word) (faults : Nat) (started : Bool := true) : State :=
  { (withRole 0 { holding 0 with started := started, st := st, srt := recT }).setScene 0 { Scene.reset with faults := faults } with
    mem := [(0x4000009, BitVec.ofNat 8 (flags.toNat / 256))].filter (fun c => c.2 ≠ 0) }

theorem wit_Wear :
    (coreOn State.reset 0 = true ∧ coreOn (setDomState State.reset 0 2) 0 = false ∧ isLead 512 = true ∧ castFollower State.reset 0 = none ∧
      castFollower (State.reset.setFlag (Adr.scnCast 0) 0 true) 0 = some 1 ∧ (State.reset.role 0).busy = .idle) ∧
    faultsWithin (noteFault State.reset 0) 0 State.reset.sm.wear.days < State.reset.sm.wear.faults ∧
    ((faultyS 0 0 0).role 0).started = true ∧ ((faultyS 0 0 0 false).role 0).started = false ∧
    (((faultyS 0 0 0).role 0).sc = false ∧ recFlag (faultyS 0 0 0) 0 9 = false) ∧
    (((faultyS 0x200 0 0).role 0).sc = true ∧ replaying (faultyS 0x200 0 0) 0 = false) ∧
    (recFlag (faultyS 0 0x200 0) 0 9 = true ∧ ((faultyS 0 0x200 0).role 0).sc = false) ∧
    (understudyFree (faultyS 0x200 0 1) 0 = true ∧ ((faultyS 0x200 0 1).scene 0).faults = 1 ∧ ((faultyS 0x200 0 2).scene 0).faults = 2) ∧
    (let full := State.reset.setFlag (Adr.tmap 0) 20 true
     understudyFree full 0 = false ∧ freeSlot full 0 = none ∧ spareFree full 0 = false) ∧
    (((dueS 0 1).sm.due.find? (fun d => d.core == 0 && d.cause == 1)).isSome = true ∧ carrier (dueS 0 1) 0 ≠ 7 ∧
      freeSlot (dueS 0 1) 0 = some 4 ∧ ((State.reset.role 3).posted = [] ∧ (State.reset.role 3).busy = .idle) ∧
      carrier (State.reset.setField (Adr.tmap 0) 2 0 7) 0 = 7) ∧
    ((dueS 128 1).sm.due.any (fun d => d.core == 128 && d.cause == 1) = true ∧ (dueS 128 1).field Adr.lmap 1 0 ≠ 3 ∧ freeSpare (dueS 128 1) = some 0 ∧
      freeSpare ((State.reset.setFlag Adr.lmap 24 true).setFlag Adr.lmap 25 true) = none ∧ State.reset.caches = []) ∧
    (physOn State.reset 0 = true ∧ physOn (setDomState State.reset 0 2) 0 = false ∧ carriedBy State.reset 4 = none ∧
      carriedBy State.reset 0 = some 0 ∧ declinedAt State.reset 0 = none ∧ State.reset.flag (slackAdr 0) 13 = false ∧ spareFree State.reset 0 = true ∧
      State.reset.sm.wear.approval = false ∧ State.reset.sm.due = [] ∧ State.reset.sm.wear.thr ≤ 0xFFF) ∧
    (0 ∉ State.reset.sm.pendingRet ∧
      0 ∈ { State.reset with sm := { State.reset.sm with pendingRet := [0] } }.sm.pendingRet) := by decide +kernel

/-- A due migration of core 0 takes the understudy, slot 4, and fences slot 0 (R366, R367). -/
theorem test_core_migration : (after (.coreMigration 0 1) (dueS 0 1)).map (fun t => (carrier t 0, t.flag (Adr.tmap 0) 16, t.sm.due.length)) =
    some (4, true, 0) := by decide +kernel

/-- The first reading, of 1050 ps against a base of 1000, is 50 permille slow (R364). -/
theorem test_slack : (after (.slackReading 0 1050) (State.reset.setReg (Adr.slackbase 0 0) 1000)).map (fun t => t.field (Adr.slack 0 0) 11 0) =
    some 50 := by decide +kernel

/-- The scrubber at a word of a bank that has given errors. -/
def scrubS (c : Cw) (pos : Word := 0) : State :=
  { (State.reset.setReg Adr.scrubCtl 1).setReg Adr.scrubPos pos with cw := if c = Cw.clean then [] else [(0, c)] }

theorem wit_Integrity :
    (State.reset.setFlag Adr.scrubCtl 0 false).flag Adr.scrubCtl 0 = false ∧
    ([Cw.clean, ⟨1, false⟩, ⟨2, false⟩, ⟨3, false⟩, ⟨4, false⟩, ⟨0, true⟩].all (fun c =>
      (scrubS c).flag Adr.scrubCtl 0 && arrayAddr (scrubS c) 0 0 == some 0 && arrayOn (scrubS c) 0 0 && domOn (scrubS c) 64 &&
        !marked (scrubS c) 0 && cwAt (scrubS c) 0 == c)) = true ∧
    (let s := setDomState (scrubS Cw.clean) 64 2
     domOn s 64 = false) ∧
    (arrayAddr (scrubS Cw.clean 0xB0) 176 0 = none ∧ arrayWords 0 > 1) ∧
    marked ((scrubS Cw.clean).setStaged 0 [⟨⟨0, 5, 0xFF, none⟩, 0, 1, false⟩]) 0 = true ∧
    (let s := { scrubS ⟨1, false⟩ with fixQ := [0] }
     s.fixQ = [0] ∧ powered s 0 = true ∧ marked s 0 = false ∧ State.reset.fixQ = [] ∧ powered (setDomState s 0 2) 0 = false) ∧
    ((State.reset.setField (Adr.repEntry 31) 23 22 1).field (Adr.repEntry 31) 23 22 = 1 ∧ State.reset.field (Adr.repEntry 0) 23 22 ≠ 1) ∧
    ((State.reset.setFlag (Adr.shdCfg 2) 1 true).flag (Adr.shdCfg 2) 1 = true ∧ State.reset.flag (Adr.shdCfg 0) 1 = false) ∧
    (let s := (State.reset.setFlag (Adr.cxlFail0 63) 0 true).setField (Adr.cxlFail1 63) 15 8 1
     s.flag (Adr.cxlFail0 63) 0 = true ∧ s.field (Adr.cxlFail1 63) 15 8 = 1) := by decide +kernel

/-- A scrub step over a codeword with one wrong bit counts it, mends it and moves on (R386, R390). -/
theorem test_scrub : (after .scrubWord (scrubS ⟨1, false⟩)).map (fun t => (cwAt t 0, t.reg Adr.scrubPos, t.field (Adr.mecCnt 0) 15 0)) =
    some (Cw.clean, 0x100, 1) := by decide +kernel

/-! ### CXL ports -/

/-- The part with request 0 of port 0 outstanding, and one of port 1. -/
def reqS (q : CxlReq) (m : Option CxlReq := none) (s : State := State.reset) : State := setReq (setReq s 0 0 (some q)) 1 5 m

/-- The part with a CXL configuration and both links up. -/
def cxlS (cfg mir : Word) : State :=
  (((State.reset.setReg Adr.cxlCfg cfg).setReg Adr.cxlMir mir).setFlag (Adr.cxlLink 0) 0 true).setFlag (Adr.cxlLink 1) 0 true

theorem wit_CxlRequests :
    reqOf State.reset 1 511 = none ∧
    [CxlWho.load 3, .store 3 0, .writeback 512, .dropped, .hc 0 1].all (fun w =>
      (reqOf (reqS ⟨w, 0x10000000000, none, false⟩) 0 0).isSome && (reqOf (reqS ⟨w, 0x10000000000, some 5, false⟩ (some ⟨w, 0x10000000000, some 0,
        false⟩)) 1 5).isSome) = true ∧
    (reqOf (mirrorLose (setReq (reqS ⟨.store 3 0, 0x30000000000, some 5, false⟩ (some ⟨.store 3 0, 0x30000000000, some 0, false⟩)) 0 0 none) 0) 1 5).isSome
      = true ∧
    (winOf 0x30000000000 = 2 ∧ winC (cxlS 0x20 1) = 2 ∧ mirState (cxlS 0x20 1) = 1 ∧ linkUp (cxlS 0x20 1) 1 = true ∧ freeReq (cxlS 0x20 1) 1 = some 0) ∧
    ([1, 2, 3, 4, 5].all (fun m => winC (cxlS 0x20 m) == 2 && mirState (cxlS 0x20 m) == m.toNat)) = true ∧
    ((State.reset.setFlag (Adr.cxlEmask 0) 8 true).flag (Adr.cxlEmask 0) 8 = true ∧ State.reset.flag (Adr.cxlEmask 0) 8 = false ∧
      State.reset.flag (Adr.cxlFirst 0) 4 = false ∧ (State.reset.setFlag (Adr.cxlFirst 0) 4 true).flag (Adr.cxlFirst 0) 4 = true) ∧
    (failEntry State.reset 0x10000000000 = none ∧ (List.range 64).find? (fun i => !State.reset.flag (Adr.cxlFail0 i) 0) = some 0 ∧
      State.reset.field Adr.cxlFailcnt 6 0 < 64 ∧ ((withRole 0 (holding 0)).role 0).started = true ∧
      coreDark (withRole 0 (holding 0)) (coreOf 0) = false ∧ ((withRole 0 (holding 0)).role 0).late = none) ∧
    linkUp State.reset 0 = false ∧ linkUp (cxlS 0 0) 0 = true := by decide +kernel

/-- A completed store frees its request (R410). -/
theorem test_cxl_store_done : (after (.cxlCompletion 0 0 .ok) (reqS ⟨.store 0 0x40, 0x10000000080, none, false⟩)).map (fun t => (reqOf t 0 0).isNone) =
    some true := by decide +kernel

/-- The port's decoder of window C on both ports, in force, with the mirror in a state. -/
def mirrorS (st : Word) : State :=
  let m : Word := 0x10000
  let c : Word := 0xD000
  ((((cxlS 0x21 st).setReg (Adr.hdmMap 0 0) m).setReg (Adr.hdmCtl 0 0) c).setReg (Adr.hdmMap 1 0) m).setReg (Adr.hdmCtl 1 0) c

theorem wit_CxlLinks :
    (let s := State.reset.setReg Adr.cxlCfg 1
     portExists s 0 = true ∧ portExists s 1 = true ∧ domOn s 54 = true ∧ linkUp s 0 = false ∧ portExists State.reset 0 = false) ∧
    linkUp (cxlS 1 0) 1 = true ∧
    (let s := State.reset.setReg Adr.cxlCfg 0xD
     (3 : Fin 4).val ≤ s.field Adr.cxlCfg 3 2 + 1 ∧ lanes 3 ≤ 4 ∧ ¬ lanes 4 ≤ 4 ∧ s.field Adr.cxlCfg 1 0 = 1) ∧
    (decodersLegal State.reset = true ∧ decodersLegal (State.reset.setReg (Adr.hdmCtl 0 0) 0x5000) = false) ∧
    (let s := (((State.reset.setReg Adr.cxlCfg 1).setFlag (Adr.cxlLink 0) 10 true).setReg (Adr.cxlSerl 0 0) 7)
     linkUp s 0 = false ∧ portExists s 0 = true ∧ s.field (Adr.cxlLink 0) 15 12 < 3 ∧ s.flag (Adr.cxlLink 0) 11 = false ∧
      s.flag (Adr.cxlLink 0) 10 = true ∧ (7 : BitVec 64).setWidth 32 = s.reg (Adr.cxlSerl 0 0) ∧
      ((7 : BitVec 64) >>> 32).setWidth 32 = s.reg (Adr.cxlSerl 0 1) ∧ (8 : BitVec 64).setWidth 32 ≠ s.reg (Adr.cxlSerl 0 0)) ∧
    (mirState (mirrorS 4) = 4 ∧ dpaOf (mirrorS 4) 0 2 0 = some 0 ∧ dpaOf (mirrorS 4) 1 2 0 = some 0 ∧ mirState (mirrorS 5) = 5 ∧
      mirState (mirrorS 1) = 1 ∧ winCap (mirrorS 4) 2 ≤ 64) ∧
    (let s := (mirrorS 4).setField (Adr.cxlWin 2) 12 0 1
     64 < winCap s 2) := by decide +kernel

/-- One line of a resynchronisation with a larger window moves on by 64 bytes and stays in RESYNC0 (R419). -/
theorem test_resync : (after .resyncLineCopy ((mirrorS 4).setField (Adr.cxlWin 2) 12 0 1)).map (fun t => (t.cxl.pos, mirState t)) = some (64, 4) := by
  decide +kernel

/-- A score of 40 halves to 20 (R414). -/
theorem test_decay : (after .healthScoreDecay (State.reset.setReg (Adr.cxlHealth 0) 0x30028)).map (fun t => t.reg (Adr.cxlHealth 0)) = some 0x30014 := by
  decide +kernel

/-! ### Historian compressors -/

/-- A context from its word 0, state and anchor. -/
def ctxS (w0 : Word) (st ta : Nat) (va : Word) (w1 : Word := 0) : BitVec 512 :=
  setCw (setAnchor (setCxState (setCw 0 0 w0.toNat) st) ta va) 1 w1.toNat

/-- Compressor 0 serving 16 channels, with channel 0's context cached. -/
def hcS (c : Option (BitVec 512)) (f : Hc → Hc := id) : State :=
  modHc (((State.reset.setReg (Adr.hcCtxh 0) 0x100000).setReg (Adr.hcCtl 0) 1)) 0 (fun h => f { h with cache := match c with
    | some c => [(0, c, false)]
    | none => [] })

/-- A plain word in a feed queue. -/
def feedQ : Queue := ⟨[⟨0x10005, false, false, false, false, false, 0⟩], 0⟩

theorem wit_HcFeeds :
    (let s := (hcS none).setQueue 324 feedQ
     hcRuns s 0 = true ∧ (hcOf s 0).drain = false ∧ (hcOf s 0).work = [] ∧ (hcOf s 0).todo = [] ∧ feedReady s 324 = true ∧
      (match pop (modHc s 0 (fun c => { c with turn := 1 })) 324 with
        | (_, some w) => w.tags / 2 % 2 == 0
        | _ => false) = true ∧ hcRuns (State.reset.setReg (Adr.hcCtl 0) 0) 0 = false) ∧
    ([(0, 0), (1, 0), (5, 0), (9, 0), (9, 1)].all (fun e => (ctxOf (hcS (some (ctxS (BitVec.ofNat 32 e.1) e.2 5 0 10))) 0 0).isSome)) = true ∧
    (bit (cw (ctxS 1 1 5 0) 0) 0 = true ∧ bits (cw (ctxS 5 0 0 0) 0) 2 1 = 2 ∧ bit (cw (ctxS 9 1 5 0 10) 0) 3 = true ∧ cxState (ctxS 9 1 5 0 10) = 1 ∧
      cxRef (ctxS 9 1 5 0 10) = 5 ∧ (cw (ctxS 9 1 5 0 10) 1).toNat = 10 ∧ hcLimit (hcS none) 0 = 16 ∧ bits (0xA : Word) 3 0 > 9) ∧
    (let c1 := ctxS 1 1 1 10
     let c2 := (segment c1 2 12 false 1).1
     let c3 := (segment c2 3 14 false 1).1
     cxState (ctxS 1 0 0 0) = 0 ∧ cxState c1 = 1 ∧ cxRef c1 < 2 ∧ cxState c2 = 2 ∧ cxRef c2 < 3 ∧ 0 < (cw c2 5).toNat ∧ cxState c3 = 3 ∧ cxRef c3 < 4 ∧
      0 < (cw c3 5).toNat ∧ 0 < (slopeOf c3 false).2 ∧ 0 < (slopeOf c3 true).2 ∧ cxTp c2 < 2 ^ 48) ∧
    (let s := (hcS (some (ctxS 1 0 0 0)))
     hcOn s 0 = true ∧ s.flag (Adr.hcCmd 0) 19 = false ∧ s.field (Adr.hcCmd 0) 15 0 / 0x8000 = 0 ∧ (hcOf s 0).todo = [] ∧ (hcOf s 0).work = [] ∧
      (hcOf s 0).drain = false ∧ (chanOf s 0 0).recs = [] ∧ s.reg (Adr.hcCmdcfg 0) = 0 ∧ (hcOf s 0).queue = [] ∧ (hcOf s 0).cmd = none ∧
      halfBusy s 0 0 0 = false) ∧
    (let c := (segment (ctxS 1 1 1 10) 2 12 false 1).1
     (ctxOf (hcS (some c)) 0 0).isSome = true ∧ 2 ≤ cxState c ∧ cxTp c < 2 ^ 48) ∧
    enabledChans State.reset 0 = [] ∧
    ([(4 : Word), 6, 8, 0x28, 0x104].all (fun v => (let s := (hcS none).setReg (Adr.hcCmdcfg 0) v
      hcOn s 0 && !s.flag (Adr.hcCmd 0) 19))) = true ∧
    ((hcS none).setReg (Adr.hcAge 0) 1).field (Adr.hcAge 0) 15 0 ≠ 0 ∧
    ((hcOf (hcS none (fun h => { h with work := [⟨3, 5, 6, false, true⟩] })) 0).work = [⟨3, 5, 6, false, true⟩] ∧ 3 % 0x8000 < hcLimit (hcS none) 0) ∧
    hcLimit (hcS none) 0 ≤ 16 % 0x8000 := by decide +kernel

/-- The corridor of R433: a third sample on the line joins the segment, a fourth off it closes the segment at its candidate. -/
theorem test_segment :
    let c1 := ctxS 1 1 1 10
    let c2 := (segment c1 2 12 false 1).1
    let r3 := segment c2 3 14 false 1
    let r4 := segment r3.1 4 100 false 1
    (r3.2, cxTp r3.1, cw r3.1 6) = ([], 3, 14) ∧ r4.2.getLast? = some ⟨0, 3, 14⟩ ∧ cxTa r4.1 = 3 := by decide +kernel

/-- Compressor 0 on, with ring 0 of 16 slots at 0x100000 and a half that closes on it. -/
def closeS (ring : Word) (f : Hc → Hc := id) (cons : Word := 0) : State :=
  modHc (((State.reset.setReg (Adr.hcCtl 0) 1).setReg (Adr.rngBasel 0 0) 0x100000).setReg (Adr.rngCfg 0 0) ring |>.setReg (Adr.rngCons 0 0) cons) 0
    (fun h => f { h with queue := [⟨⟨3, 1, 0, false, 1, 0, 5, 0⟩, 3, 0, 0, [⟨0, 5, 10⟩, ⟨0, 9, 12⟩], 0, false⟩] })

/-- Readable bytes, decided through the doublewords that they touch. -/
def readableB (s : State) (a n : Nat) : Bool :=
  (List.range ((a + n - 1) / 8 - a / 8 + 1)).all (fun i => !inCxl ((a / 8 + i) * 8) && cwAt s (a / 8 + i) == Cw.clean && !loadError s ((a / 8 + i) * 8) &&
    (s.staged (areaOf ((a / 8 + i) * 8))).isEmpty)

theorem readableB_sound (s : State) (a n : Nat) (h : readableB s a n = true) : Readable s a n := by
  intro k h1 h2
  have hm : k - a / 8 ∈ List.range ((a + n - 1) / 8 - a / 8 + 1) := by
    rw [List.mem_range]
    omega
  have hk := (List.all_eq_true.mp h) _ hm
  have he : a / 8 + (k - a / 8) = k := by omega
  rw [he] at hk
  simpa [and_assoc] using hk

theorem wit_HcBlocks :
    (ringOn State.reset (Adr.rngCons 0 0) = true ∧ ringOn (setDomState State.reset 57 2) (Adr.rngCons 0 0) = false) ∧
    ((closeS 0x40000).flag (Adr.rngCfg 0 0) 22 = false ∧ hcOn (closeS 0x40000) 0 = true ∧ (closeS 0x440000).flag (Adr.rngCfg 0 0) 22 = true) ∧
    Readable (closeS 0x40000) (hcRingBase (closeS 0x40000) 0 0) 8 ∧
    (let s := closeS 0x40000
     ([0, 4095].all (fun i => isMemory (hcRingBase s 0 0 + i) && !storeError s (hcRingBase s 0 0 + i))) = true ∧
      (let s := { s with mem := [(0x100004, 0x4E), (0x100005, 0x4B), (0x100006, 4)] }
       leNat ((List.range 4).map (fun j => byteAt s (hcRingBase s 0 0 + 4 * 1 + j))) = 0x4B4E + s.field (Adr.rngCfg 0 0) 20 16 * 2 ^ 16)) ∧
    (hcRuns (closeS 0) 0 = true ∧ (hcOf (closeS 0) 0).work = [] ∧ (hcOf (closeS 0) 0).todo = [] ∧ (hcOf (closeS 0) 0).drain = false ∧
      (hcOf (closeS 0) 0).cmd = none ∧ (hcOf (closeS 0) 0).queue.length = 1 ∧ hcRuns (setDomState State.reset 57 2) 0 = false) ∧
    (let s := closeS 0x600000 id 0xFFFFFFFF
     s.flag (Adr.rngCfg 0 0) 21 = true ∧ (hcOf s 0).queue.any (fun e => hcSlots s 0 0 < (0 + 2 ^ 32 - (s.reg (Adr.rngCons 0 0)).toNat) % 2 ^ 32 + closeParts e) =
       true) ∧
    (let s := closeS 0x440000
     s.hcFail = [] ∧ hcOutstanding s 0 0 = false ∧ hcProd s 0 0 = 0 ∧ Readable s (halfAdr s 0 3 0) 24 ∧ Readable s (slotAdr s 0 0 0) 4096 ∧
      ([0, 4095].all (fun i => isMemory (slotAdr s 0 0 0 + i) && !storeError s (slotAdr s 0 0 0 + i))) = true) ∧
    (hcOn State.reset 1 = true ∧ State.reset.flag (Adr.pbCtl 1) 1 = false ∧ Readable State.reset 0 64) ∧
    (let s := modHc State.reset 0 (fun h => { h with play := some (List.replicate 64 0) })
     (hcOf s 0).play = some (List.replicate 64 0) ∧ hcOn s 0 = true) := by
  refine ⟨by decide +kernel, by decide +kernel, readableB_sound _ _ _ (by decide +kernel), by decide +kernel, by decide +kernel, by decide +kernel,
    ⟨by decide +kernel, by decide +kernel, by decide +kernel, readableB_sound _ _ _ (by decide +kernel), readableB_sound _ _ _ (by decide +kernel),
      by decide +kernel⟩, ⟨by decide +kernel, by decide +kernel, readableB_sound _ _ _ (by decide +kernel)⟩, by decide +kernel⟩

theorem leNat_leBytes_word (w : Word) : leNat (leBytes 4 w.toNat) = w.toNat := by
  simp only [leBytes, leNat, BitVec.toNat_ofNat]
  have := w.isLt
  omega

/-- A sealed block is good where its MAGIC is (R447). -/
theorem sealBlock_good (head pay : List Byte) (h : at_ (sealBlock head pay) 0 2 = 0x4B4E) : blockGood (sealBlock head pay) = true := by
  have hl : (((head ++ pay) ++ List.replicate 4092 0).take 4092 : List Byte).length = 4092 := by
    rw [List.length_take, List.length_append, List.length_replicate]
    omega
  generalize hb : (((head ++ pay) ++ List.replicate 4092 0).take 4092 : List Byte) = b at hl
  have e : sealBlock head pay = b ++ leBytes 4 (~~~ crc32c 0xFFFFFFFF b).toNat := by simp only [sealBlock, hb]
  rw [blockGood, h]
  have ht : (sealBlock head pay).take 4092 = b := by rw [e, List.take_append_of_le_length (by omega), List.take_of_length_le (by omega)]
  have hd : (sealBlock head pay).drop 4092 = leBytes 4 (~~~ crc32c 0xFFFFFFFF b).toNat := by
    rw [e, List.drop_append_of_le_length (by omega), List.drop_of_length_le (by omega), List.nil_append]
  rw [ht, at_, hd, List.take_of_length_le (by simp [leBytes]), leNat_leBytes_word]
  simp

/-- A coded block of two records is 4,096 bytes, checks, and decodes to its records (R441 to R447). -/
theorem wit_HcBlocks_coded :
    let b := codedBlock ⟨3, 1, 0, false, 1, 0, 5, 0⟩ 0 [⟨0, 5, 10⟩, ⟨0, 9, 12⟩]
    b.length = 4096 ∧ blockGood b = true ∧ blockRecs b = [⟨0, 5, 10⟩, ⟨0, 9, 12⟩] :=
  ⟨by decide +kernel, sealBlock_good _ _ (by decide +kernel), by decide +kernel⟩

/-! ### Serial channels, pulse units, ADCs and pads -/

/-- Serial channel 0 with a configuration and its state, its four pads claimed. -/
def serS (cfg : Word) (f : SerCh → SerCh := id) (s : State := State.reset) : State :=
  let s := (List.range 4).foldl (fun s k => s.setReg (Adr.padOwn (96 + k)) 0x2000) s
  setSer (s.setReg (Adr.serCfg 0) cfg) 0 (f (serOf s 0))

theorem wit_Serial :
    (ringOn (serS 0) (Adr.serTx 0) = true ∧ ringOn (setDomState (serS 0) 60 2) (Adr.serTx 0) = false ∧
      ringOn (setDomState (serS 0) 60 2) (Adr.serCfg 0) = false) ∧
    ((serOf (serS 5) 0).fifo.length < 64 ∧ 64 ≤ (serOf (serS 5 (fun c => { c with fifo := List.replicate 64 (0, false) })) 0).fifo.length) ∧
    (serMode (serS 5) 0 = 1 ∧ serOn (serS 5) 0 = true ∧ (serOf (serS 5) 0).line = none ∧ ctsOk (serS 5) 0 = true ∧ (serOf (serS 5) 0).fifo = [] ∧
      serMode (serS 0) 0 = 0 ∧ serMode (serS 6) 0 = 2 ∧ serMode (serS 7) 0 = 3 ∧ serOn (serS 6) 0 = true ∧ (serOf (serS 6) 0).frame.length < 64 ∧
      (serOf (serS 6) 0).closed = false ∧ (serOf (serS 6) 0).drop = false ∧ bit (0xE : Word) 3 = true ∧ serMode (serS 0xE) 0 = 2) ∧
    ((serOf (serS 5 (fun c => { c with line := some [1], fifo := [(2, false)] })) 0).line = some [1]) ∧
    (rxOn (serS 5) 0 = true ∧ rxOn (serS 0) 0 = false ∧ ¬ 64 ≤ rxBytes (serOf (serS 5) 0).rx ∧
      64 ≤ rxBytes (List.replicate 64 (PushW.word 0 1)) ∧ (serS 5).flag (Adr.serRxq 0) 9 = false) ∧
    (canAccepts (serS 7) 0 0 = false ∧ canAccepts ((serS 7).setFlag (Adr.canFmask 0 0) 31 true) 0 0 = true ∧
      rxBytes (packWords 30 [1, 2, 3]) ≤ 64) ∧
    (domOn (serS 5) (queueDomain 0) = true ∧ pushReady (serS 5) 0 0x300 = true ∧
      pushReady ((serS 5).setQueue 0 ⟨List.replicate 32 ⟨0, false, false, false, false, false, 0⟩, 0⟩) 0 0x300 = false) ∧
    ([0, 1, 2].all (fun k => ((cueAt (0x500 + k) 0 2 (serS 5)).cinOf (0x500 + k)).isSome && ringOn (serS 5) (Adr.serCfg 0))) = true ∧
    (serOf (serS 5 (fun c => { c with held := true })) 0).held = true ∧
    (serPad (serS 5) 0 3 = some 99 ∧ (serS 5).flag (Adr.padCtl 99) 5 = false ∧ serPad State.reset 0 3 = none ∧
      ((serS 5).setFlag (Adr.padCtl 99) 5 true).flag (Adr.padCtl 99) 5 = true) ∧
    (serOn (serS 7) 0 = true ∧ serMode (serS 7) 0 = 3) := by decide +kernel

/-- A UART byte goes to the line at once and raises event 2 of channel 0, 0x102 (R593, R601). -/
theorem test_uart_tx : (after (.serialTxWrite 0 0x41) (serS 5)).map (fun t => ((serOf t 0).line, (t.xevOf 0x102).count)) = some (some [0x41], 1) := by
  decide +kernel

/-- An HDLC frame of two bytes leaves on LAST (R594). -/
theorem test_hdlc_tx : ((after (.serialTxWrite 0 1) (serS 6)).bind (fun t => after (.serialTxWrite 0 0x102) t)).map (fun t => (serOf t 0).line) =
    some (some [1, 2]) := by decide +kernel

/-- A byte with a framing error on a stopped queue stays in the buffer and is counted (R593, R596). -/
theorem test_uart_rx : (after (.serialRxByte 0 0x41 1) (serS 5)).map (fun t => ((serOf t 0).rx, t.field (Adr.serCnt 0) 31 16)) =
    some ([PushW.word 0x10041 1], 1) := by decide +kernel

/-- Pulse unit 0 running in a mode. -/
def pulseS (m : Word) (x : PulseU := ⟨3, 1, 2⟩) : State := setPulse (State.reset.setReg (Adr.puCtl 0) (4 + m)) 0 x

theorem wit_Pulse :
    ([1, 2, 3].all (fun m => (pulseS m).flag (Adr.puCtl 0) 2 && (pulseS m).field (Adr.puCtl 0) 1 0 == m.toNat && ringOn (pulseS m) (Adr.puCtl 0))) =
      true ∧
    ((pulseS 3).reg (Adr.puCnt 0) + 1).toNat < 3 ∧ ¬ (((pulseS 3).setReg (Adr.puCnt 0) 2).reg (Adr.puCnt 0) + 1).toNat < 3 ∧
    State.reset.flag (Adr.puCtl 0) 2 = false ∧
    ([0, 1, 2, 3].all (fun k => ((cueAt (0x560 + k) 0 2 (pulseS 1)).cinOf (0x560 + k)).isSome && (State.reset.cinOf (0x560 + k)).isNone)) = true ∧
    (pulseS 3).field (Adr.puCtl 0) 1 0 = 3 ∧ (pulseS 1).field (Adr.puCtl 0) 1 0 ≠ 3 := by decide +kernel

/-- The third edge of a count of 3 raises event 2 of unit 0, 0x202, and starts over (R597). -/
theorem test_pulse_count : (after (.pulseCaptureEdge 0 0) ((pulseS 3).setReg (Adr.puCnt 0) 2)).map (fun t => (t.reg (Adr.puCnt 0), (t.xevOf 0x202).count)) =
    some (0, 1) := by decide +kernel

/-- ADC 0 in a sequence of a length, at a rank, with a window on input 0. -/
def adcS (ctl : Word) (run : Bool) (x : AdcSt := AdcSt.reset) : State :=
  setAdc ((((State.reset.setReg (Adr.adcCtl 0) ctl).setFlag (Adr.adcStat 0) 0 run).setReg (Adr.cmpWin 0) 0x81000800)) 0 x

theorem wit_AdcAndPads :
    (ringOn (adcS 1 false) (Adr.adcCtl 0) = true ∧ (adcS 1 false).flag (Adr.adcCtl 0) 0 = true ∧ (adcS 1 false).flag (Adr.adcStat 0) 0 = false ∧
      (adcS 1 true).flag (Adr.adcStat 0) 0 = true ∧ (adcS 0 false).flag (Adr.adcCtl 0) 0 = false) ∧
    ((cueAt 0x300 0 2 (adcS 1 false)).cinOf 0x300).isSome = true ∧
    ((adcOf (adcS 1 true) 0).wait = none ∧ (adcOf (adcS 1 true) 0).rank = 0 ∧ (adcS 3 true).field (Adr.adcCtl 0) 3 1 = 1 ∧
      (adcS 1 true).field (Adr.adcCtl 0) 3 1 = 0 ∧ (adcS 1 true).flag (Adr.adcQ 0) 9 = false ∧ (adcS 1 true).field (Adr.adcSeq 0) 3 0 = 0) ∧
    (bits (0x81000800 : Word) 11 0 = 0x800 ∧ bits (0x81000800 : Word) 27 16 = 0x100 ∧ bit (0x81000800 : Word) 31 = true) ∧
    (State.reset.vioOff.getLsbD 0 = false ∧ ringOn State.reset (Adr.padCtl 0) = true ∧ bit (State.reset.reg (Adr.padCtl 0)) 5 = false ∧
      bit (State.reset.reg (Adr.padCtl 0)) 7 = false ∧ (State.reset.setFlag (Adr.padCtl 0) 7 true).flag (Adr.padCtl 0) 7 = true) ∧
    (let s := (serS 0x205).setFlag (Adr.padCtl 99) 5 true
     padFunc s 99 = 1 ∧ 99 % 4 = 3 ∧ s.vioOff.getLsbD 2 = false ∧ ringOn s (Adr.padCtl 99) = true ∧ s.flag (Adr.padCtl 99) 8 = false) := by
  decide +kernel

/-- A conversion outside the window of its input is stored with its input and a valid bit, and begins an excursion (R598, R599). -/
theorem test_adc : (after (.adcConversionDone 0 0x123) (adcS 1 true)).map (fun t =>
    (t.reg (Adr.adcRes 0 0), t.flag (Adr.cmpStat 0) 0, t.field (Adr.cmpStat 0) 15 8, t.flag (Adr.adcStat 0) 0)) = some (0x10123, true, 1, false) := by
  decide +kernel

/-- A rising edge on a pad that counts rising edges (R589). -/
theorem test_pad_edge : (after (.padInputEdge 0 true) (State.reset.setFlag (Adr.padCtl 0) 7 true)).map (fun t =>
    (t.flag (Adr.padCtl 0) 5, t.field (Adr.padCtl 0) 31 16, (t.xevOf 0x300).count)) = some (true, 1, 1) := by decide +kernel

/-! ### Commands -/

/-- The part with the stage manager ready. -/
def liveS : State :=
  { (State.reset.setReg Adr.bootStat 6).setFlag Adr.smStat 2 true with boot := { State.reset.boot with porst := false } }

/-- A session of a set, 0 or 2, with a role code. -/
def sessS (code : Nat) (k : Fin 3 := 0) : Session := ⟨7, k, 0, code, 0, 0, 0, 0⟩

/-- The first 240 bytes of a command block of session 7 with SEQ 1. -/
def cmdHead (op : Nat) (pay : List Byte) : List Byte :=
  leBytes 2 op ++ leBytes 2 1 ++ leBytes 2 pay.length ++ leBytes 2 0 ++ leBytes 4 7 ++ leBytes 4 0 ++ pay ++ List.replicate (224 - pay.length) 0

/-- The block with its tag. -/
def cmdBlock (op : Nat) (pay : List Byte) : List Byte :=
  cmdHead op pay ++ (leBytes 32 (Config.hmac 0 ((cmdHead op pay).take (16 + pay.length))).toNat).take 16

/-- A command in slot 0 of a set, rung, in a session of a role code. -/
def cmdS (op : Nat) (pay : List Byte) (code : Nat := 1) (f : State → State := id) (k : Fin 3 := 0) : State :=
  let s := f liveS
  { s with sm := { s.sm with
      sessions := [(0, some (sessS code k))]
      slotState := [(k * 8, 1)]
      rung := [k * 8]
      slotBytes := (List.range' (k * 2048) 256).zip (cmdBlock op pay) } }

/-- The command of that slot. -/
def cmdOf (op : Nat) (pay : List Byte) (code : Nat := 1) (k : Fin 3 := 0) : Cmd := ⟨k, 0, op, 1, pay, some (0, sessS code k), 0⟩

/-- The state that its row starts from. -/
def cmdT (op : Nat) (pay : List Byte) (code : Nat := 1) (f : State → State := id) (k : Fin 3 := 0) : State :=
  acceptSeq (takeSlot (cmdS op pay code f k) k 0) (cmdOf op pay code k)

theorem get_zip (l : List Byte) : ∀ a i, i < l.length →
    Sparse.get (fun _ => (0 : Byte)) ((List.range' a l.length).zip l) (a + i) = l.getD i 0 := by
  induction l with
  | nil => intro a i h; simp at h
  | cons x l ih =>
    intro a i h
    rw [List.length_cons, List.range'_succ, List.zip_cons_cons, Sparse.get]
    cases i with
    | zero => simp
    | succ i =>
      rw [if_neg (by omega), show a + (i + 1) = a + 1 + i by omega, ih (a + 1) i (by simpa using h)]
      simp

theorem length_leBytes (n v : Nat) : (leBytes n v).length = n := by
  induction n generalizing v with
  | zero => rfl
  | succ n ih => simp [leBytes, ih]

theorem length_cmdHead (op : Nat) (pay : List Byte) (h : pay.length ≤ 224) : (cmdHead op pay).length = 240 := by
  simp [cmdHead, length_leBytes]
  omega

theorem length_cmdBlock (op : Nat) (pay : List Byte) (h : pay.length ≤ 224) : (cmdBlock op pay).length = 256 := by
  simp [cmdBlock, length_cmdHead op pay h, length_leBytes]

theorem blockAt_cmdS (op : Nat) (pay : List Byte) (code : Nat) (f : State → State) (k : Fin 3) (h : pay.length ≤ 224) :
    blockAt (cmdS op pay code f k) k 0 = cmdBlock op pay := by
  have hl := length_cmdBlock op pay h
  apply List.ext_getElem
  · simp [blockAt, hl]
  · intro i h1 h2
    have hi : i < 256 := by omega
    have := get_zip (cmdBlock op pay) (k * 2048) i h2
    rw [hl] at this
    simp only [blockAt, slotByte, cmdS, List.getElem_map, List.getElem_range]
    rw [show (k.val * 8 + 0) * 256 + i = k * 2048 + i by omega, this]
    simp [h2]

theorem findSession_cmdS (op : Nat) (pay : List Byte) (code : Nat) (f : State → State) (k : Fin 3) (hk : k.val ≠ 1) :
    findSession (takeSlot (cmdS op pay code f k) k 0) k 0 7 = some (0, sessS code k) := by
  have h0 : sessionOf (takeSlot (cmdS op pay code f k) k 0) 0 = some (sessS code k) := by
    rw [takeSlot, if_neg hk]
    rfl
  rw [findSession, show List.range 4 = [0, 1, 2, 3] from rfl, List.findSome?_cons, h0]
  simp [sessS, hk]

theorem isNext_cmdS (op : Nat) (pay : List Byte) (code : Nat) (f : State → State) (k : Fin 3) (hk : k.val ≠ 1) :
    isNext (cmdS op pay code f k) k 0 = true := by
  rw [isNext, if_neg hk]
  simp [slotState, cmdS, Sparse.get, List.filter]

/-- What is left to check of a command by evaluation. -/
def served (op : Nat) (pay : List Byte) (code : Nat := 1) (f : State → State := id) (k : Fin 3 := 0) : Bool :=
  decide (pay.length ≤ 224) && smRuns (f liveS) && (f liveS).sm.cmdWait.isNone && decide (tableCheck (cmdOf op pay code k) = none) &&
    decide (op < 65536) && k != 1

theorem at_leBytes2 (v : Nat) (h : v < 65536) : leNat (leBytes 2 v) = v := by
  simp only [leBytes, leNat, BitVec.toNat_ofNat]
  omega

theorem serves_cmd (op : Nat) (pay : List Byte) (code : Nat) (f : State → State) (k : Fin 3) (h : served op pay code f k = true) :
    Serves op k 0 (cmdS op pay code f k) (cmdT op pay code f k) (cmdOf op pay code k) := by
  simp only [served, Bool.and_eq_true, decide_eq_true_eq, bne_iff_ne, ne_eq] at h
  obtain ⟨⟨⟨⟨⟨hp, hr⟩, hw⟩, ht⟩, ho⟩, hk⟩ := h
  have hb := blockAt_cmdS op pay code f k hp
  have hl := length_cmdHead op pay hp
  have e0 : at_ (cmdBlock op pay) 0 2 = op := by
    simp only [at_, cmdBlock, cmdHead, leBytes, List.cons_append, List.nil_append, List.drop_zero, List.take_succ_cons, List.take_zero]
    exact at_leBytes2 op ho
  have e4 : at_ (cmdBlock op pay) 4 2 = pay.length := by
    simp only [at_, cmdBlock, cmdHead, leBytes, List.cons_append, List.nil_append, List.drop_succ_cons, List.drop_zero, List.take_succ_cons,
      List.take_zero]
    exact at_leBytes2 pay.length (by omega)
  have e2 : at_ (cmdBlock op pay) 2 2 = 1 := rfl
  have e6 : at_ (cmdBlock op pay) 6 2 = 0 := rfl
  have e8 : at_ (cmdBlock op pay) 8 4 = 7 := rfl
  have e12 : at_ (cmdBlock op pay) 12 4 = 0 := rfl
  have ep : ((cmdBlock op pay).drop 16).take pay.length = pay := by
    simp only [cmdBlock, cmdHead, leBytes, List.cons_append, List.nil_append, List.drop_succ_cons, List.drop_zero, List.append_assoc,
      List.take_left']
  have hk' : k.val ≠ 1 := fun e => hk (Fin.ext e)
  have hs := findSession_cmdS op pay code f k hk'
  have hn := isNext_cmdS op pay code f k hk'
  refine ⟨?_, rfl, ?_, ?_, ht, by simp only [cmdT, Fin.isValue, Fin.val_zero]⟩
  · have hr' : smRuns (cmdS op pay code f k) = true := hr
    have hw' : (cmdS op pay code f k).sm.cmdWait.isNone = true := hw
    show rowTakes (cmdS op pay code f k) op k 0 = true
    rw [rowTakes]
    simp only [hb, e0, hr', hw', hn]
    simp
  · show openCmd (takeSlot (cmdS op pay code f k) k 0) k 0 (blockAt (cmdS op pay code f k) k 0) = .ok (cmdOf op pay code k)
    rw [hb, openCmd]
    simp only [e0, e2, e4, e6, e8, e12, ep, hs]
    simp [cmdOf]
    omega
  · show sessionCheck (cmdOf op pay code k) (blockAt (cmdS op pay code f k) k 0) = none
    rw [hb, sessionCheck]
    have ed : ((cmdBlock op pay).drop 240).take 16 = (leBytes 32 (Config.hmac 0 ((cmdHead op pay).take (16 + pay.length))).toNat).take 16 := by
      rw [cmdBlock, List.drop_append_of_le_length (by omega), List.drop_of_length_le (by omega), List.nil_append, List.take_take, Nat.min_self]
    have et : (cmdBlock op pay).take (16 + pay.length) = (cmdHead op pay).take (16 + pay.length) := by
      rw [cmdBlock, List.take_append_of_le_length (by omega)]
    show (if _ then _ else _) = none
    rw [if_neg (not_not_intro (ed.trans (by rw [← et]; rfl)))]
    rfl

/-- Every command's row runs in some state: a payload of the least length, or of one that its length fields ask for, in a session of its
floor. POWER_REQ is in the list. -/
theorem serves_all : [(0x0001, 1, 1), (0x0002, 68, 1), (0x0003, 0, 1), (0x0101, 0, 1), (0x0102, 0, 4), (0x0103, 2, 4), (0x0104, 20, 1), (0x0201, 7, 2),
    (0x0202, 8, 2), (0x0203, 2, 2), (0x0204, 6, 1), (0x0301, 5, 3), (0x0302, 4, 3), (0x0303, 2, 3), (0x0304, 4, 5), (0x0401, 4, 3), (0x0402, 22, 3),
    (0x0403, 1, 3), (0x0404, 72, 3), (0x0501, 7, 2), (0x0502, 3, 2), (0x0503, 2, 2), (0x0504, 2, 1), (0x0601, 2, 2), (0x0602, 4, 2), (0x0701, 8, 1),
    (0x0702, 10, 1), (0x0703, 2, 1), (0x0704, 2, 2), (0x0705, 2, 2), (0x0801, 18, 2), (0x0802, 10, 2), (0x0803, 12, 3), (0x0804, 8, 4), (0x0901, 36, 2),
    (0x0902, 8, 3), (0x0A01, 6, 2), (0x0A02, 6, 2), (0x0A03, 24, 3), (0x0B01, 8, 4), (0x0B02, 12, 1), (0x0C01, 6, 4), (0x0D01, 8, 3), (0x0D02, 0, 4),
    (0x0D03, 8, 3), (0x0E01, 0, 4), (0x0E02, 36, 1), (0x0E03, 1, 1), (0x0E04, 1, 1), (0x0E05, 12, 1), (0x0F01, 4, 5), (0x0F02, 4, 1)].all
      (fun e => served e.1 (List.replicate e.2.1 0) e.2.2) = true := by decide +kernel

/-- A command's row runs, and the claim holds where it starts. -/
def runsAt (op : Nat) (pay : List Byte) (p : State → Cmd → Bool) (code : Nat := 1) (f : State → State := id) (k : Fin 3 := 0) : Bool :=
  served op pay code f k && p (cmdT op pay code f k) (cmdOf op pay code k)

/-- A change of the stage manager's own state. -/
def withSm (f : Sm → Sm) (s : State) : State := { s with sm := f s.sm }

/-- One OWNER key in slot 0. -/
def keyed (s : State) : State := withSm (fun m => { m with keys := [(0, ⟨5, 1⟩)] }) s

/-- A command of set 1, slot 0, by an image of CID 3. -/
def imgS (op : Nat) (pay : List Byte) : State :=
  let b := leBytes 2 op ++ leBytes 2 1 ++ leBytes 2 pay.length ++ leBytes 2 0 ++ leBytes 4 0 ++ leBytes 4 0 ++ pay ++ List.replicate (240 - pay.length) 0
  withSm (fun m => { m with
    images := [⟨3, [], [⟨16, 0, []⟩], [], [], [(0, 0, 1)], []⟩]
    slotBytes := (List.range' 2048 256).zip b }) (liveS.setFlag Adr.mb1State 0 true)

/-- The command that the stage manager reads there. -/
def imgOf (op : Nat) (pay : List Byte) : Cmd := ⟨1, 0, op, 1, pay, none, 3⟩

/-- A command of an image runs, and the claim holds where it starts. -/
def imgRuns (op : Nat) (pay : List Byte) (p : State → Cmd → Bool) : Bool :=
  let s := imgS op pay
  rowTakes s op 1 0 && (match openCmd (takeSlot s 1 0) 1 0 (blockAt s 1 0) with
    | .ok c => c == imgOf op pay
    | .error _ => false) && (sessionCheck (imgOf op pay) (blockAt s 1 0)).isNone && decide (tableCheck (imgOf op pay) = none) &&
  p (acceptSeq (takeSlot s 1 0) (imgOf op pay)) (imgOf op pay)

theorem serves_img (op : Nat) (pay : List Byte) (p : State → Cmd → Bool) (h : imgRuns op pay p = true) :
    Serves op 1 0 (imgS op pay) (acceptSeq (takeSlot (imgS op pay) 1 0) (imgOf op pay)) (imgOf op pay) := by
  simp only [imgRuns, Bool.and_eq_true, decide_eq_true_eq, Option.isNone_iff_eq_none] at h
  obtain ⟨⟨⟨⟨hr, ho⟩, hs⟩, ht⟩, -⟩ := h
  refine ⟨hr, rfl, ?_, hs, ht, rfl⟩
  show openCmd (takeSlot (imgS op pay) 1 0) 1 0 (blockAt (imgS op pay) 1 0) = .ok (imgOf op pay)
  generalize openCmd (takeSlot (imgS op pay) 1 0) 1 0 (blockAt (imgS op pay) 1 0) = x at ho ⊢
  cases x with
  | error e => simp at ho
  | ok c => simpa using ho

theorem wit_CommandService :
    (rowTakes State.reset 0x0101 0 0 = false) ∧
    ([(0x0005, [1, 1, 1, 0, 0, 0, 0, 0]), (0x0101, [1, 0, 0, 0, 1, 0, 0, 0])].all (fun (e : Nat × List Byte) =>
      rowTakes (withSm (fun m => { m with slotState := [(0, 1)], rung := [0], slotBytes := (List.range' 0 8).zip (leBytes 2 e.1 ++ e.2) }) liveS)
        0x0101 0 0)) = true ∧
    sessionless State.reset 0 0x0102 = false ∧ sessionless State.reset 0 0x0101 = true ∧ sessionOf State.reset 0 = none ∧
    served 0x0101 [] 1 = true ∧ sessionOf (cmdS 0x0101 [] 1) 0 = some (sessS 1) ∧ (cmdRow 0x0005).isNone = true ∧
    ((match cmdRow 0x0104 with
      | some r => !meetsFloor (cmdOf 0x0104 [] 4) r && meetsFloor (cmdOf 0x0104 (List.replicate 20 1) 1) r && decide (r.lo = 20 ∧ r.hi = 20) &&
          decide (r.zero = [1, 2, 3, 13, 14, 15])
      | none => false) = true) ∧
    (liveS.flag (Adr.mb1Own 0) 16 = false ∧ (liveS.setFlag (Adr.mb1Own 0) 16 true).flag (Adr.mb1Own 0) 16 = true) ∧
    ((cmdOf 0x0101 []).seq ≠ 0xFFFF ∧ (leBytes 4 7).length ≤ 224) := by decide +kernel

/-- A session-less IDENTIFY in slot 0 leaves the slot DONE and the part ready for the next command (R471, R490). -/
theorem test_identify : (after (.identify 0 0) (withSm (fun m => { m with
    slotState := [(0, 1)], rung := [0], slotBytes := (List.range' 0 4).zip [1, 1, 1, 0] }) liveS)).map (fun t => (slotState t 0 0, t.sm.rung)) =
    some (3, []) := by decide +kernel

theorem wit_CommandsSessions :
    [runsAt 0x0001 [8] (fun _ c => 8 ≤ c.at 0 1), runsAt 0x0001 [7] (fun t _ => (keySlot t 7).code == 0),
      runsAt 0x0001 [0] (fun t _ => (keySlot t 0).code == 1 && (lockout t 0).lock == 0 && (openOf t 0).isNone) 1 keyed,
      runsAt 0x0001 [0] (fun t _ => (lockout t 0).lock == 60) 1 (fun s => withSm (fun m => { m with lockouts := [(0, ⟨0, 6, 60⟩)] }) (keyed s)),
      runsAt 0x0001 [0] (fun t _ => (List.range 4).all (fun i => (openOf t i).isSome)) 1 (fun s => withSm (fun m => { m with
        opens := (List.range 4).map (fun i => (i, some ⟨1, 0, 0, 0, 0⟩)) }) (keyed s))].all id = true ∧
    (let o : OpenRec := ⟨1, 0, 0, 0, 0⟩
     let pay := [1, 0, 0, 0] ++ List.replicate 64 (0 : Byte)
     let opened := fun (f : Sm → Sm) (s : State) => withSm (fun m => { f m with opens := [(0, some o)] }) (keyed s)
     [runsAt 0x0002 pay (fun t c => (openOf t 0).isNone && c.at 0 4 == 1),
      runsAt 0x0002 pay (fun t c => openOf t 0 == some o && c.at 0 4 == 1 && o.set == c.set && (lockout t 0).lock == 0 && decide ((lockout t 0).fails < 4))
        1 (opened id),
      runsAt 0x0002 pay (fun t _ => decide (4 ≤ (lockout t 0).fails) && (lockout t 0).lock == 0) 1
        (opened (fun m => { m with lockouts := [(0, ⟨4, 0, 0⟩)] })),
      runsAt 0x0002 pay (fun t _ => (lockout t 0).lock == 1) 1 (opened (fun m => { m with lockouts := [(0, ⟨0, 1, 1⟩)] })),
      runsAt 0x0002 pay (fun t _ => (sessionOf t 1).isNone && (sessionOf t 0).isSome) 1 (opened id)].all id = true) ∧
    [runsAt 0x0003 [] (fun _ c => c.sess.isSome), runsAt 0x0101 [] (fun _ _ => true), runsAt 0x0102 [] (fun _ _ => true) 4,
      runsAt 0x0103 [1, 0] (fun t _ => t.sm.jobs.isEmpty) 4,
      runsAt 0x0103 [1, 0] (fun t c => !c.byImage && (jobOf t 0).isSome) 4 (withSm (fun m => { m with jobs := [(0, some ⟨1, .format 0, true, 0, 0, [], 0⟩)] })),
      runsAt 0x0103 [1, 0] (fun t c => !c.byImage && (jobOf t 8).isSome) 4 (withSm (fun m => { m with jobs := [(8, some ⟨1, .format 0, false, 0, 0, [], 0⟩)] })),
      imgRuns 0x0103 [1, 0] (fun _ c => c.byImage && c.cid == 3)].all id = true ∧
    [runsAt 0x0104 ([16] ++ List.replicate 19 0) (fun _ c => 16 ≤ c.at 0 1),
      runsAt 0x0104 ([1, 0, 0, 0, 9, 0, 0, 0] ++ List.replicate 12 0) (fun _ c => decide (c.at 4 4 < 10)),
      runsAt 0x0104 ([3, 0, 0, 0, 10, 0, 0, 0] ++ List.replicate 12 0) (fun _ c => c.at 8 4 == 0),
      runsAt 0x0104 ([4, 0, 0, 0] ++ List.replicate 8 0 ++ [2] ++ List.replicate 7 0) (fun _ c => 2 ≤ c.at 12 1),
      runsAt 0x0104 ([8] ++ List.replicate 15 0 ++ [0, 4, 1, 0]) (fun _ c => c.at 16 4 == 0x10400),
      runsAt 0x0104 ([3, 0, 0, 0, 0x80, 0x51, 1, 0, 0x0F, 0xC2, 1, 0] ++ List.replicate 8 0) (fun _ c => c.at 4 4 == 86400)].all id = true ∧
    [runsAt 0x0201 [0, 0, 0, 3, 0, 0, 5] (fun t c => c.at 0 6 == 0x3000000 && grantedTo t 0x3000000 1 0 == false && !meetsReserved t 0x3000000 1 &&
        !rangeError t 0x3000000 1 && !coversAbsent t 0x3000000 1) 2,
      runsAt 0x0201 [0, 0, 0, 0, 0, 1, 5] (fun t c => !winOpen t (winOf (c.at 0 6)) && oneWindow (c.at 0 6) 1) 2,
      runsAt 0x0201 [0xFF, 0xFF, 0xFF, 2, 0, 0, 5] (fun _ c => !oneWindow (c.at 0 6) 1) 2,
      runsAt 0x0202 [0, 0, 0, 3, 0, 0, 8, 0] (fun _ c => 8 ≤ c.at 6 1) 2, runsAt 0x0202 [0, 0, 0, 3, 0, 0, 4, 0] (fun _ c => c.code == 2) 2,
      runsAt 0x0202 [0, 0, 0, 3, 0, 0, 7, 0] (fun t _ => !inWindow 0x3000000 && (jobOf t 0).isNone),
      runsAt 0x0202 [0, 0, 0, 0, 0, 1, 1, 0] (fun t _ => inWindow 0x10000000000 && !winOpen t 0) 2].all id = true ∧
    (let img : Image := ⟨3, [], [⟨64, 1, []⟩], [], [], [(0, 0, 1)], []⟩
     let has := withSm (fun m => { m with images := [img] })
     [runsAt 0x0203 [3, 0] (fun t _ => (imageOfCid t 3).isNone) 2, runsAt 0x0203 [3, 0] (fun t _ => (imageOfCid t 3).isSome && !imageStarted t img) 2 has,
      runsAt 0x0204 [0, 0, 0, 3, 0, 0] (fun t _ => !inWindow 0x3000000 && (match checkOverlay t 0x3000000 with
        | (_, .error _) => true
        | _ => false)),
      runsAt 0x0301 [3, 0, 64, 0, 2] (fun t c => imageOfCid t 3 == some img && uibPresent 64 && 2 ≤ c.at 4 1) 3 has,
      runsAt 0x0301 [3, 0, 64, 0, 0] (fun t _ => !(rolesAt img 64).isEmpty && (rolesAt img 64).all (fun r => !(t.role r).started &&
        coreOn t (coreOf r) && !coreDark t (coreOf r))) 3 has,
      runsAt 0x0301 [3, 0, 9, 0, 0] (fun _ _ => !uibPresent 9) 3 has, runsAt 0x0301 [2, 0, 9, 0, 0] (fun t _ => (imageOfCid t 2).isNone) 3 has,
      imgRuns 0x0301 [3, 0, 9, 0, 0] (fun t c => c.byImage && (imageOfCid t 3).isSome && !uibPresent 9),
      imgRuns 0x0301 [3, 0, 65, 0, 0] (fun t c => c.byImage && uibPresent 65 && (match imageOfCid t 3 with
        | some i => (rolesAt i 65).isEmpty
        | none => false)),
      runsAt 0x0302 [3, 0, 64, 0] (fun t _ => imageOfCid t 3 == some img && uibPresent 64) 3 has,
      runsAt 0x0303 [9, 0] (fun _ _ => !uibIsCore 9) 3, runsAt 0x0303 [64, 0] (fun t _ => uibIsCore 64 && !coreDark t (coreOfUib 64)) 3,
      runsAt 0x0303 [64, 0] (fun t _ => uibIsCore 64 && coreDark t (coreOfUib 64)) 3 (fun s => goDark s 0 1 0),
      runsAt 0x0304 [9, 0, 0, 0] (fun _ _ => !uibPresent 9) 5, runsAt 0x0304 [64, 0, 2, 0] (fun _ c => 2 ≤ c.at 2 1) 5,
      runsAt 0x0304 [64, 0, 1, 16] (fun _ c => 16 ≤ c.at 3 1) 5, runsAt 0x0304 [64, 0, 1, 15] (fun _ c => c.at 2 1 == 1) 5].all id = true) := by
  decide +kernel

/-! ### Commands of power, wear and integrity -/

/-- A core's retirement awaits approval, with a given understudy fenced. -/
def pendS (full : Bool) (s : State) : State :=
  (withSm (fun m => { m with pendingRet := [0] }) s).setFlag (Adr.tmap 0) 20 full

/-- A job runs. -/
def jobbed (k : JobKind) (s : State) : State := withSm (fun m => { m with jobs := [(0, some ⟨1, k, true, 0, 0, [], 0⟩)] }) s

theorem wit_CommandsPower :
    [runsAt 0x0401 [64, 0, 0, 0] (fun _ c => c.at 2 1 == 0) 3, runsAt 0x0401 [64, 0, 4, 0] (fun _ c => c.at 2 1 == 4) 3,
      runsAt 0x0401 [64, 0, 1, 2] (fun _ c => 2 ≤ c.at 3 1) 3, runsAt 0x0401 [64, 0, 1, 1] (fun _ c => c.code == 3 && (c.at 3 1).testBit 0) 3,
      imgRuns 0x0401 [64, 0, 1, 0] (fun t c => c.byImage && !imageMayPower t c.cid 64),
      runsAt 0x0401 [9, 0, 1, 0] (fun t _ => (powerRefused t 9 1 false).isSome) 3,
      runsAt 0x0401 [64, 0, 1, 0] (fun t _ => (powerRefused t 64 1 false).isNone && (powerAct t 0 0 64 1 false).sm.cmdWait.isNone) 3,
      runsAt 0x0401 [16, 0, 1, 0] (fun t _ => (powerRefused t 16 1 false).isNone && (powerAct t 0 0 16 1 false).sm.cmdWait.isSome) 3
        (fun s => setDomState s 0 2),
      runsAt 0x0401 [64, 0, 3, 1] (fun t c => c.code == 5 && (powerRefused t 64 3 true).isNone) 5].all id = true ∧
    (uibPresent 9 = false ∧ uibPresent 16 = true ∧ 242 ∈ actedUnits State.reset 0 ∧ (actedUnits State.reset 64).contains 242 = false ∧
      ((actedRoles (withRole 0 (holding 0)) 64).filter (fun r => ((withRole 0 (holding 0)).role r).started)).isEmpty = false ∧
      roleWaits (withRole 0 (holding 0)) 0 = false ∧ 243 ∈ actedUnits State.reset 243 ∧ 248 ∈ actedUnits State.reset 248 ∧
      anyClaim (withSm (fun m => { m with claims := [(0, 1, 3)] }) State.reset) = true ∧
      ((actedRoles (heldRole true true) 64).find? (fun r => ((heldRole true true).role r).onHold)) = some 0) ∧
    (let s := jobbed (.format 0) State.reset
     (runningJobs s).any (fun j => match jobUnit j.kind s with
       | some v => (actedUnits s 243).contains v
       | none => false) = true) ∧
    (powerKeys State.reset 16 ≠ [] ∧ (powerKeys State.reset 16).any (fun k => k < 65 && k != 57 && k != 58) = true) ∧
    (let s := liveS.setField (Adr.uibPwrreq 16) 3 2 1
     uibPresent 16 = true ∧ s.field (Adr.uibPwrreq 16) 3 2 = 1 ∧ smRuns s = true ∧ s.sm.cmdWait = none ∧ rowTakes s 0x0401 0 0 = false ∧
      (List.range 251).all (fun u => liveS.field (Adr.uibPwrreq u) 3 2 != 1) = true ∧ (powerRefused s 16 0 false).isNone = true) ∧
    [runsAt 0x0402 ([6] ++ List.replicate 21 0) (fun _ c => 6 ≤ c.at 0 1) 3, runsAt 0x0402 ([5, 2] ++ List.replicate 20 0) (fun _ c => 2 ≤ c.at 1 1) 3,
      runsAt 0x0402 ([5, 1] ++ List.replicate 20 0) (fun _ c => c.code == 3) 3, runsAt 0x0402 ([0] ++ List.replicate 21 0) (fun _ c => c.at 0 1 == 0) 3,
      runsAt 0x0402 ([5] ++ List.replicate 21 0) (fun t _ => houseNow t == 0 && (runningJobs t).isEmpty && (t.roles.filter (fun e => e.2.onHold)).isEmpty) 3,
      runsAt 0x0402 ([2] ++ List.replicate 21 0) (fun t _ => t.sm.images.isEmpty) 3,
      runsAt 0x0402 ([4] ++ List.replicate 21 0) (fun t _ => t.sm.walkNext.isNone) 3,
      runsAt 0x0402 ([5] ++ List.replicate 21 0) (fun t _ => !(runningJobs t).isEmpty) 3 (jobbed (.format 0)),
      runsAt 0x0402 ([5] ++ List.replicate 21 0) (fun t _ => Sparse.wf (fun _ => Role.reset) t.roles && !(t.roles.filter (fun e => e.2.onHold)).isEmpty) 3
        (fun s => s.setRole 0 ((heldRole true true).role 0)),
      runsAt 0x0402 ([5, 1] ++ List.replicate 20 0) (fun t _ => !(t.roles.filter (fun e => e.2.onHold)).isEmpty) 5
        (fun s => s.setRole 0 ((heldRole true true).role 0)),
      runsAt 0x0402 ([2] ++ List.replicate 21 0) (fun t _ => t.sm.images.any (fun i => imageStarted t i && i.segs.any (fun x => !segmentKept [] x))) 3
        (fun s => (withSm (fun m => { m with images := [⟨3, [(0, 0x4000)], [⟨64, 1, []⟩], [], [], [], []⟩] }) s).setRole 0
          { holding 0 with ht := { sramT with cid := 3 } }),
      runsAt 0x0403 [46] (fun _ c => 45 < c.at 0 1) 3, runsAt 0x0403 [45] (fun t c => t.sm.vid != c.at 0 1) 3,
      runsAt 0x0403 [30] (fun t c => t.sm.vid == c.at 0 1) 3].all id = true ∧
    [runsAt 0x0404 (List.replicate 72 0) (fun _ c => c.at 0 4 == 0) 3,
      runsAt 0x0404 ([1, 0, 0, 0, 0, 0, 0, 0] ++ List.replicate 64 0) (fun _ c => c.at 0 4 == 1) 3,
      runsAt 0x0404 ([1, 0, 0, 0, 0, 0, 0, 0, 0, 0x10] ++ List.replicate 62 0) (fun _ c => 0xFFF < c.at 8 2) 3,
      runsAt 0x0404 ([1, 0, 0, 0, 0, 0, 0, 0, 1] ++ List.replicate 63 0) (fun _ c => c.at 10 2 < c.at 8 2) 3,
      runsAt 0x0501 [49, 0, 1, 0, 1, 0, 0] (fun _ c => c.at 0 2 < 50) 2, runsAt 0x0501 [50, 0, 0, 0, 1, 0, 0] (fun _ c => c.at 2 1 == 0) 2,
      runsAt 0x0501 [44, 1, 15, 0, 0, 0, 0] (fun _ c => c.at 4 2 == 0 && c.at 0 2 == 300) 2,
      runsAt 0x0501 [50, 0, 1, 0, 1, 0, 2] (fun _ c => c.at 6 1 == 2) 2, runsAt 0x0501 [50, 0, 1, 0, 1, 0, 1] (fun _ c => c.at 6 1 == 1) 2].all id = true ∧
    [runsAt 0x0502 [9, 0, 0] (fun _ _ => !uibIsCore 9) 2, runsAt 0x0502 [64, 0, 2] (fun _ c => c.at 2 1 == 2) 2,
      runsAt 0x0502 [64, 0, 0] (fun t _ => !t.sm.pendingRet.contains (physOf t 0)) 2,
      runsAt 0x0502 [64, 0, 0] (fun t _ => coreOfUib 64 == 0 && coreCarried t 0 && t.sm.pendingRet.contains (physOf t 0)) 2 (pendS false),
      runsAt 0x0502 [64, 0, 1] (fun t _ => !coreBusy t 0 && spareFree t 0) 2 (pendS false),
      runsAt 0x0502 [64, 0, 1] (fun t _ => !coreBusy t 0 && !spareFree t 0) 2 (pendS true),
      runsAt 0x0502 [64, 0, 1] (fun t _ => coreBusy t 0) 2 (fun s => jobbed (.repair 0) (pendS false s)),
      runsAt 0x0503 [9, 0] (fun _ _ => !uibIsCore 9) 2, runsAt 0x0503 [64, 0] (fun t _ => coreCarried t 0 && !coreBusy t 0 && spareFree t 0) 2,
      runsAt 0x0503 [64, 0] (fun t _ => !spareFree t 0) 2 (pendS true), runsAt 0x0503 [64, 0] (fun t _ => coreBusy t 0) 2 (jobbed (.repair 0)),
      runsAt 0x0503 [64, 0] (fun t _ => !coreCarried t 0) 2 (fun s => s.setField (Adr.tmap 0) 2 0 7)].all id = true ∧
    [runsAt 0x0504 [32, 0] (fun _ c => c.at 0 1 == 32), runsAt 0x0504 [31, 4] (fun _ c => c.at 1 1 == 4), runsAt 0x0504 [0x89, 1] (fun _ c => c.at 1 1 == 1),
      runsAt 0x0504 [31, 3] (fun t _ => t.sm.records.isEmpty),
      runsAt 0x0504 [31, 3] (fun t _ => t.sm.records[0]? == some (2, 31 + 3 * 32)) 1 (withSm (fun m => { m with records := [(2, 31 + 3 * 32)] })),
      runsAt 0x0504 [0x80, 0] (fun t _ => decide (128 ≤ t.sm.records.length)) 1 (withSm (fun m => { m with records := List.replicate 128 (3, 0) })),
      runsAt 0x0601 [2, 1] (fun _ c => c.at 0 1 == 2) 2, runsAt 0x0601 [1, 0] (fun _ c => c.at 1 1 == 0) 2, runsAt 0x0601 [1, 169] (fun _ c => c.at 1 1 == 169) 2,
      runsAt 0x0601 [1, 168] (fun t _ => domOn t 51) 2, runsAt 0x0601 [1, 1] (fun t _ => !domOn t 51) 2 (fun s => setDomState s 51 2)].all id = true ∧
    [runsAt 0x0602 [144, 0, 0, 0] (fun _ c => c.at 0 1 == 144) 2, runsAt 0x0602 [0, 2, 0, 0] (fun _ c => c.at 1 1 == 2) 2,
      runsAt 0x0602 [0, 0, 128, 0] (fun _ c => c.at 2 2 == 128) 2, runsAt 0x0602 [0, 1, 80, 0] (fun _ c => c.at 2 2 == 80) 2,
      runsAt 0x0602 [0, 0, 127, 0] (fun t _ => powered t (bankBase 0) && domOn t 51 && (repFree t 0 0).isSome && (List.range 32).all (fun n => repState t n != 1)) 2,
      runsAt 0x0602 [0, 0, 127, 0] (fun t _ => !powered t (bankBase 0)) 2 (fun s => setDomState s 0 2),
      runsAt 0x0602 [0, 0, 127, 0] (fun t _ => (repFree t 0 0).isNone) 2 (fun s => (List.range 32).foldl (fun s n => s.setField (Adr.repEntry n) 23 22 2) s),
      runsAt 0x0602 [0, 0, 127, 0] (fun t _ => repState t 0 == 1 && t.field (Adr.repEntry 0) 17 9 == 127) 2 (fun s =>
        s.setReg (Adr.repEntry 0) (BitVec.ofNat 32 (127 * 2 ^ 9 + 2 ^ 22)))].all id = true := by decide +kernel

/-- Window 0 open: its capacity and VALID. -/
def opened (s : State) : State := s.setReg (Adr.cxlWin 0) 0x3000

/-- Two ports, the first up. -/
def ported (s : State) : State := (s.setReg Adr.cxlCfg 1).setFlag (Adr.cxlLink 0) 0 true

/-- Device 0 known, of 256 units. -/
def known (s : State) : State := { ported s with cxl := { s.cxl with dev0 := some ⟨1, 256, false⟩ } }

/-- A started image of CID 3 with a grant. -/
def granted (base len : Nat) (s : State) : State :=
  (withSm (fun m => { m with images := [⟨3, [], [⟨64, 1, [⟨base, len, 7, 0, 0, 0⟩]⟩], [], [], [], []⟩] }) s).setRole 0
    { holding 0 with ht := { sramT with cid := 3 } }

theorem wit_CommandsCxl :
    [runsAt 0x0701 [3, 0, 0, 0, 0, 0, 64, 0] (fun _ c => c.at 0 1 == 3), runsAt 0x0701 [2, 3, 0, 0, 0, 0, 64, 0] (fun _ c => c.at 1 1 == 3),
      runsAt 0x0701 [2, 2, 1, 0, 0, 0, 64, 0] (fun _ c => c.at 2 1 == 1), runsAt 0x0701 [1, 2, 2, 2, 0, 0, 64, 0] (fun _ c => c.at 3 1 == 2),
      runsAt 0x0701 [1, 2, 2, 1, 5, 0, 64, 0] (fun _ c => c.at 4 1 == 5), runsAt 0x0701 [1, 2, 2, 1, 4, 0, 63, 0] (fun _ c => c.at 6 2 == 63),
      runsAt 0x0701 [1, 2, 2, 1, 4, 0, 0, 40] (fun t c => c.at 6 2 == 10240 && domOn t 54),
      runsAt 0x0701 [1, 2, 2, 1, 4, 0, 64, 0] (fun t _ => !domOn t 54) 1 (fun s => setDomState s 54 2)].all id = true ∧
    [runsAt 0x0702 [2, 0, 0, 0, 0, 0, 0, 0, 0, 0] (fun _ c => c.at 0 1 == 2), runsAt 0x0702 [1, 4, 0, 0, 0, 0, 0, 0, 0, 0] (fun _ c => c.at 1 1 == 4),
      runsAt 0x0702 [1, 3, 0, 0, 0, 0, 0, 0, 0, 2] (fun _ c => c.at 9 1 == 2), runsAt 0x0702 [0, 0, 0, 0, 1, 0, 0, 0, 0, 1] (fun t _ => !portExists t 0),
      runsAt 0x0702 [0, 0, 0, 0, 1, 0, 0, 0, 2, 1] (fun t c => portExists t 0 && c.at 8 1 == 2) 1 ported,
      runsAt 0x0702 [0, 0, 0, 0x10, 1, 0, 0, 0, 0, 1] (fun _ c => c.at 2 2 == 0x1000) 1 ported,
      runsAt 0x0702 [0, 0, 0, 0, 0, 0x20, 0, 0, 0, 1] (fun _ c => c.at 4 2 == 0x2000) 1 ported,
      runsAt 0x0702 [0, 0, 0, 0, 1, 0, 0, 0x10, 0, 0] (fun _ c => c.at 6 2 == 0x1000) 1 ported,
      runsAt 0x0702 [0, 0, 0, 0, 1, 0, 0, 0, 0, 1] (fun t _ => t.cxl.dev0.isNone) 1 ported,
      runsAt 0x0702 [0, 0, 0, 0, 1, 0, 0, 0, 0, 1] (fun t _ => !domOn t 54) 1 (fun s => setDomState (known s) 54 2),
      runsAt 0x0702 [0, 0, 0, 0, 1, 0, 0, 0, 0, 1] (fun t _ => busyWindow t 0) 1 (fun s => jobbed (.format 0) (known s)),
      runsAt 0x0702 [0, 0, 0, 0, 1, 0, 0, 0, 0, 1] (fun t _ => decoderGranted ((t.setReg (Adr.hdmMap 0 0) 0x10000).setReg (Adr.hdmCtl 0 0) 0x4000) 0 0) 1
        (fun s => granted 0x10000000000 64 (known s)),
      runsAt 0x0702 [0, 0, 0, 0, 1, 0, 0, 0, 0, 1] (fun t _ => t.cxl.dev0.isSome && !busyWindow t 0 && !busyWindow t 2 && !decoderGranted t 0 0 &&
        decodersLegal ((t.setReg (Adr.hdmMap 0 0) 0x10000).setReg (Adr.hdmCtl 0 0) 0x4000)) 1 known,
      runsAt 0x0702 [0, 0, 0, 0, 1, 0, 0, 0, 1, 1] (fun t _ => winC t == 0 &&
        decoderRule ((t.setReg (Adr.hdmMap 0 0) 0x10000).setReg (Adr.hdmCtl 0 0) 0x5000) 0 0 == some 1) 1 known].all id = true ∧
    [runsAt 0x0703 [3, 0] (fun _ c => c.at 0 1 == 3), runsAt 0x0703 [2, 3] (fun _ c => c.at 1 1 == 3),
      runsAt 0x0703 [0, 0] (fun t _ => windowGranted t 0) 1 (granted 0x10000000000 64), runsAt 0x0703 [0, 0] (fun t _ => busyWindow t 0) 1 (jobbed (.format 0)),
      runsAt 0x0703 [2, 0] (fun t _ => !winOpen t 2), runsAt 0x0703 [0, 0] (fun t _ => winOpen t 0 && !windowGranted t 0 && !busyWindow t 0) 1 opened,
      runsAt 0x0703 [0, 1] (fun t _ => winOpen t 0 && jobFree t) 1 opened, runsAt 0x0703 [0, 2] (fun t _ => winOpen t 0) 1 opened].all id = true ∧
    [runsAt 0x0704 [2, 0] (fun _ c => c.at 0 1 == 2) 2, runsAt 0x0704 [1, 2] (fun _ c => c.at 1 1 == 2) 2, runsAt 0x0704 [1, 1] (fun t _ => !portExists t 1) 2,
      runsAt 0x0704 [0, 0] (fun t _ => !domOn t 54 && portExists t 0) 2 (fun s => setDomState (ported s) 54 2),
      runsAt 0x0704 [0, 0] (fun t _ => busyWindow t 0) 2 (fun s => jobbed (.format 0) (ported s)), runsAt 0x0704 [0, 0] (fun t _ => linkUp t 0) 2 ported,
      runsAt 0x0704 [0, 1] (fun t _ => linkUp t 0) 2 ported, runsAt 0x0704 [1, 0] (fun t _ => portExists t 1 && !linkUp t 1) 2 ported,
      runsAt 0x0704 [1, 1] (fun t _ => portExists t 1 && !linkUp t 1) 2 ported].all id = true ∧
    [runsAt 0x0705 [4, 0] (fun _ c => c.at 0 1 == 4) 2, runsAt 0x0705 [1, 2] (fun _ c => c.at 1 1 == 2) 2, runsAt 0x0705 [2, 3] (fun _ c => c.at 1 1 == 3) 2,
      runsAt 0x0705 [3, 64] (fun _ c => c.at 1 1 == 64) 2, runsAt 0x0705 [0, 1] (fun t _ => domOn t 54) 2,
      runsAt 0x0705 [0, 1] (fun t _ => !domOn t 54) 2 (fun s => setDomState s 54 2), runsAt 0x0705 [1, 0] (fun t _ => winC t != 2) 2,
      runsAt 0x0705 [1, 0] (fun t _ => winC t == 2 && t.sm.mirrorRec.isNone && linkUp t 0 && linkUp t 1) 2 (fun s =>
        ((ported s).setReg Adr.cxlCfg 0x21).setFlag (Adr.cxlLink 1) 0 true),
      runsAt 0x0705 [1, 0] (fun t _ => winC t == 2 && t.sm.mirrorRec.isNone && linkUp t 0 && !linkUp t 1) 2 (fun s => (ported s).setReg Adr.cxlCfg 0x21),
      runsAt 0x0705 [2, 2] (fun t _ => domOn t 54) 2, runsAt 0x0705 [3, 63] (fun t _ => !t.flag (Adr.cxlFail0 63) 0) 2,
      runsAt 0x0705 [3, 63] (fun t _ => t.flag (Adr.cxlFail0 63) 0) 2 (fun s => s.setFlag (Adr.cxlFail0 63) 0 true)].all id = true ∧
    (let p := fun (h e : Byte) (cx : List Byte) (n : List Byte) (bd : List Byte) => h :: e :: (cx ++ n ++ bd ++ [0, 0])
     [runsAt 0x0801 (p 2 0 [0, 0, 0, 3, 0, 0] [1, 0] [0, 0, 8, 3, 0, 0]) (fun _ c => c.at 0 1 == 2) 2,
      runsAt 0x0801 (p 0 2 [0, 0, 0, 3, 0, 0] [1, 0] [0, 0, 8, 3, 0, 0]) (fun _ c => c.at 1 1 == 2) 2,
      runsAt 0x0801 (p 0 1 [0, 0, 0, 3, 0, 0] [1, 0x80] [0, 0, 8, 3, 0, 0]) (fun _ c => c.at 8 2 == 0x8001) 2,
      runsAt 0x0801 (p 0 1 [1, 0, 0, 3, 0, 0] [1, 0] [0, 0, 8, 3, 0, 0]) (fun _ c => c.at 2 6 % 0x1000 == 1) 2,
      runsAt 0x0801 (p 0 1 [0, 0, 0, 3, 0, 0] [1, 0] [0, 0, 0, 3, 0, 0]) (fun _ _ => overlaps 0x3000000 64 0x3000000 0x8000) 2,
      runsAt 0x0801 (p 0 1 [0, 0, 0, 3, 0, 0] [1, 0] [0, 0, 8, 3, 0, 0]) (fun t _ => !hcPowered t 0) 2 (fun s => setDomState s 57 2),
      runsAt 0x0801 (p 0 1 [0, 0, 0, 3, 0, 0] [1, 0] [0, 0, 8, 3, 0, 0]) (fun t _ => busyHc t 0) 2 (jobbed (.playback 0)),
      runsAt 0x0801 (p 0 1 [0, 0, 0, 3, 0, 0] [1, 0] [0, 0, 8, 3, 0, 0]) (fun t _ => placeOk t 0 0x3000000 64 && placeOk t 0 0x3080000 0x8000 &&
        hcPowered t 0 && !busyHc t 0 && (hcOf t 0).todo.isEmpty && !(hcOf t 0).drain) 2].all id = true) ∧
    (let p := fun (h r : Byte) (b : List Byte) (z f : Byte) => h :: r :: (b ++ [z, f])
     [runsAt 0x0802 (p 2 0 [0, 0, 0, 0, 0, 1] 4 0) (fun _ c => c.at 0 1 == 2) 2, runsAt 0x0802 (p 1 4 [0, 0, 0, 0, 0, 1] 4 0) (fun _ c => c.at 1 1 == 4) 2,
      runsAt 0x0802 (p 1 3 [0, 0, 0, 0, 0, 1] 3 0) (fun _ c => c.at 8 1 == 3) 2, runsAt 0x0802 (p 1 3 [0, 0, 0, 0, 0, 1] 26 4) (fun _ c => c.at 9 1 == 4) 2,
      runsAt 0x0802 (p 1 3 [0, 0, 0, 3, 0, 0] 4 3) (fun _ _ => !oneWindow 0x3000000 0x11000) 2,
      runsAt 0x0802 (p 1 3 [0, 0, 0, 0, 0, 1] 4 3) (fun t _ => oneWindow 0x10000000000 0x11000 && !winOpen t 0) 2,
      runsAt 0x0802 (p 1 3 [0, 0, 0, 0, 0, 1] 4 1) (fun t _ => winOpen t 0 && hcPowered t 1 && !busyWindow t 0 && (playing t 1).isNone) 2 opened,
      runsAt 0x0802 (p 1 3 [0, 0, 0, 0, 0, 1] 4 2) (fun t _ => winOpen t 0) 2 opened,
      runsAt 0x0802 (p 1 3 [0, 0, 0, 0, 0, 1] 4 1) (fun t _ => winOpen t 0 && busyWindow t 0) 2 (fun s => jobbed (.imageLoad 0x10000000000 0 0) (opened s)),
      runsAt 0x0802 (p 1 0 [0, 0, 0, 0, 0, 1] 4 1) (fun t _ => playing t 1 == some (List.replicate 64 0)) 2 (fun s =>
        modHc (jobbed (.playback 1) (opened s)) 1 (fun h => { h with play := some (List.replicate 64 0) }))].all id = true) ∧
    (let p := fun (op : Byte) => [3, 0, op, 0, 1, 0, 0, 0, 0, 0, 0, 0]
     let on := fun (s : State) => s.setReg (Adr.hcCtl 0) 1
     [runsAt 0x0803 (p 0) (fun _ c => c.at 2 1 == 0) 3, runsAt 0x0803 (p 5) (fun _ c => c.at 2 1 == 5) 3,
      runsAt 0x0803 (p 1) (fun t _ => !t.flag (Adr.hcCtl 0) 0) 3 (fun s => s.setReg (Adr.hcCtl 0) 0),
      runsAt 0x0803 (p 4) (fun t _ => hcPowered t 0 && t.flag (Adr.hcCtl 0) 0 && !t.flag (Adr.hcCmd 0) 19 && (playing t 0).isNone) 3 on,
      runsAt 0x0803 (p 1) (fun t _ => t.flag (Adr.hcCmd 0) 19) 3 (fun s => (on s).setFlag (Adr.hcCmd 0) 19 true)].all id = true) ∧
    (let p := fun (h : Byte) (a : Byte) => [h, 0, a, 0, 0, 3, 0, 0]
     [runsAt 0x0804 (p 2 0) (fun _ c => c.at 0 1 == 2) 4, runsAt 0x0804 (p 1 1) (fun _ c => c.at 2 6 % 64 == 1) 4,
      runsAt 0x0804 (p 1 0) (fun t _ => !hcPowered t 1) 4 (fun s => setDomState s 58 2), runsAt 0x0804 (p 1 0) (fun t _ => busyHc t 1) 4 (jobbed (.playback 1)),
      runsAt 0x0804 (p 1 0) (fun t c => !busyHc t 1 && !t.flag (Adr.pbCtl 1) 1 && jobFree t && !inWindow 0x3000000 && !c.byImage &&
        readableB t 0x3000000 64 && descriptorOk ((List.range 64).map (fun i => byteAt t (0x3000000 + i))) && !grantedTo t 0 0 0 && !meetsReserved t 0 0) 4,
      runsAt 0x0804 (p 1 0) (fun t _ => !descriptorOk ((List.range 64).map (fun i => byteAt t (0x3000000 + i)))) 4 (fun s => { s with mem := [(0x3000001, 1)] }),
      runsAt 0x0804 (p 1 0) (fun t _ => match readMem (recallLoads t none 0x3000000 64) agentSm 0x3000000 64 with
        | (_, .error _) => true
        | _ => false) 4 (fun s => { s with cw := [(0x3000000 / 8, ⟨0, true⟩)] }),
      imgRuns 0x0804 (p 1 0) (fun t c => c.byImage && imageHolds t c.cid 0 0)].all id = true) := by decide +kernel

/-- Payload of CUE_ROUTE. -/
def routeP (ch : Nat) (src cs rt0 : Nat) (const : Byte := 0) : List Byte :=
  [0, 0] ++ leBytes 2 ch ++ leBytes 4 src ++ leBytes 4 cs ++ leBytes 4 rt0 ++ List.replicate 16 0 ++ [const, 0, 0, 0]

/-- A log of one record. -/
def logged (s : State) : State := { s with log := ⟨1, [⟨0, 12, 242, 5, 0, false, false, 0, []⟩]⟩ }

theorem wit_CommandsRegs :
    [runsAt 0x0901 (routeP 1024 0 0 0) (fun _ c => c.at 2 2 == 1024) 2, runsAt 0x0901 (routeP 1023 0 0 0 2) (fun _ c => c.at 32 1 == 2) 2,
      runsAt 0x0901 (routeP 5 0 0 0) (fun t _ => !domOn t 51) 2 (fun s => setDomState s 51 2),
      runsAt 0x0901 (routeP 5 0x10040 0 0x10200) (fun t c => (routeConflict t c).isSome) 2,
      runsAt 0x0901 (routeP 5 0x10040 0x10000 0) (fun t c => (routeConflict t c).isNone && badSheet (BitVec.ofNat 32 (c.at 8 4))) 2,
      runsAt 0x0901 (routeP 5 0x10040 0 0x10000) (fun t c => (routeConflict t c).isNone && !legalRoute 0 0) 2,
      runsAt 0x0901 (routeP 5 0x10001 0 0) (fun t c => (routeConflict t c).isNone && (evLatch 1).isNone) 2,
      runsAt 0x0901 (routeP 5 0x10040 0 0 1) (fun t c => (routeConflict t c).isNone && (evLatch 0x40).isSome && domOn t 51) 2].all id = true ∧
    [runsAt 0x0902 [0, 4, 0, 0, 0, 0, 0, 0] (fun _ c => c.at 0 2 == 1024) 3, runsAt 0x0902 [5, 0, 0, 0, 0, 0, 0, 0] (fun t _ => !domOn t 51) 3 (fun s => setDomState s 51 2),
      runsAt 0x0902 [5, 0, 0, 0, 0, 0, 0, 0] (fun t _ => (List.range 8).all (fun k => (t.latch (1184 + k)).full)) 3 (fun s =>
        (List.range 8).foldl (fun s k => s.setLatch (1184 + k) ⟨true, 0, 0, 0, 0, none, false, []⟩) s),
      runsAt 0x0902 [5, 0, 1, 2, 3, 4, 5, 6] (fun t _ => !(t.latch 1184).full) 3].all id = true ∧
    [runsAt 0x0A01 [0xFF, 0xF, 0, 1, 0, 0] (fun _ c => c.at 0 2 == 0xFFF) 2, runsAt 0x0A01 [3, 0, 5, 1, 0, 0] (fun _ c => c.at 2 1 == 5) 2,
      runsAt 0x0A01 [3, 0, 0, 2, 0, 0] (fun _ c => c.pay.length != 4 + 2 * c.at 3 1) 2, runsAt 0x0A01 [3, 0, 0, 1, 192, 0] (fun t _ => !itemOk t 0 192) 2,
      runsAt 0x0A01 [3, 0, 0, 1, 191, 0] (fun t _ => itemOk t 0 191 && !domOn t 59) 2 (fun s => setDomState s 59 2),
      runsAt 0x0A01 [3, 0, 0, 1, 191, 0] (fun t _ => itemOk t 0 191 && domOn t 59 && (claimConflict t 3 0 191).isNone) 2,
      runsAt 0x0A01 [3, 0, 0, 1, 191, 0] (fun t _ => (claimConflict t 3 0 191).isSome) 2 (fun s => claimItem 4 0 s 191),
      runsAt 0x0A02 [3, 0, 0, 1, 191, 0] (fun t _ => !holdsItem t 3 0 191) 2,
      runsAt 0x0A02 [3, 0, 0, 1, 191, 0] (fun t _ => holdsItem t 3 0 191 && padFunc t 191 == 0) 2 (fun s => claimItem 3 0 s 191),
      runsAt 0x0A02 [3, 0, 0, 1, 191, 0] (fun t _ => holdsItem t 3 0 191 && padFunc t 191 == 1) 2 (fun s =>
        (claimItem 3 0 s 191).setField (Adr.padOwn 191) 14 13 1),
      runsAt 0x0A03 (List.replicate 24 0xFF) (fun _ c => !c.byImage) 3, imgRuns 0x0A03 (List.replicate 24 0xFF) (fun t c => c.byImage && (padCid t 0).isNone),
      imgRuns 0x0A03 (List.replicate 24 0) (fun _ c => c.byImage)].all id = true ∧
    [runsAt 0x0B01 [0, 0, 0, 0, 0, 0, 1, 0] (fun _ c => !devWordAddr (c.at 0 6)) 4, runsAt 0x0B01 (leBytes 6 (Adr.tmrLoad 0) ++ [0, 0]) (fun _ c => c.at 6 1 == 0) 4,
      runsAt 0x0B01 (leBytes 6 (Adr.tmrLoad 0) ++ [53, 0]) (fun _ c => c.at 6 1 == 53) 4,
      runsAt 0x0B01 (leBytes 6 (Adr.tmrLoad 0) ++ [1, 0]) (fun t c => devWordAddr (c.at 0 6) && !pwmPosition t (c.at 0 6) && (peekDev t (c.at 0 6)).2.status == 0) 4,
      runsAt 0x0B01 (leBytes 6 (Adr.tmrLoad 0) ++ [1, 0]) (fun t c => (peekDev t (c.at 0 6)).2.status == 0x14) 4 (fun s => setDomState s 65 2)].all id = true ∧
    (loadError (setDomState State.reset 65 2) (Adr.tmrLoad 0) = true ∧ loadError State.reset (Adr.padCtl 0) = false ∧
      clockOn (State.reset.setFlag (Adr.xcStat 2) 0 false) (Adr.padCtl 0) = false ∧ clockOn State.reset (Adr.tmrLoad 0) = true ∧
      regionOf 0x10208000 = .port 0 ∧ loadError State.reset 0x10208000 = false ∧ (State.reset.queue 0).stages = []) ∧
    [runsAt 0x0B02 ([0, 0, 0, 0, 0, 0, 1, 0] ++ leBytes 4 1) (fun _ c => !devWordAddr (c.at 0 6)),
      runsAt 0x0B02 (leBytes 6 (Adr.tmrLoad 0) ++ [2, 0] ++ leBytes 4 1) (fun _ c => c.pay.length != 8 + 4 * c.at 6 1),
      runsAt 0x0B02 (leBytes 6 (Adr.smIdle) ++ [1, 0] ++ leBytes 4 1) (fun _ c => devWordAddr (c.at 0 6) && writeDenied (c.at 0 6)),
      runsAt 0x0B02 (leBytes 6 (Adr.slackbase 0 0) ++ [1, 0] ++ leBytes 4 1) (fun t c => !writeDenied (c.at 0 6) && !isPort (c.at 0 6) && !storeError t (c.at 0 6)),
      runsAt 0x0B02 (leBytes 6 0x10208000 ++ [1, 0] ++ leBytes 4 1) (fun _ c => isPort (c.at 0 6) && !writeDenied (c.at 0 6))].all id = true ∧
    [runsAt 0x0C01 [0, 0, 0, 0, 0, 0] (fun _ c => c.at 4 1 == 0) 4, runsAt 0x0C01 [0, 0, 0, 0, 14, 0] (fun _ c => c.at 4 1 == 14) 4,
      runsAt 0x0C01 [0, 0, 0, 0, 13, 2] (fun _ c => c.at 5 1 == 2) 4, runsAt 0x0C01 [0, 0, 0, 0, 13, 1] (fun _ c => c.code == 4 && (c.at 5 1).testBit 0) 4,
      runsAt 0x0C01 [0, 0, 0, 0, 13, 0] (fun t _ => t.log.recs.isEmpty) 4, runsAt 0x0C01 [0, 0, 0, 0, 1, 1] (fun t _ => t.log.recs.length == 1) 1 logged,
      runsAt 0x0D01 (List.replicate 8 1) (fun _ _ => true) 3, runsAt 0x0D02 [] (fun _ _ => true) 4, runsAt 0x0D03 (List.replicate 8 0) (fun _ c => c.at 0 8 == 0) 3,
      runsAt 0x0D03 (leBytes 8 1) (fun t _ => t.metro.toNat + t.sm.timeOff.toNat == 0) 3,
      runsAt 0x0D03 (leBytes 8 1) (fun t _ => t.metro.toNat + t.sm.timeOff.toNat == 2) 3 (fun s => { s with metro := 2 })].all id = true ∧
    [runsAt 0x0E01 [] (fun _ _ => true) 4, runsAt 0x0E02 ([8, 1] ++ List.replicate 34 0) (fun _ c => c.at 0 1 == 8),
      runsAt 0x0E02 ([7, 6] ++ List.replicate 34 0) (fun _ c => c.at 1 1 == 6), runsAt 0x0E02 ([0, 5] ++ List.replicate 34 0) (fun t _ => (keySlot t 0).code == 1) 1 keyed,
      runsAt 0x0E02 ([7, 5] ++ List.replicate 34 0) (fun t c => (keySlot t 7).code == 0 && c.sess.isSome), runsAt 0x0E03 [8] (fun _ c => c.at 0 1 == 8),
      runsAt 0x0E03 [7] (fun t _ => (keySlot t 7).code == 0), runsAt 0x0E03 [0] (fun t _ => (keySlot t 0).code == 1 && (keySlot t 1).code == 0) 1 keyed,
      runsAt 0x0E03 [0] (fun t _ => (keySlot t 0).code == 1 && (keySlot t 1).code == 1) 1 (withSm (fun m => { m with keys := [(0, ⟨5, 1⟩), (1, ⟨6, 1⟩)] })),
      runsAt 0x0E04 [1] (fun t _ => t.sm.overlay == some (9, 1) && t.sm.ovlRollback == 0) 1 (withSm (fun m => { m with overlay := some (9, 1) })),
      runsAt 0x0E04 [1] (fun t _ => t.sm.overlay.isNone), runsAt 0x0E05 ([16] ++ List.replicate 11 0) (fun _ c => c.at 0 1 == 16),
      runsAt 0x0E05 ([15] ++ List.replicate 11 0) (fun t _ => (patchUnit t 15).isNone),
      runsAt 0x0E05 ([15] ++ List.replicate 11 0) (fun t _ => (patchUnit t 15).isSome) 1 (withSm (fun m => { m with patches := [(15, some (1, 2))] })),
      runsAt 0x0F01 [64, 0, 0, 0] (fun _ c => c.set == 0) 5,
      runsAt 0x0F01 [64, 0, 0, 0] (fun t c => c.set == 2 && t.sm.debugDis) 5 (withSm (fun m => { m with debugDis := true })) 2,
      runsAt 0x0F01 [9, 0, 0, 0] (fun t c => c.set == 2 && !t.sm.debugDis && !uibPresent 9) 5 id 2,
      runsAt 0x0F01 [64, 0, 2, 0] (fun _ c => c.at 2 1 == 2) 5 id 2, runsAt 0x0F01 [64, 0, 1, 2] (fun _ c => c.at 3 1 == 2) 5 id 2,
      runsAt 0x0F01 [64, 0, 1, 1] (fun t c => c.set == 2 && !t.sm.debugDis && uibPresent 64 && c.at 2 1 == 1) 5 id 2,
      runsAt 0x0F01 [64, 0, 0, 1] (fun t c => c.set == 2 && !t.sm.debugDis && uibPresent 64 && c.sess.isSome) 5 id 2, runsAt 0x0F02 [0, 0, 0, 0] (fun _ c => c.at 0 4 == 0),
      runsAt 0x0F02 (leBytes 4 0x0D15AB1E) (fun t _ => (sessionOf t 0).isSome)].all id = true := by decide +kernel

/-! ### Ports and timed work of the stage manager -/

/-- Slot 3 of set 0 in a state. -/
def slotS (v : Nat) : State := withSm (fun m => { m with slotState := [(3, v)] }) liveS

/-- A doorbell word in house queue 320, and set 1's slot 0 owned. -/
def doorS (w : Word) (busy : Bool := false) : State :=
  ((liveS.setQueue 320 ⟨[⟨w, false, false, false, false, false, 0⟩], 0⟩).setReg (Adr.mb1Own 0) 0x10000).setFlag Adr.mb1State 0 busy

theorem wit_MailboxPorts :
    (portsAnswer State.reset = false ∧ portsAnswer liveS = true ∧ liveS.flag Adr.smStat 2 = true ∧ (liveS.setFlag Adr.smStat 2 false).flag Adr.smStat 2 = false) ∧
    ([0, 1, 2, 3].all (fun v => slotState (slotS v) 0 3 == v)) = true ∧
    ((0x300 : BitVec 16).toNat % 4 = 0 ∧ (0x301 : BitVec 16).toNat % 4 ≠ 0 ∧ (0x7FC : BitVec 16).toNat < 0x800) ∧
    (sessionCount liveS < 8 ∧ (List.range 8).all (fun m => decide (slotState (slotS 3) 0 m < 4)) = true) ∧
    ((0x02 : Byte) ∈ [(0x02 : Byte), 0x32, 0x0B, 0x6B, 0x05, 0xAB] ∧ (0x03 : Byte) ∉ [(0x02 : Byte), 0x32, 0x0B, 0x6B, 0x05, 0xAB]) ∧
    (smRuns (doorS 0) = true ∧ popReady (doorS 0) 320 = true ∧ popReady (doorS 0) 321 = false ∧ ((doorS 0).queue 320).stages.length = 1 ∧
      (List.range 18).all (fun ch => (serOf (doorS 0) ch).rx.isEmpty) = true ∧ (List.range 4).all (fun c => (adcOf (doorS 0) c).wait.isNone) = true) ∧
    ((doorS 0).flag (Adr.mb1Own 0) 16 = true ∧ (doorS 0).flag Adr.mb1State 0 = false ∧ (doorS 0 true).flag Adr.mb1State 0 = true ∧
      bits (0x10008 : Word) 15 3 ≠ 0 ∧ bits (0x10000 : Word) 15 3 = 0 ∧ (doorS 0).sm.cmdWait = none ∧ (doorS 0).field Adr.mb1State 7 0 = 0) ∧
    Readable (doorS 0) 0x33FF800 256 ∧ (byteAt (doorS 0) 0x33FF802).toNat + 256 * (byteAt (doorS 0) 0x33FF803).toNat = bits (0 : Word) 31 16 ∧
    (byteAt (doorS 0x10000) 0x33FF802).toNat + 256 * (byteAt (doorS 0x10000) 0x33FF803).toNat ≠ bits (0x10000 : Word) 31 16 := by
  refine ⟨by decide +kernel, by decide +kernel, by decide +kernel, by decide +kernel, by decide +kernel, by decide +kernel, by decide +kernel,
    readableB_sound _ _ _ (by decide +kernel), by decide +kernel, by decide +kernel⟩

/-- A ring of slots 2 and 3, slot 3 DONE: slot 2 is RUNG and MB_ERR bit 1 is set (R471). -/
theorem test_ring : (after (.mailboxRing false 0x0C) (slotS 3)).map (fun t => (slotState t 0 2, slotState t 0 3, t.sm.rung, mbErr t 0)) =
    some (1, 3, [2], 2) := by decide +kernel

/-- An SPI write of a word to slot 0 (R475). -/
theorem test_spi_write : (after (.spiWrite 4 [1, 2, 3, 4]) liveS).map (fun t => at_ (blockAt t 0 0) 4 4) = some 0x04030201 := by decide +kernel

theorem wit_ManagerTimed :
    (liveS.field Adr.mb1State 7 0 = 0 ∧ liveS.sm.cmdWait = none ∧ portsAnswer liveS = true ∧ WarmCause.stall ≠ .sramError) ∧
    (sessionOf liveS 0 = none ∧ sessionBusy (cmdS 0x0101 []) 0 = false ∧ sessionOf (cmdS 0x0101 []) 0 ≠ none) ∧
    (sessionBusy (withSm (fun m => { m with cmdWait := some ⟨0, 0, [], [], true⟩ }) (cmdS 0x0101 [])) 0 = true) ∧
    ([JobKind.imageLoad 0x3000000 0 0, .repair 0, .format 0, .playback 0].all (fun k => (jobOf (jobbed k liveS) 0).isSome)) = true ∧
    ((loadImage liveS 0x3000000 false false).2.status ≠ 0 ∧ repState (liveS.setField (Adr.repEntry 0) 23 22 2) 0 = 2 ∧ repState liveS 0 < 2 ∧
      liveS.flag (Adr.shdCfg 0) 1 = false ∧ (liveS.setFlag (Adr.shdCfg 0) 1 true).flag (Adr.shdCfg 0) 1 = true ∧ liveS.flag (Adr.pbCtl 0) 1 = false ∧
      (liveS.setFlag (Adr.pbCtl 0) 1 true).flag (Adr.pbCtl 0) 1 = true) ∧
    (((withSm (fun m => { m with jobs := [(8, some ⟨1, .format 0, false, 0, 0, [], 0⟩)] }) liveS).sm.jobs.filter (fun e => 8 ≤ e.1))[0]?.isSome = true ∧
      (liveS.sm.jobs.filter (fun e => 8 ≤ e.1)).length ≤ 0) ∧
    ((lockout liveS 0).lock = 0 ∧ (lockout (withSm (fun m => { m with lockouts := [(7, ⟨0, 1, 1⟩)] }) liveS) 7).lock ≠ 0) ∧
    (let s := goDark (liveS.setReg Adr.smDarkpol 1) 0 1 0
     smRuns s = true ∧ s.flag Adr.smDarkpol 0 = true ∧ coreDark s 0 = true ∧ 0 ∉ s.sm.darkHeld ∧ (Sparse.get (fun _ => []) s.sm.darkTimes 0).length < 3) ∧
    (3 ≤ ((Sparse.get (fun _ => []) (withSm (fun m => { m with darkTimes := [(0, [0, 0, 0])] }) liveS).sm.darkTimes 0).filter
      (fun t => decide (liveS.metro.toNat < t + 3600000000))).length) ∧
    (liveS.sm.vid = liveS.sm.vidTarget ∧ (withSm (fun m => { m with vidTarget := 45 }) liveS).sm.vid < 45 ∧
      0 < (withSm (fun m => { m with vidTarget := 0 }) liveS).sm.vid) ∧
    (houseNow liveS ≤ 1 ∧ liveS.sm.entering ≠ .waiting ∧ (List.range 66).all (fun d => powTab liveS d == domSetting liveS d) = true ∧
      (List.range 160).all (fun n => powTab liveS (128 + n) == gateSetting liveS (n / 5) (n % 5)) = true) ∧
    (let s := setDomState liveS 5 1
     powTab s 5 ≠ domSetting s 5 ∧ (List.range 66).all (fun d => d == 5 || powTab s d == domSetting s d) = true ∧ domOn s 5 = false ∧
      s.field (Adr.domainSet 0) 11 10 = 0 ∧ s.boot.brown = 0) ∧
    (let s := withSm (fun m => { m with gateReq := [159] }) liveS
     (159 < 160 ∧ 159 ∈ s.sm.gateReq) ∧ 160 ∉ s.sm.gateReq) ∧
    (∃ w : CmdWait, w.vid = false ∧ w.doms = [5] ∧ w.gates = []) ∧
    (0 ∉ lostSegments liveS 0 ∧ (switchCore liveS 0 = none ∨ lostSegments liveS 0 = []) ∧ liveS.sm.records.length < 128 ∧
      (2 : BitVec 4) = 1 <<< 1) := by
  refine ⟨by decide +kernel, by decide +kernel, by decide +kernel, by decide +kernel, by decide +kernel, by decide +kernel, by decide +kernel,
    by decide +kernel, by decide +kernel, by decide +kernel, by decide +kernel, by decide +kernel, by decide +kernel,
    ⟨⟨0, 0, [5], [], false⟩, rfl, rfl, rfl⟩, by decide +kernel⟩

/-- VCORE moves one step towards its target (R53). -/
theorem test_vid : (after .vidStep (withSm (fun m => { m with vidTarget := 45 }) liveS)).map (fun t => t.sm.vid) = some 31 := by decide +kernel

/-- A domain comes ON once its switch is through (R540). -/
theorem test_domain_on : (after (.domainOnComplete 5 none 0) (setDomState liveS 5 1)).map (fun t => domOn t 5) = some true := by decide +kernel

/-! ### House states, boot and debug -/

/-- The part in a house state with a wake due or not. -/
def houseS (st : Nat) (due : Bool := true) (f : Sm → Sm := id) : State := withSm (fun m => f { m with wakeDue := due }) (liveS.setField Adr.pmStat 3 0 st)

/-- The part on its way to a house state. -/
def enteringS (e : Entering) : State := withSm (fun m => { m with entering := e }) liveS

theorem wit_House :
    (liveS.sm.entering = .no ∧ (enteringS (.answered 1 [])).sm.entering = .answered 1 [] ∧ (enteringS (.answered 0 [])).sm.entering = .answered 0 []) ∧
    ([2, 3, 4, 5].all (fun g => (enteringS (.answered g [0, 143])).sm.entering == .answered g [0, 143])) = true ∧
    ((withSm (fun m => { m with walkNext := some (List.replicate 72 0) }) (enteringS (.answered 4 []))).sm.walkNext = some (List.replicate 72 0)) ∧
    (let s := (liveS.setFlag Adr.pmMode 0 true).setField Adr.pmTarget 2 0 5
     s.flag Adr.pmMode 0 = true ∧ houseNow s ≤ 1 ∧ domOn s 52 = true ∧ s.sm.cmdWait = none ∧ 3 ≤ s.field Adr.bootStat 2 0 ∧ s.field Adr.pmTarget 2 0 = 5) ∧
    (domainOf 0 = some 0 ∧ onChip 0 = true ∧ domSetting liveS 0 ≠ 2 ∧ domainOf 0x20000 ≠ none) ∧
    ([1, 2, 3, 4, 5].all (fun st => houseNow (houseS st) == st && (houseS st).sm.wakeDue && !(houseS st).boot.porst && (houseS st).boot.brown == 0 &&
      (houseS st).heldW.isEmpty && (houseS st).sm.keepRegs.isEmpty && (houseS st).sm.keepRoles.isEmpty)) = true ∧
    ((List.range 66).all (fun d => decide (powTab liveS d < 4)) = true ∧ houseNow (houseS 0) = 0 ∧ (houseS 1 false).sm.wakeDue = false) ∧
    (let s := (houseS 3 true (fun m => { m with keepRoles := [0] })).setRole 0 { holding 0 with frozen := true }
     0 ∈ s.sm.keepRoles ∧ (s.role 0).frozen = true ∧ imageOf s 0 = none) ∧
    (let s := (houseS 4 false).setReg Adr.wtCtl 0x10001
     houseNow s = 4 ∧ s.sm.wakeDue = false ∧ ((List.range 16).filter (fun i => s.flag Adr.wtCtl i)).length = 1 ∧ s.field Adr.wtCtl 31 16 = 1 ∧
      (s.reg Adr.wtScans + 1).toNat = 1 ∧ ¬ (5 < s.field (Adr.wtWin 0) 11 0 ∨ (s.setReg (Adr.wtWin 0) 0x50000).field (Adr.wtWin 0) 27 16 < 5) ∧
      s.field (Adr.wtWin 0) 27 16 < 4096) ∧
    (houseNow liveS = 0 ∧ houseNow (houseS 2 false) ≠ 0) ∧
    ((enteringS .waiting).sm.entering ≠ .no ∧ houseNow (enteringS .waiting) = 0 ∧ (enteringS .waiting).sm.wakeLatch = none ∧
      (withSm (fun m => { m with wakeLatch := some (7, 0) }) (enteringS .waiting)).sm.wakeLatch ≠ none) ∧
    ((liveS.setFlag Adr.wakeI2c 7 true).flag Adr.wakeI2c 7 = true ∧ (liveS.setFlag Adr.wakeI2c 7 false).flag Adr.wakeI2c 7 = false) ∧
    (liveS.sm.alarm = none ∧ (withSm (fun m => { m with alarm := some 5 }) liveS).sm.alarm = some 5 ∧
      (liveS.metro.toNat + liveS.sm.timeOff.toNat) % 2 ^ 64 < 5 ∧ (0 : BitVec 64).toNat ≤ (liveS.metro.toNat + liveS.sm.timeOff.toNat) % 2 ^ 64) ∧
    ([0, 1, 2, 3, 4, 5, 7].all (fun p => let s := liveS.setField (Adr.wakePin 15) 3 1 p
      bits (s.reg (Adr.wakePin 15)) 3 1 == p && bit (s.reg (Adr.wakePin 15)) 6 == false)) = true ∧
    ((liveS.setFlag (Adr.wakePin 15) 0 true).flag (Adr.wakePin 15) 0 = true) := by decide +kernel

/-- A second wake event while one is due only counts (R552). -/
theorem test_wake_counts : (after .spiWake (houseS 2)).map (fun t => t.field Adr.wakeStat 7 4) = some 1 := by decide +kernel

/-- A bad window on a WALK scan wakes the part with source 4 and its input (R557, R558). -/
theorem test_walk : (after (.walkScan [5]) (((houseS 4 false).setReg Adr.wtCtl 1).setReg (Adr.wtWin 0) 0x00040000)).map (fun t => (t.field Adr.wakeRecord 3 0, t.flag (Adr.wtLast 0) 12)) =
    some (4, true) := by decide +kernel

/-- The part under PORST, or in a brownout. -/
def bootS (f : Boot → Boot) (s : State := liveS) : State := { s with boot := f s.boot }

theorem wit_Boot :
    (State.reset.boot.porst = true ∧ liveS.boot.porst = false ∧ State.reset.boot.brown = 0) ∧
    (houseNow liveS ≤ 1 ∧ (bootS (fun b => { b with brown := 2 })).boot.brown ≠ 0 ∧ (bootS (fun b => { b with brown := 2 }) State.reset).boot.porst = true ∧
      (bootS (fun b => { b with brown := 1, brownLow := true })).boot.brownLow = true) ∧
    (State.reset.sm.cxlNext = none ∧ (withSm (fun m => { m with cxlNext := some (1, 2, 2, 1) }) State.reset).sm.cxlNext = some (1, 2, 2, 1)) ∧
    (State.reset.time.refclk = true ∧ noRef.time.refclk = false ∧ noRef.boot.porst = true) ∧
    (hwdCounts State.reset = false ∧ hwdCounts liveS = true ∧ liveS.scenes = [] ∧ liveS.caches = [] ∧ liveS.cxl.reqs = [] ∧ liveS.staging = []) ∧
    (let s := liveS.setField Adr.bootStat 2 0 2
     s.field Adr.bootStat 2 0 = 2 ∧ s.boot.porst = false ∧ s.boot.brown = 0 ∧ houseNow s = 0 ∧ liveS.field Adr.bootStat 2 0 ≠ 2) ∧
    (let s := { (liveS.setField Adr.bootStat 2 0 1) with time := noRef.time }
     s.time.refclk = false ∧ s.boot.porst = false ∧ s.boot.brown = 0 ∧ s.field Adr.bootStat 2 0 = 1) ∧
    (let s := opened liveS
     s.flag Adr.smStat 2 = true ∧ winOpen s 0 = true ∧ houseNow s = 0 ∧ s.sm.keepRegs = [] ∧ s.boot.resume = [] ∧ s.boot.todo = [] ∧
      s.boot.dirRead = false ∧ bits (Sparse.get (fun _ => (0 : Word)) s.sm.ownerRead 16) 1 0 ≠ 1 ∧
      bits (Sparse.get (fun _ => (0 : Word)) s.sm.ownerRead 16) 3 2 = 0 ∧ winOpen s 1 = false ∧
      (bootS (fun b => { b with dirRead := true }) s).boot.dirRead = true ∧
      (Sparse.get (fun _ => (0 : Word)) (withSm (fun m => { m with ownerRead := [(16, 1)] }) s).sm.ownerRead 16) = 1) ∧
    (let s := opened liveS
     (match readMem (recallLoads { s with boot := { s.boot with dirRead := true } } none 0x10000000000 4096) agentSm 0x10000000000 4096 with
      | (_, .error _) => true
      | (_, .ok _) => false) = true) ∧
    (loadImage liveS 0x3000000 false false).2.status ≠ 0 := by decide +kernel

/-- A PORST assert counts one more reset and keeps METRO at 0 (R519, R651). -/
theorem test_porst : (after .porstAssert (bootS id { liveS with metro := 77 })).map (fun t => (t.field Adr.rstCause 2 0, t.metro, t.boot.porst)) =
    some (1, 0, true) := by decide +kernel

/-- SRAM_BIST_DONE makes the stage manager ready (R525, R527). -/
theorem test_bist : (after .sramBistDone ((liveS.setField Adr.bootStat 2 0 2).setFlag Adr.smStat 2 false)).map
    (fun t => (t.flag Adr.smStat 2, t.field Adr.bootStat 2 0)) = some (true, 3) := by decide +kernel

/-- The TAP with a link selected and a DEBUG session that has unlocked the part. -/
def linkS (addrl : Word := 0) (addrh : Word := 0) (s : State := liveS) : State :=
  let s := withSm (fun m => { m with sessions := [(0, some (sessS 5 2))], unlocked := [(0, 0, false)] }) s
  { s with tap := { s.tap with ir := 8, addrl := addrl, addrh := addrh } }

theorem wit_TapAndLink :
    (domOn liveS 63 = true ∧ liveS.tap.ir = 2 ∧ State.reset.boot.porst = true ∧ liveS.boot.porst = false) ∧
    ((linkS).tap.ir = 8 ∧ (linkS).sm.debugDis = false ∧ sessionOf linkS 0 = some (sessS 5 2) ∧ (linkS).sm.unlocked ≠ [] ∧ portsAnswer linkS = true ∧
      portsAnswer (linkS 0 0 State.reset) = false ∧ (withSm (fun m => { m with debugDis := true }) linkS).sm.debugDis = true ∧
      ({ liveS with tap := { liveS.tap with ir := 8 } }).sm.unlocked = []) ∧
    ((0x3FF : BitVec 16).toNat * 4 < 0x1000 ∧ (0x400 : BitVec 16).toNat * 4 = 0x1000 ∧ (0x401 : BitVec 16).toNat * 4 = 0x1004 ∧
      (0x402 : BitVec 16).toNat * 4 = 0x1008 ∧ (0x403 : BitVec 16).toNat * 4 = 0x100C ∧ 0x1010 ≤ (0x404 : BitVec 16).toNat * 4) ∧
    (linkReaches linkS 0 = true ∧ isMemory 0 = true ∧ inCxl 0 = false ∧ Readable linkS 0 4 ∧ holdStalls linkS 0 = false ∧ isPort 0 = false ∧
      storeError linkS 0 = false) ∧
    (linkReaches linkS 0x10208000 = true ∧ isMemory 0x10208000 = false ∧ regionOf 0x10208000 = .port 0 ∧ isPort 0x10208000 = true ∧
      holdStalls linkS 0x10208000 = false) ∧
    (linkReaches linkS (Adr.tmrLoad 0) = true ∧ isMemory (Adr.tmrLoad 0) = false ∧ isPort (Adr.tmrLoad 0) = false ∧
      storeError linkS (Adr.tmrLoad 0) = false ∧ storeError (setDomState linkS 65 2) (Adr.tmrLoad 0) = true) ∧
    linkReaches (withSm (fun m => { m with unlocked := [(64, 0, false)] }) linkS) 0x20000 = false ∧
    holdStalls linkS (Adr.uibHold 64) = false ∧
    ((State.reset.setFlag Adr.trCtl 0 true).flag Adr.trCtl 0 = true ∧ State.reset.flag Adr.trCtl 0 = false ∧ State.reset.trace.fifo = [] ∧
      State.reset.trace.owed = 0 ∧ (⟨[1], 3, true, 4095, 0⟩ : Trace).sent + 1 = 4096) := by
  refine ⟨by decide +kernel, by decide +kernel, by decide +kernel, ⟨by decide +kernel, by decide +kernel, by decide +kernel,
    readableB_sound _ _ _ (by decide +kernel), by decide +kernel⟩, by decide +kernel, by decide +kernel, by decide +kernel, by decide +kernel, by decide +kernel⟩

/-- IDCODE shows 0x271609CB (R602). -/
theorem test_idcode : (after .idcode State.reset).map tapShows = some 0x271609CB := by decide +kernel

/-- A DL_DATA store of a word to SRAM with AUTOINC moves the address on by 4 (R605, R623). -/
theorem test_link_write : (after (.linkWrite 0x403 0x11223344) (linkS 0x40 0x10000)).map (fun t => (natAt t 0x40 4, t.tap.addrl, t.tap.status)) =
    some (0x11223344, 0x44, 0) := by decide +kernel

theorem wit_StepKeepsCanonical : State.reset.Canonical ∧ (match step { State.reset with pending := [.timerStart 0] } with
    | .next t => t.pending.isEmpty
    | _ => false) = true := by decide +kernel

end Sys2Proof.Tests
end

section
/-! PROOF. The compute instructions of class 0x0 that add, subtract and shift, and the two immediate forms of the add family
(R107 to R111): their operands outside a prompt, the value of each result, and one row lemma per shape of body. -/

namespace Sys2Proof.Machine

/-! ### Operands outside a prompt -/

section Operands
variable {t : State} {r : Nat} (hp : (t.role r).prompt = false)
include hp

theorem opA_plain (w : Word) : opA t r w = (t.role r).greg (fGa w) := gaVal_plain hp

theorem opI_plain (w : Word) : opI t r w = (t.role r).greg (iGa w) := gaVal_plain hp

end Operands

/-- The immediate "s" of R111, from the whole word. -/
theorem immS_eq_signExtend (w : Word) : immS w = (BitVec.ofNat 10 w.toNat).signExtend 32 := by
  have low : BitVec.ofNat 10 (bits w 9 0) = BitVec.ofNat 10 w.toNat :=
    BitVec.eq_of_toNat_eq (by simp [bits_low])
  rw [immS, low]

/-! ### Results of the one addition (R109) -/

theorem addWith_res (x y : Word) (k : Bool) : (addWith x y k).res = x + y + BitVec.ofNat 32 (if k then 1 else 0) := by
  simp [addWith, BitVec.ofNat_add]

theorem addWith_false_res (x y : Word) : (addWith x y false).res = x + y := by
  simp [addWith_res]

theorem subWith_true_res (x y : Word) : (subWith x y true).res = x - y := by
  rw [subWith, addWith_res]
  simp only [if_true]
  bv_omega

/-- With a borrow pending (carry 0) a subtract takes one more off. -/
theorem subWith_res (x y : Word) (k : Bool) :
    (subWith x y k).res = x - y - BitVec.ofNat 32 (1 - if k then 1 else 0) := by
  cases k with
  | true => simp [subWith_true_res]
  | false =>
    rw [subWith, addWith_res]
    simp only [Bool.false_eq_true, if_false]
    bv_omega

/-! ### Rows of class 0x0 and of compares -/

section Rows
variable {i : Instr} {op : Op} {s t : State} {r : Nat} {w : Word} {body : Body}
  (he : exec i s = .next (issue s r op w body))
include he

/-- A class 0x0 row: the claim on ST holds of what the instruction computes, and ST is kept where F is 0 (R107). -/
theorem aluResult_writes {v st : Word} {claim : Word → Prop}
    (hb : (t.role r).prompt = false → body t r w = aluResult t r w v st) (hc : claim st) :
    Writes i op s t r w (fGd w) v (WithF w (t.role r).st claim) := by
  refine writes_row he hb ?_
  unfold WithF
  split
  · exact hc
  · rfl

theorem aluSum_writes {v x y : Word} {k : Bool}
    (hb : (t.role r).prompt = false → body t r w = aluSum t r w (addWith x y k)) (hv : (addWith x y k).res = v) :
    Writes i op s t r w (fGd w) v (WithF w (t.role r).st (SumFlags (t.role r).st · x y (if k then 1 else 0))) := by
  subst hv
  exact aluResult_writes he hb (sumflags _ x y k)

/-- A compare writes no register and always its flags. -/
theorem flagsOnly_sum_writes {x y : Word} {k : Bool}
    (hb : (t.role r).prompt = false → body t r w = flagsOnly t r (stSum (t.role r).st (addWith x y k))) :
    Writes i op s t r w 0 0 (SumFlags (t.role r).st · x y (if k then 1 else 0)) :=
  writes_row he hb (sumflags _ x y k)

/-- A shift by n = b[7:0], from the entry of R110's table for n. -/
theorem aluShift_writes {k : Shift} {n : Nat} {v : Word} {c : Option Bool}
    (hb : body t r w = aluShift t r w k) (hn : n = ((t.role r).greg (fGb w)).toNat % 256)
    (hs : shift k ((t.role r).greg (fGa w)) n = (v, c)) :
    Writes i op s t r w (fGd w) v (WithF w (t.role r).st (ShiftFlags (t.role r).st · v c)) := by
  refine aluResult_writes he (fun hp => ?_) (shiftflags _ (v, c))
  have amount : bits (opB t r w) 7 0 = n := by rw [bits_low, hn]; rfl
  rw [hb, aluShift, opA_plain hp, amount, hs]

end Rows

/-! ### The table of R110 -/

theorem shiftLeft_eq_ofNat (a : Word) (n : Nat) : a <<< n = BitVec.ofNat 32 (a.toNat * 2 ^ n) :=
  BitVec.eq_of_toNat_eq (by simp [Nat.shiftLeft_eq])

theorem ushiftRight_eq_ofNat (a : Word) (n : Nat) : a >>> n = BitVec.ofNat 32 (a.toNat / 2 ^ n) := by
  have fits : a.toNat / 2 ^ n < 2 ^ 32 := Nat.lt_of_le_of_lt (Nat.div_le_self _ _) a.isLt
  apply BitVec.eq_of_toNat_eq
  rw [BitVec.toNat_ushiftRight, Nat.shiftRight_eq_div_pow, BitVec.toNat_ofNat, Nat.mod_eq_of_lt fits]

theorem shift_by_zero (k : Shift) (a : Word) : shift k a 0 = (a, none) := rfl

theorem shift_lsl_of_le_31 (a : Word) {n : Nat} (h1 : 1 ≤ n) (h31 : n ≤ 31) :
    shift .lsl a n = (BitVec.ofNat 32 (a.toNat * 2 ^ n), some (bit a (32 - n))) := by
  simp [shift, show n ≠ 0 by omega, show n < 32 by omega, show n ≤ 32 by omega, shiftLeft_eq_ofNat]

theorem shift_lsr_of_le_31 (a : Word) {n : Nat} (h1 : 1 ≤ n) (h31 : n ≤ 31) :
    shift .lsr a n = (BitVec.ofNat 32 (a.toNat / 2 ^ n), some (bit a (n - 1))) := by
  simp [shift, show n ≠ 0 by omega, show n < 32 by omega, show n ≤ 32 by omega, ushiftRight_eq_ofNat]

theorem shift_asr_of_le_31 (a : Word) {n : Nat} (h1 : 1 ≤ n) (h31 : n ≤ 31) :
    shift .asr a n = (BitVec.ofInt 32 (a.toInt / 2 ^ n), some (bit a (n - 1))) := by
  have res : a.sshiftRight n = BitVec.ofInt 32 (a.toInt / 2 ^ n) := by
    rw [BitVec.sshiftRight, Int.shiftRight_eq_div_pow, Int.natCast_pow, Int.cast_ofNat_Int]
  simp [shift, show n ≠ 0 by omega, show n < 32 by omega, res]

theorem shift_lsl_by_32 (a : Word) : shift .lsl a 32 = (0, some (bit a 0)) := rfl

theorem shift_lsr_by_32 (a : Word) : shift .lsr a 32 = (0, some (bit a 31)) := rfl

theorem shift_lsl_of_33_le (a : Word) {n : Nat} (h : 33 ≤ n) : shift .lsl a n = (0, some false) := by
  simp [shift, show n ≠ 0 by omega, show ¬ n < 32 by omega, show ¬ n ≤ 32 by omega]

theorem shift_lsr_of_33_le (a : Word) {n : Nat} (h : 33 ≤ n) : shift .lsr a n = (0, some false) := by
  simp [shift, show n ≠ 0 by omega, show ¬ n < 32 by omega, show ¬ n ≤ 32 by omega]

/-- Every bit of an arithmetic shift by 31 is the sign. -/
theorem sshiftRight_31 (a : Word) : a.sshiftRight 31 = if bit a 31 then ~~~(0 : Word) else 0 := by
  apply BitVec.eq_of_getLsbD_eq
  intro j hj
  have sign : (a.sshiftRight 31).getLsbD j = bit a 31 := by
    rw [BitVec.getLsbD_sshiftRight]
    rcases Nat.eq_zero_or_pos j with rfl | hpos
    · rfl
    · simp [show ¬ 32 ≤ j by omega, show ¬ 31 + j < 32 by omega, bit, BitVec.msb_eq_getLsbD_last]
  rw [sign]
  cases bit a 31 with
  | true => rw [if_pos rfl, BitVec.getLsbD_not]; simp [hj]
  | false => simp

theorem shift_asr_of_32_le (a : Word) {n : Nat} (h : 32 ≤ n) :
    shift .asr a n = (if bit a 31 then ~~~(0 : Word) else 0, some (bit a 31)) := by
  simp only [shift, show n ≠ 0 by omega, show ¬ n < 32 by omega, if_false, sshiftRight_31]

/-- A rotation is the low part shifted down beside the high part shifted up. -/
theorem rotateRight_eq_or (a : Word) (m : Nat) (hm : m < 32) :
    a.rotateRight m = BitVec.ofNat 32 (a.toNat / 2 ^ m) ||| BitVec.ofNat 32 (a.toNat * 2 ^ (32 - m)) := by
  rw [BitVec.rotateRight_def, Nat.mod_eq_of_lt hm, ushiftRight_eq_ofNat, shiftLeft_eq_ofNat]

theorem shift_ror_of_pos (a : Word) {n : Nat} (h : 1 ≤ n) {rot : Word}
    (hrot : BitVec.ofNat 32 (a.toNat / 2 ^ (n % 32)) ||| BitVec.ofNat 32 (a.toNat * 2 ^ (32 - n % 32)) = rot) :
    shift .ror a n = (rot, some (bit rot 31)) := by
  subst hrot
  rw [← rotateRight_eq_or a (n % 32) (Nat.mod_lt n (by decide))]
  simp only [shift, show n ≠ 0 by omega, if_false]

/-! ### The obligations -/

/-- Settles O3: each body is the one addition of R109 on its operands, and the row lemmas say what it leaves. -/
theorem addFamily : Obligations.AddFamily := by
  intro r w s t x a b i c s10
  refine ⟨?add, ?addc, ?sub, ?subc, ?cmp, ?cmpa, ?addif, ?cmpi⟩
  case add =>
    exact aluSum_writes (k := false) rfl (fun hp => by rw [doAdd, opA_plain hp]; rfl) (addWith_false_res a b)
  case addc =>
    exact aluSum_writes (k := bit x.st 0) rfl (fun hp => by rw [doAddc, opA_plain hp]; rfl) (addWith_res a b _)
  case sub =>
    exact aluSum_writes (k := true) rfl (fun hp => by rw [doSub, opA_plain hp]; rfl) (subWith_true_res a b)
  case subc =>
    exact aluSum_writes (k := bit x.st 0) rfl (fun hp => by rw [doSubc, opA_plain hp]; rfl) (subWith_res a b _)
  case cmp =>
    exact flagsOnly_sum_writes (k := true) rfl (fun hp => by rw [doCmp, opA_plain hp]; rfl)
  case cmpa =>
    exact flagsOnly_sum_writes (k := false) rfl (fun hp => by rw [doCmpa, opA_plain hp]; rfl)
  case addif =>
    rw [← addWith_false_res i s10]
    exact writes_row rfl (fun hp => by rw [doAddif, opI_plain hp, immS_eq_signExtend]) (sumflags x.st i s10 false)
  case cmpi =>
    exact flagsOnly_sum_writes (k := true) rfl (fun hp => by rw [doCmpi, opI_plain hp, immS_eq_signExtend]; rfl)

/-- Settles O5: each clause is the row of a shift with the entry of R110's table for its range of n. -/
theorem shifts : Obligations.Shifts := by
  intro r w s t n x a sign rot sh hn
  refine ⟨?zero, ?to31, ?by32, ?above32, ?asrFull, ?ror⟩
  case zero =>
    rintro rfl
    exact ⟨aluShift_writes rfl rfl hn (shift_by_zero _ a), aluShift_writes rfl rfl hn (shift_by_zero _ a),
      aluShift_writes rfl rfl hn (shift_by_zero _ a), aluShift_writes rfl rfl hn (shift_by_zero _ a)⟩
  case to31 =>
    intro h1 h31
    exact ⟨aluShift_writes rfl rfl hn (shift_lsl_of_le_31 a h1 h31), aluShift_writes rfl rfl hn (shift_lsr_of_le_31 a h1 h31),
      aluShift_writes rfl rfl hn (shift_asr_of_le_31 a h1 h31)⟩
  case by32 =>
    rintro rfl
    exact ⟨aluShift_writes rfl rfl hn (shift_lsl_by_32 a), aluShift_writes rfl rfl hn (shift_lsr_by_32 a)⟩
  case above32 =>
    intro h
    exact ⟨aluShift_writes rfl rfl hn (shift_lsl_of_33_le a h), aluShift_writes rfl rfl hn (shift_lsr_of_33_le a h)⟩
  case asrFull =>
    exact fun h => aluShift_writes rfl rfl hn (shift_asr_of_32_le a h)
  case ror =>
    exact fun h => aluShift_writes rfl rfl hn (shift_ror_of_pos a h rfl)

end Sys2Proof.Machine
end

section
/-! PROOF. The access check of a ticket (R236) as the first failed test of its table, and the fault of a LOAD or STORE whose check
fails (R131, R132 check 1). -/

namespace Sys2Proof.Machine

/-! ### The first failed test of a table -/

/-- The tests of a table, tried in order: none where all hold, else the detail of the first that does not. -/
inductive FirstFailed : List (Prop × Byte) → Option Byte → Prop
  | nil : FirstFailed [] none
  | fails {p : Prop} {d : Byte} {l : List (Prop × Byte)} (hp : ¬ p) : FirstFailed ((p, d) :: l) (some d)
  | passes {p : Prop} {d : Byte} {l : List (Prop × Byte)} {o : Option Byte} (hp : p) (rest : FirstFailed l o) :
      FirstFailed ((p, d) :: l) o

namespace FirstFailed

variable {l : List (Prop × Byte)} {o : Option Byte}

/-- A conditional whose guard is that the test fails puts the test in front of the table. -/
theorem cons_ite {p q : Prop} [Decidable q] {d : Byte} (hq : q ↔ ¬ p) (rest : FirstFailed l o) :
    FirstFailed ((p, d) :: l) (if q then some d else o) := by
  split
  next fails => exact .fails (hq.mp fails)
  next passes => exact .passes (Classical.not_not.mp (mt hq.mpr passes)) rest

theorem eq_none_iff (h : FirstFailed l o) : o = none ↔ ∀ e ∈ l, e.1 := by
  induction h with
  | nil => simp
  | fails hp => simp [hp]
  | passes hp _ ih => simp [hp, ih]

theorem eq_some_iff (h : FirstFailed l o) (d : Byte) :
    o = some d ↔ ∃ n : Nat, ∃ e : Prop × Byte, l[n]? = some e ∧ ¬ e.1 ∧ e.2 = d ∧
      ∀ m : Nat, ∀ f : Prop × Byte, m < n → l[m]? = some f → f.1 := by
  induction h with
  | nil => simp
  | fails hp =>
    constructor
    · rintro ⟨⟩
      exact ⟨0, _, rfl, hp, rfl, fun m _ hm => absurd hm (Nat.not_lt_zero m)⟩
    · rintro ⟨n, e, at_n, -, rfl, before⟩
      cases n with
      | zero => cases at_n; rfl
      | succ n => exact absurd (before 0 _ (Nat.succ_pos n) rfl) hp
  | passes hp _ ih =>
    rw [ih]
    constructor
    · rintro ⟨n, e, at_n, fails, detail, before⟩
      refine ⟨n + 1, e, at_n, fails, detail, fun m f hm at_m => ?_⟩
      cases m with
      | zero => cases at_m; exact hp
      | succ m => exact before m f (Nat.lt_of_succ_lt_succ hm) at_m
    · rintro ⟨n, e, at_n, fails, detail, before⟩
      cases n with
      | zero => cases at_n; exact absurd hp fails
      | succ n => exact ⟨n, e, at_n, fails, detail, fun m f hm at_m => before (m + 1) f (Nat.succ_lt_succ hm) at_m⟩

end FirstFailed

/-- The table of R236, a test beside its detail. -/
def accessTests (t : Ticket) (off size : Nat) (need : List Nat) (fetch priv : Bool) : List (Prop × Byte) := [
  (t.tag = true, 0x01), (t.sealTy = 0, 0x02), (∀ p, p ∈ need → bit t.perm p = true, 0x03), (off + size ≤ t.len.toNat, 0x05),
  (fetch = true → fetchable (t.addr off) = true, 0x0A),
  (priv = true ∨ (isBook (t.addr off) = false ∧ isBook (t.addr off + size - 1) = false), 0x0B)]

/-- The access check goes through R236's table in its order. -/
theorem check_firstFailed (t : Ticket) (off size : Nat) (need : List Nat) (fetch priv : Bool) :
    FirstFailed (accessTests t off size need fetch priv) (t.check off size need fetch priv) := by
  have tag : (!t.tag) = true ↔ ¬ t.tag = true := by simp
  have permissions : need.any (fun p => !bit t.perm p) = true ↔ ¬ ∀ p, p ∈ need → bit t.perm p = true := by simp
  have range : off + size > t.len.toNat ↔ ¬ off + size ≤ t.len.toNat := Nat.not_le.symm
  have fetched : (fetch && !fetchable (t.addr off)) = true ↔ ¬ (fetch = true → fetchable (t.addr off) = true) := by simp
  have book : (!priv && (isBook (t.addr off) || isBook (t.addr off + size - 1))) = true ↔
      ¬ (priv = true ∨ (isBook (t.addr off) = false ∧ isBook (t.addr off + size - 1) = false)) := by
    simp only [Bool.and_eq_true, Bool.or_eq_true, Bool.not_eq_true', not_or, Decidable.not_and_iff_not_or_not, Bool.not_eq_true,
      Bool.not_eq_false]
  exact .cons_ite tag <| .cons_ite Iff.rfl <| .cons_ite permissions <| .cons_ite range <| .cons_ite fetched <| .cons_ite book .nil

/-! ### The access of a LOAD or STORE -/

/-- The immediate of R131, scaled by a shift or by a product. -/
theorem signExtend_shiftLeft_eq_ofInt (v : BitVec 9) (k : Nat) :
    v.signExtend 32 <<< k = BitVec.ofInt 32 (v.toInt * 2 ^ k) := by
  have scale : BitVec.twoPow 32 k = BitVec.ofInt 32 ((2 ^ k : Nat) : Int) := by
    rw [BitVec.ofInt_natCast]
    exact BitVec.eq_of_toNat_eq (by simp)
  rw [BitVec.shiftLeft_eq_mul_twoPow, BitVec.signExtend, scale, ← BitVec.ofInt_mul, Int.natCast_pow, Int.cast_ofNat_Int]

/-- Outside prompts and repeats the offset is that of R131. -/
theorem mOff_plain {t : State} {r : Nat} (hr : (t.role r).rep = none) (hp : (t.role r).prompt = false) (w : Word) :
    mOff t r w = accessOff (t.role r) w := by
  have imm : BitVec.ofNat 9 (bits w 8 0) = BitVec.ofNat 9 w.toNat := BitVec.eq_of_toNat_eq (by simp [bits_low])
  simp [mOff, accessOff, repJ, hr, gaVal_plain hp, imm, signExtend_shiftLeft_eq_ofInt, mSz]

theorem accessFault_of_check {T : Ticket} {off n perm : Nat} {d : Byte}
    (h : T.check off n [perm] false T.isDbt = some d) : accessFault T off n perm = some ⟨3, d.toNat, T.addr off⟩ := by
  simp only [accessFault, h]

/-- The row of an instruction of format M that fails where its access does, for an access whose ticket check fails. -/
theorem faults_row_of_check {i : Instr} {op : Op} {s t : State} {r perm : Nat} {w : Word} {body : Body} {d : Byte}
    (he : exec i s = .next (issue s r op w body))
    (hb : ∀ f, accessFault (tickVal t r (mTk w)) (mOff t r w) (mSize w) perm = some f → body t r w = failAt t r w f)
    (hd : ((t.role r).tick (mTk w)).check (accessOff (t.role r) w) (2 ^ mSz w) [perm] false ((t.role r).tick (mTk w)).isDbt = some d) :
    Faults i op s t r w 3 d.toNat (some (((t.role r).tick (mTk w)).addr (accessOff (t.role r) w))) := by
  intro h
  obtain ⟨hr, hp⟩ := takes_plain h
  rw [he, issue_takes h, hb ⟨3, d.toNat, _⟩]
  · rfl
  · rw [tickVal_plain hp, mOff_plain hr hp]
    exact accessFault_of_check hd

theorem doLoad_of_accessFault {t : State} {r : Nat} {w : Word} (f : Failed)
    (h : accessFault (tickVal t r (mTk w)) (mOff t r w) (mSize w) permR = some f) : doLoad t r w = failAt t r w f := by
  simp only [doLoad, h]

theorem doStore_of_accessFault {t : State} {r : Nat} {w : Word} (f : Failed)
    (h : accessFault (tickVal t r (mTk w)) (mOff t r w) (mSize w) permW = some f) : doStore t r w = failAt t r w f := by
  simp only [doStore, h]

/-! ### The obligation -/

/-- Settles O10: the check is the first failed test of R236's table, and LOAD and STORE begin with it. -/
theorem ticketChecks : Obligations.TicketChecks := by
  refine ⟨fun t off size need fetch priv => ?table, fun r w s t d => ⟨fun h hd => ?load, fun h hd => ?store⟩⟩
  case table =>
    have table := check_firstFailed t off size need fetch priv
    exact ⟨table.eq_none_iff, table.eq_some_iff⟩
  case load => exact faults_row_of_check rfl doLoad_of_accessFault hd h
  case store => exact faults_row_of_check rfl doStore_of_accessFault hd h

end Sys2Proof.Machine
end
